-- ==== Sys2Proof/Word.lean ====
section
/-! DEFINITION. The words of the machine and their plainest arithmetic. -/

namespace Sys2Proof

/-- One byte of memory. -/
abbrev Byte := BitVec 8
/-- A 32-bit register element, instruction word or lane PC. -/
abbrev Word := BitVec 32
/-- A 64-bit uniform register, special register or memory unit. -/
abbrev DWord := BitVec 64
/-- One bit per lane of a group: bit l stands for lane l (02 R39). -/
abbrev Mask := BitVec 64

end Sys2Proof
end

