-- ==== Sys2Proof/Syntax.lean ====
section
/-! DEFINITION. The instructions and events of the Revon 9: one constructor of Instr for each row of
spec/opcode_table.json. The first 157 are the 32-bit instruction words (05 R162 to R178); the others are the
device's events, each a whole step (95_what_each_step_holds.md). -/

namespace Sys2Proof

/-- The operand code shared by every format (05 R147). -/
inductive Operand where
  | v (n : Fin 40) | s (n : Fin 16) | b (n : Fin 3) | rsv59 | zero | lane | lit | rsv63
  deriving DecidableEq, Repr, Inhabited

/-- FS, the float suffix (05 R167). -/
inductive FS where | s | d | h2 | b2
  deriving DecidableEq, Repr, Inhabited

/-- FC, the float format code (05 R167). -/
inductive FC where | fp32 | fp64 | fp16 | bf16 | e5m2 | e4m3 | e2m1 | rsv7
  deriving DecidableEq, Repr, Inhabited

/-- IT, the integer type code (05 R167). -/
inductive IT where | i8 | i16 | i32 | i64 | n8 | n16 | n32 | n64
  deriving DecidableEq, Repr, Inhabited

/-- RM, the rounding mode code (04 R118, 05 R167). -/
inductive RM where | rne | rtz | rup | rdn | rna | sr | rsv6 | rsv7
  deriving DecidableEq, Repr, Inhabited

/-- SC, the scope code (03 R96). -/
inductive Scope where | grp | tm | cl | dev | prt | dom | sys | rsv7
  deriving DecidableEq, Repr, Inhabited

/-- The icmp predicates (05 R172). -/
inductive IPred where | eq | ne | lt | le | gt | ge | ltu | leu | gtu | geu
  deriving DecidableEq, Repr, Inhabited

/-- The fcmp predicates (05 R172). -/
inductive FPred where | eq | ne | lt | le | gt | ge | uno | ord
  deriving DecidableEq, Repr, Inhabited

/-- MF, the Microscaling element format (06 R206). -/
inductive MF where | e4m3 | e5m2 | e2m1
  deriving DecidableEq, Repr, Inhabited

/-- The special functions (04 R128, 06 R212). -/
inductive SFn where | exp2 | log2 | rcp | rsq | sqrt | sinpi | cospi | tanh | sigm | erf
  deriving DecidableEq, Repr, Inhabited

/-- The reduction operations of redu and scan (05 R175). -/
inductive RedOp where | add | min | max | and | or | xor
  deriving DecidableEq, Repr, Inhabited

/-- The reduction types of redu and scan (05 R175). -/
inductive RedTy where | i32 | n32 | i64 | n64 | s | d | rsv6 | rsv7
  deriving DecidableEq, Repr, Inhabited

/-- The operations of atom (07 R234). -/
inductive AtomOp where | add | min | max | minu | maxu | and | or | xor
  deriving DecidableEq, Repr, Inhabited

/-- The operations of fatom (07 R234). -/
inductive FatomOp where | add | min | max
  deriving DecidableEq, Repr, Inhabited

/-- The access size Z of ld, ldnc and st (05 R176). -/
inductive Size where | n8 | n16 | n32 | n64
  deriving DecidableEq, Repr, Inhabited

/-- The result format of xrnd (08 R267). -/
inductive XFc where | s | d | h | bf
  deriving DecidableEq, Repr, Inhabited

/-- The bits every format A, F, I and U word carries beside its operands: chain bit C (S in slot 2) and W. -/
structure AHdr where
  c : Bool
  w : Bool
  deriving DecidableEq, Repr, Inhabited

/-- The bits every M and E word carries beside its operands: C or S, guard K, stream O and predecessors P (05 R163, R164). -/
structure MHdr where
  c : Bool
  k : BitVec 3
  o : BitVec 2
  p : BitVec 4
  deriving DecidableEq, Repr, Inhabited

/-- A read-modify-write form at the home (07 R234). -/
inductive RmwForm where
  | atom (op : AtomOp) (wide : Bool) | cas (wide : Bool) | swap (wide : Bool)
  | fatom (op : FatomOp) (dbl : Bool) | xaddS | xaddD | vbt
  deriving DecidableEq, Repr, Inhabited

/-- What a KIND 2 request asks of the device that holds the location (03 R83). -/
inductive RemoteAct where
  | read (n : Nat) | write (bytes : List Byte) | rmw (f : RmwForm) (x y : BitVec 128)
  deriving DecidableEq, Repr, Inhabited

/-- A KIND 2 request arriving from another device: its sender, the sender's partition-scope tag, the act and the address. -/
structure RemoteReq where
  dev : Nat
  scope : BitVec 16
  act : RemoteAct
  pa : Nat
  /-- For an EXA64 record that lies in two pages (03 R105): the bytes of its first part, and where the second lies. -/
  cross : Option (Nat × Nat) := none
  deriving DecidableEq, Repr, Inhabited

/-- A collective digest as it arrives from a rank (17 R473). -/
structure Digest where
  tag : Nat
  op : Nat
  dt : Nat
  nrank : Nat
  rank : Nat
  len : Nat
  rlist : List Nat
  scope : BitVec 16
  deriving DecidableEq, Repr, Inhabited

/-- Where an error of a structure was found: its location word (14 R489), and the channel of the flit for a network flit buffer, 8 for
the management channel (14 R401). -/
structure ErrAt where
  word : DWord
  chan : Nat
  deriving DecidableEq, Repr, Inhabited

/-- A reading of a sensor of the trip hardware (17 R477): 0 current in 1/64 A, 1 heat in degrees, 2 supply voltage in volts. -/
structure TripReading where
  why : Nat
  value : BitVec 16
  deriving DecidableEq, Repr, Inhabited

/-- The one inductive of instructions and events. -/
inductive Instr where
  -- Major 0x00 (05 R169)
  | nop (c : Bool) | exit (c : Bool) | yield (c : Bool) | ret (c : Bool)
  | jmpi (c : Bool) (a : Operand) | calli (c : Bool) (a : Operand) (f : BitVec 6)
  | trap (c : Bool) (code : BitVec 16) | tret (c : Bool) | svc (c : Bool) (code : BitVec 16)
  | clk (h : AHdr) (d : Operand) | rdsr (h : AHdr) (d : Operand) (n : BitVec 6)
  | wrsr (c : Bool) (n : BitVec 6) (a : Operand)
  | lpcr (h : AHdr) (d : Operand) | lpcw (c : Bool) (a : Operand) | tmcmp (c : Bool) (a : Operand)
  -- Majors 0x01 to 0x05 (06 R188)
  | bra (c : Bool) (k : BitVec 3) (disp : BitVec 22)
  | brm (c : Bool) (k : BitVec 3) (disp : BitVec 21) | bru (c : Bool) (k : BitVec 3) (disp : BitVec 21)
  | brz (c : Bool) (a : Operand) (disp : BitVec 19) | brnz (c : Bool) (a : Operand) (disp : BitVec 19)
  | call (c : Bool) (f : BitVec 6) (disp : BitVec 19)
  -- Major 0x06 (05 R170)
  | add (h : AHdr) (wide : Bool) (d a b : Operand) | sub (h : AHdr) (wide : Bool) (d a b : Operand)
  | mul (h : AHdr) (wide : Bool) (d a b : Operand) | mulh (h : AHdr) (wide : Bool) (d a b : Operand)
  | mulhu (h : AHdr) (wide : Bool) (d a b : Operand) | addc (h : AHdr) (wide : Bool) (d a b : Operand)
  | subb (h : AHdr) (wide : Bool) (d a b : Operand) | min (h : AHdr) (wide : Bool) (d a b : Operand)
  | max (h : AHdr) (wide : Bool) (d a b : Operand) | minu (h : AHdr) (wide : Bool) (d a b : Operand)
  | maxu (h : AHdr) (wide : Bool) (d a b : Operand) | abs (h : AHdr) (wide : Bool) (d a : Operand)
  | and (h : AHdr) (wide : Bool) (d a b : Operand) | or (h : AHdr) (wide : Bool) (d a b : Operand)
  | xor (h : AHdr) (wide : Bool) (d a b : Operand) | andn (h : AHdr) (wide : Bool) (d a b : Operand)
  | shl (h : AHdr) (wide : Bool) (d a b : Operand) | shr (h : AHdr) (wide : Bool) (d a b : Operand)
  | sra (h : AHdr) (wide : Bool) (d a b : Operand) | clz (h : AHdr) (wide : Bool) (d a : Operand)
  | popc (h : AHdr) (wide : Bool) (d a : Operand) | brev (h : AHdr) (wide : Bool) (d a : Operand)
  | mov (h : AHdr) (wide : Bool) (d a : Operand)
  -- Majors 0x07 to 0x16 (05 R171)
  | addi (h : AHdr) (d a : Operand) (imm : BitVec 12) | andi (h : AHdr) (d a : Operand) (imm : BitVec 12)
  | ori (h : AHdr) (d a : Operand) (imm : BitVec 12) | xori (h : AHdr) (d a : Operand) (imm : BitVec 12)
  | shli (h : AHdr) (d a : Operand) (imm : BitVec 6) | shri (h : AHdr) (d a : Operand) (imm : BitVec 6)
  | srai (h : AHdr) (d a : Operand) (imm : BitVec 6)
  | li (c : Bool) (d : Operand) (imm : BitVec 19) | lui (c : Bool) (d : Operand) (imm : BitVec 19)
  | mad (h : AHdr) (d a b x : Operand) | fshl (h : AHdr) (d a b x : Operand) | fshr (h : AHdr) (d a b x : Operand)
  | bfx (h : AHdr) (d a b x : Operand) | bfxs (h : AHdr) (d a b x : Operand) | bfi (h : AHdr) (d a b x : Operand)
  | sel (h : AHdr) (d a b : Operand) (k : BitVec 3)
  | icmp (c : Bool) (k : BitVec 3) (wide : Bool) (pred : IPred) (a b : Operand)
  -- Floats, majors 0x18 to 0x21 (05 R173)
  | fadd (h : AHdr) (d a b : Operand) (fs : FS) (rm : RM) | fsub (h : AHdr) (d a b : Operand) (fs : FS) (rm : RM)
  | fmul (h : AHdr) (d a b : Operand) (fs : FS) (rm : RM)
  | ffmaS (h : AHdr) (d a b x : Operand) | ffmaD (h : AHdr) (d a b x : Operand)
  | ffmaH2 (h : AHdr) (d a b x : Operand) | ffmaB2 (h : AHdr) (d a b x : Operand)
  | fdiv (h : AHdr) (d a b : Operand) (fs : FS) (rm : RM)
  | fsqrt (h : AHdr) (d a : Operand) (fs : FS) (rm : RM) | frnd (h : AHdr) (d a : Operand) (fs : FS) (rm : RM)
  | fclass (h : AHdr) (d a : Operand) (fs : FS)
  | fmin (h : AHdr) (d a b : Operand) (fs : FS) | fmax (h : AHdr) (d a b : Operand) (fs : FS)
  | fcmp (c : Bool) (k : BitVec 3) (pred : FPred) (fs : FS) (a b : Operand)
  -- Conversions, majors 0x22 to 0x26 (05 R174)
  | cvt (h : AHdr) (d a : Operand) (fd fsrc : FC) (rm : RM) | cvti (h : AHdr) (d a : Operand) (it : IT) (fsrc : FC) (rm : RM)
  | cvtf (h : AHdr) (d a : Operand) (fd : FC) (it : IT) (rm : RM) | cvtsr (h : AHdr) (d a b : Operand) (fd fsrc : FC)
  | mxpk (h : AHdr) (d a : Operand) (mf : MF) (rm : RM) | mxup (h : AHdr) (d a : Operand) (mf : MF)
  | sfFn (h : AHdr) (d a : Operand) (fn : SFn) (fs : FS)
  -- Cross-lane, masks, raster assist, draws, majors 0x28 to 0x2D (05 R175)
  | ballot (h : AHdr) (d a : Operand) | vany (h : AHdr) (d a : Operand) | vall (h : AHdr) (d a : Operand)
  | shfl (h : AHdr) (wide : Bool) (d a b : Operand) | push (h : AHdr) (wide : Bool) (d a b : Operand)
  | bcast (h : AHdr) (wide : Bool) (d a b : Operand) | kfirst (h : AHdr) (d : Operand) (k : BitVec 3)
  | redu (h : AHdr) (d a : Operand) (op : RedOp) (ty : RedTy) (rm : RM)
  | scan (h : AHdr) (d a : Operand) (op : RedOp) (ty : RedTy) (rm : RM)
  | kand (c : Bool) (d a b : BitVec 3) | kor (c : Bool) (d a b : BitVec 3) | kxor (c : Bool) (d a b : BitVec 3)
  | knot (c : Bool) (d a : BitVec 3) | kmovMask (c : Bool) (d a : BitVec 3) | kmovToMask (c : Bool) (d : BitVec 3) (a : Operand)
  | kmovToS (h : AHdr) (d : Operand) (a : BitVec 3) | kact (c : Bool) (d : BitVec 3)
  | edge (h : AHdr) (d a b : Operand) | qdx (h : AHdr) (d a : Operand) | qdy (h : AHdr) (d a : Operand)
  | rng (h : AHdr) (d a : Operand) | rngU (h : AHdr) (d a : Operand)
  -- Loads and stores, majors 0x2E to 0x33 (07 R230)
  | ld (m : MHdr) (d a : Operand) (y : BitVec 2) (z : Size) | ldnc (m : MHdr) (d a : Operand) (y : BitVec 2) (z : Size)
  | lds (m : MHdr) (d a : Operand) (y : BitVec 2) (wide : Bool) | ldu (m : MHdr) (d a : Operand) (y : BitVec 2) (wide : Bool)
  | ldAcq (m : MHdr) (d a : Operand) (y : BitVec 2) (wide : Bool)
  | st (m : MHdr) (d a : Operand) (y : BitVec 2) (z : Size) | stm (m : MHdr) (d a : Operand) (y : BitVec 2)
  | stRel (m : MHdr) (d a : Operand) (y : BitVec 2) (wide : Bool)
  -- Read-modify-write, prefetch, stream-only, majors 0x34 and 0x35 (07 R234, R239, R240)
  | atom (m : MHdr) (d a : Operand) (op : AtomOp) (wide : Bool) | cas (m : MHdr) (d a : Operand) (wide : Bool)
  | atomSwap (m : MHdr) (d a : Operand) (wide : Bool) | fatom (m : MHdr) (d a : Operand) (op : FatomOp) (dbl : Bool)
  | xaddS (m : MHdr) (d a : Operand) | xaddD (m : MHdr) (d a : Operand) | vbt (m : MHdr) (d a : Operand)
  | prf (c : Bool) (llc : Bool) (a : Operand) (k : BitVec 3) | snop (c : Bool) (sc : Option Scope) (o : BitVec 2) (p : BitVec 4)
  -- Rings, barriers, notices, majors 0x36 to 0x38 (07 R243, R249, R254)
  | rpop (m : MHdr) (d : Operand) (n : BitVec 6) | racq (m : MHdr) (d : Operand) (n : BitVec 6)
  | rcom (m : MHdr) (d : Operand) (n : BitVec 6) | rrel (m : MHdr) (d : Operand) (n : BitVec 6)
  | rstat (m : MHdr) (d : Operand) (n : BitVec 6) | rcomEos (m : MHdr) (d : Operand) (n : BitVec 6)
  | rcomErr (m : MHdr) (d : Operand) (n : BitVec 6)
  | barr (m : MHdr) (n : BitVec 6) | barw (m : MHdr) (n : BitVec 6) | barx (m : MHdr) (d : Operand) (n : BitVec 6)
  | pbar (m : MHdr) (n : BitVec 6) | cbarr (m : MHdr) | cbarw (m : MHdr) | ntc (m : MHdr) (b : BitVec 6) (a : Operand)
  -- Engines, majors 0x3A to 0x3E (08 R267)
  | mxd (m : MHdr) (a : Operand) | mxb (m : MHdr) (a : Operand) | mxg (m : MHdr) (a : Operand) | mxq (m : MHdr) (d : Operand)
  | acld (m : MHdr) (d a : Operand) | acst (m : MHdr) (d a : Operand) | aczr (m : MHdr) (d a : Operand)
  | xaccE32 (m : MHdr) (d a : Operand) | xaccE64 (m : MHdr) (d a : Operand)
  | xrndE32 (m : MHdr) (fd : XFc) (d a : Operand) | xmovSt (m : MHdr) (d a : Operand) | xmovLd (m : MHdr) (d a : Operand)
  | xrndE64 (m : MHdr) (fd : XFc) (d a : Operand)
  | trace (m : MHdr) (d a : Operand) | vmarch (m : MHdr) (d a : Operand) | ovq (m : MHdr) (d a : Operand) | refit (m : MHdr) (a : Operand)
  | attr (m : MHdr) (d a : Operand) | dsc (m : MHdr) (d a : Operand) | rbin (m : MHdr) (d a : Operand)
  | tex (m : MHdr) (d a : Operand) | slg (m : MHdr) (d a : Operand)
  -- Events of groups, teams and operations in flight
  | implicitReturn (gid : Nat) | teamRetire (tid : Nat)
  | loadComplete (op part : Nat) | storeApplied (op part : Nat) | rmwApplied (op part : Nat) | engineCommandComplete (op : Nat)
  | remoteAccess (r : RemoteReq) | dcacheLineEvict (core line : Nat) | llcSuperblockEvict (sb : Nat)
  | timerTrap (gid : Nat) | groupPark (gid : Nat) | groupRecreate (gid : Nat) | svcRecordWrite (gid : Nat)
  | racqGrant (op : Nat) | rpopGrant (op : Nat) | dscLookupResume (op : Nat)
  | feederSlotCommit (tid ring : Nat) | drainSlot (tid ring : Nat)
  | noticeDeliver (op cluster : Nat) | noticePull (tid ring : Nat) | noticeAck (ack : Nat) | noticeLost (op cluster : Nat)
  | matrixCommandStart (core : Nat) | matrixPass (core : Nat)
  | galleyReserveResume (part g : Nat) | galleyFlush (part g : Nat) | galleyBatchLaunch (part : Nat)
  | tdSelect (part : Nat) | launchRecordAccept (part q : Nat) | descriptorRead (part q : Nat)
  | graphReplay (part q : Nat) | graphNodeRetire (part idx : Nat)
  | drawRaster (draw : Nat) | setupSlotResume (draw : Nat) | drawOpen (draw : Nat) | drawClose (draw : Nat)
  | drawRelease (draw : Nat) | drawRetire (draw : Nat) | cleClassifyTile (draw oct : Nat)
  | walkSchedule (oct : Nat) | instructionFetchFault (gid : Nat) | reportBackoffExpiry (rep : Nat) | packetReissue (gid : Nat)
  | sideLogReplay (core slot : Nat) | groupEvict (gid : Nat) | teamSwap (tid : Nat) | groupReturn (gid : Nat) | teamReturn (tid : Nat)
  | cxCommandStart (oct : Nat) | cxDigestReceive (oct : Nat) (d : Digest) | cxCommandComplete (oct : Nat) | cxPeerTimeout (oct : Nat)
  | graphStall (part run : Nat) | galleyStall (part g : Nat)
  | engineWatchdog (unit part : Nat) | creditWatchdog (leaf part : Nat) | stopWatchdog (unit : Nat)
  | eventAccept (q idx : Nat) | unitStop (unit : Nat) | abortFlitReceive (idx : Nat) | stopRecordWrite (unit : Nat)
  | correctedError (unit : Nat) (loc : ErrAt) | parityError (unit struct index : Nat) | uncorrectableError (unit : Nat) (loc : ErrAt)
  | structureSelfTestDone (idx : Nat) (pass : Bool) | linkCrcError (unit lane : Nat) | retrainDone (unit lane : Nat) (ok : Bool)
  -- Events of the management block
  | octcmdNone (v : Word) | octcmdAssign (v : Word) | octcmdRelease (v : Word) | releaseClear (part : Nat) | octantClearDone (oct : Nat)
  | dstoreWrite (oct : Nat) (v : DWord) | tlbinvWrite (v : DWord)
  | qptrTailWrite (part q : Nat) (v : Byte) | svcrepWrite (part : Nat) (v : Byte) | domidWrite (v : DWord)
  | attcmdGo (v : DWord) | evqMissRead (q : Nat)
  | transRead (halves : BitVec 2) | fltqRefuseRead (oct : Nat) | ntclostRead (part : Nat) | fltqHheadWrite (oct : Nat) (v : BitVec 11)
  | unmappedOffsetAccess (off : Nat) (write : Bool) (v : DWord) | registerWrite (off : Nat) (v : DWord) (whole : Bool)
  | illegalEncoding (gid : Nat) | svcptrHheadWrite (part : Nat) (v : Byte)
  -- The rows a compiled program never builds come last: the compiler numbers no more than 244 constructors with fields
  | hreqWrite (part : Nat) | powerTrip (why : TripReading) | overcurrentOn (imon : BitVec 16) | overcurrentOff (imon : BitVec 16) | dieHotOn (diet : BitVec 8) | thermalThrottleOn (diet : BitVec 8) | dieHotOff (diet : BitVec 8) | tokenCycle | powerOn | firmwareBringup | tlbinvDone | quoteComplete | dbgdataRead | supplyRemoved
  deriving DecidableEq, Repr, Inhabited

/-- A memory the world outside the device can write (02 R380, 11 R366): the host's own memory, the adapter's BAR2, device
memory by physical address, and the memory of another device of the domain. -/
inductive OutMem where
  | host | bar2 | device | peer (dev : Nat)
  deriving DecidableEq, Repr, Inhabited

/-- What moves next: an issue port of a core (09 R332), a named group, an event, a write by the world outside, the unit of an
engine command for at most n accesses (03 R106, 08 R307), the adapter writing to the host what it has accepted (03 R91), or another
device of the domain that gives an octant a partition scope and carves direct store there (03 R83); elements that a collective engine
sends, or that a rank of another device has sent (11 R373, 17 R473). -/
inductive Turn where
  | issue (core port : Nat) | group (gid : Nat) | event (i : Instr) | outside (m : OutMem) (addr : Nat) (bytes : List Byte)
  | engine (id n : Nat) | landed | peer (dev oct : Nat) (scope : BitVec 16) (pieces : Nat)
  | exchange (oct n : Nat) | element (oct rank : Nat) (bytes : List Byte)
  deriving DecidableEq, Repr, Inhabited

end Sys2Proof
end

