-- ==== Sys2Proof/WellFormed.lean ====
section
/-! DEFINITION. What each instruction word says about its operands, and which operand uses are illegal encodings: the checks
of one word that need no other word of its packet (05 R147 to R179, 06 R187, 07 R229, 08 R268 and R269, 16 R455 and R456). -/

namespace Sys2Proof

/-- The pipe classes of R158; nop takes no pipe (R146). -/
inductive Pipe where
  | none | x | v | m | e
  deriving DecidableEq, Repr, Inhabited

/-- Which codes a destination field admits. -/
inductive Dst where
  /-- The word has no register destination in its D field. -/
  | none
  /-- v, s or zero (R150); a wide v destination is even (R148). -/
  | any (wide : Bool)
  /-- v or zero (R187, R229, R283). -/
  | vec (wide : Bool)
  /-- An s register only (R175, R229, R267). -/
  | sOnly
  /-- A run of v registers that starts no higher than max and holds len registers (R269). -/
  | block (max len : Nat)
  deriving DecidableEq, Repr, Inhabited

/-- Which codes a source field admits (R147, R229). -/
inductive SrcRule where
  | any | handle | cas32 | cas64 | stm | vbt
  deriving DecidableEq, Repr, Inhabited

/-- One source of a word. -/
structure Src where
  op : Operand
  wide : Bool
  /-- Must be uniform whatever the destination (R149, R268). -/
  uniform : Bool := false
  /-- Exempt from the uniformity that an s destination asks for (R149). -/
  exempt : Bool := false
  rule : SrcRule := .any
  deriving DecidableEq, Repr, Inhabited

/-- What an instruction word says about its operands. -/
structure Desc where
  pipe : Pipe := .v
  /-- One of the control-transfer words of R157. -/
  ctl : Bool := false
  d : Operand := .zero
  dst : Dst := .none
  srcs : List Src := []
  /-- The word fills a readable latch (R151). -/
  latch : Bool := false
  /-- The reason codes of the form's own field rules (R456). -/
  extra : List Nat := []
  deriving DecidableEq, Repr, Inhabited

/-- The operand names an s register. -/
def Operand.isS : Operand → Bool
  | .s _ => true
  | _ => false
/-- The operand names a v register. -/
def Operand.isV : Operand → Bool
  | .v _ => true
  | _ => false
/-- The operand names an odd v register. -/
def Operand.isOddV : Operand → Bool
  | .v n => n.val % 2 == 1
  | _ => false
/-- The operand code is 59 or 63. -/
def Operand.isRsv : Operand → Bool
  | .rsv59 => true
  | .rsv63 => true
  | _ => false
/-- The number of the window register an operand names. -/
def Operand.vNum? : Operand → Option Nat
  | .v n => some n.val
  | _ => none
/-- The number of the uniform register an operand names. -/
def Operand.sNum? : Operand → Option Nat
  | .s n => some n.val
  | _ => none

/-- A 32-bit source. -/
def src32 (o : Operand) : Src := { op := o, wide := false }
/-- A 64-bit source. -/
def src64 (o : Operand) : Src := { op := o, wide := true }
/-- A source of the word's own width. -/
def srcW (wide : Bool) (o : Operand) : Src := { op := o, wide := wide }
/-- A uniform source of the given width. -/
def srcU (wide : Bool) (o : Operand) : Src := { op := o, wide := wide, uniform := true }
/-- The reason code r when the condition holds. -/
def reasonIf (b : Bool) (r : Nat) : List Nat := if b then [r] else []

/-- A V-class word of majors 0x06 to 0x26 that fills its latch: X class with an s destination (R158). -/
def alu (d : Operand) (wide : Bool) (srcs : List Src) (extra : List Nat := []) : Desc :=
  { pipe := if d.isS then .x else .v, d := d, dst := .any wide, srcs := srcs, latch := true, extra := extra }
/-- A word of majors 0x28 to 0x2D that fills its latch. -/
def cross (d : Operand) (dst : Dst) (srcs : List Src) (extra : List Nat := []) : Desc :=
  { pipe := .v, d := d, dst := dst, srcs := srcs, latch := true, extra := extra }
/-- A word of major 0x28 to 0x2A whose value source reduces across lanes (R149). -/
def exemptSrc (wide : Bool) (o : Operand) : Src := { op := o, wide := wide, exempt := true }

/-- The address sources of an M word: A as 64 bits, or sY and A as 32 bits (R165). -/
def addrSrcs (a : Operand) (y : BitVec 2) (uniform : Bool := false) : List Src :=
  if y = 0#2 then [{ op := a, wide := true, uniform := uniform }]
  else [{ op := a, wide := false, uniform := uniform },
        { op := .s (Fin.ofNat 16 y.toNat), wide := true }]

/-- RM codes 0 to 3 (R173). -/
def RM.isDirected : RM → Bool
  | .rne => true | .rtz => true | .rup => true | .rdn => true | _ => false
/-- RM codes 6 and 7 are reserved (R167). -/
def RM.isRsv : RM → Bool
  | .rsv6 => true | .rsv7 => true | _ => false
/-- RM codes 0 to 4 (R174). -/
def RM.toInt : RM → Bool
  | .rne => true | .rtz => true | .rup => true | .rdn => true | .rna => true | _ => false

/-- The float forms that take a mode from 0 to 3 (R456). -/
def rm03 (rm : RM) : List Nat := reasonIf (!rm.isDirected) 0x03
/-- .d elements are 64 bits; the other float forms fill one register (R185). -/
def FS.isWide : FS → Bool
  | .d => true | _ => false
/-- An FP64 source or destination is a pair (R206). -/
def FC.isWide : FC → Bool
  | .fp64 => true | _ => false
/-- An .i64 or .n64 integer is a pair (R206). -/
def IT.isWide : IT → Bool
  | .i64 => true | .n64 => true | _ => false
/-- .i64, .n64 and .d data of redu and scan are 64 bits (R175). -/
def RedTy.isWide : RedTy → Bool
  | .i64 => true | .n64 => true | .d => true | _ => false
/-- The float types of redu and scan (R175). -/
def RedTy.isFloat : RedTy → Bool
  | .s => true | .d => true | _ => false
/-- The bitwise reductions (R175). -/
def RedOp.isBit : RedOp → Bool
  | .and => true | .or => true | .xor => true | _ => false

/-- The field rules of redu and scan (R175, R456). -/
def redReasons (op : RedOp) (ty : RedTy) (rm : RM) : List Nat :=
  reasonIf (op.isBit && ty.isFloat) 0x02 ++
  reasonIf (ty == .rsv6 || ty == .rsv7) 0x03 ++
  (if op == .add && ty.isFloat then rm03 rm else reasonIf (rm != .rne) 0x05)

/-- A special-register number that exists (R58). -/
def srNumOk (n : BitVec 6) : Bool := n.toNat ≤ 0x11
/-- A special register that wrsr may name: every other one is RO in every field (R179, R263). -/
def srNumWritable (n : BitVec 6) : Bool :=
  n == 0x06#6 || n == 0x0A#6 || n == 0x0B#6 || n == 0x0D#6 || n == 0x0E#6 || n == 0x0F#6

/-- A ring number above 7 (R177). -/
def ringReasons (n : BitVec 6) : List Nat := reasonIf (7 < n.toNat) 0x0D
/-- A barrier number above 15 (R177). -/
def barReasons (n : BitVec 6) : List Nat := reasonIf (15 < n.toNat) 0x0D
/-- A frame size above 40 (R166). -/
def frameReasons (f : BitVec 6) : List Nat := reasonIf (40 < f.toNat) 0x0D

/-- A word of majors 0x2E to 0x36. -/
def memW (d : Operand) (dst : Dst) (srcs : List Src) (extra : List Nat := []) : Desc :=
  { pipe := .m, d := d, dst := dst, srcs := srcs, extra := extra }
/-- A word of majors 0x38 and 0x3A to 0x3E. -/
def engW (d : Operand) (dst : Dst) (srcs : List Src) (extra : List Nat := []) (ctl : Bool := false) : Desc :=
  { pipe := .e, ctl := ctl, d := d, dst := dst, srcs := srcs, extra := extra }
/-- An integer word of major 0x06 with two sources (R170). -/
def int2 (d : Operand) (wide : Bool) (a b : Operand) : Desc := alu d wide [srcW wide a, srcW wide b]
/-- A unary integer word of major 0x06 (R170). -/
def int1 (d : Operand) (wide : Bool) (a : Operand) : Desc := alu d wide [srcW wide a]
/-- An immediate or three-source integer word: 64 bits wide with an s destination, 32 otherwise (R171, R194). -/
def intS (d : Operand) (xs : List Operand) : Desc := alu d d.isS (xs.map (srcW d.isS))
/-- A data operand of a store or read-modify-write form whose old value returns in D (R229). -/
def dataW (wide : Bool) (o : Operand) (rule : SrcRule := .any) : Src := { op := o, wide := wide, rule := rule }
/-- Z of ld and st: .n64 data are 64 bits (R230). -/
def Size.isWide : Size → Bool
  | .n64 => true | _ => false

/-- What each instruction word says about its operands; an event has no operand fields. -/
def desc : Instr → Desc
  | .nop _ => { pipe := .none }
  | .exit _ => { pipe := .x, ctl := true }
  | .yield _ => { pipe := .x }
  | .ret _ => { pipe := .x, ctl := true }
  | .jmpi _ a => { pipe := .x, ctl := true, srcs := [src32 a] }
  | .calli _ a f => { pipe := .x, ctl := true, srcs := [src32 a], extra := frameReasons f }
  | .trap _ _ => { pipe := .x }
  | .tret _ => { pipe := .x, ctl := true }
  | .svc _ _ => { pipe := .x }
  | .clk _ d => { pipe := .x, d := d, dst := .any true, latch := true }
  | .rdsr _ d n => { pipe := .x, d := d, dst := .any true, latch := true, extra := reasonIf (!srNumOk n) 0x0E }
  | .wrsr _ n a => { pipe := .x, srcs := [srcU true a], extra := reasonIf (!srNumWritable n) 0x0E }
  | .lpcr _ d => { pipe := .v, d := d, dst := .vec false, latch := true }
  | .lpcw _ a => { pipe := .v, srcs := [src32 a] }
  | .tmcmp _ a => { pipe := .x, srcs := [srcU true a] }
  | .bra _ _ _ => { pipe := .x, ctl := true }
  | .brm _ _ _ => { pipe := .x, ctl := true }
  | .bru _ _ _ => { pipe := .x, ctl := true }
  | .brz _ a _ => { pipe := .x, ctl := true, srcs := [src32 a] }
  | .brnz _ a _ => { pipe := .x, ctl := true, srcs := [src32 a] }
  | .call _ f _ => { pipe := .x, ctl := true, extra := frameReasons f }
  | .add _ w d a b => int2 d w a b
  | .sub _ w d a b => int2 d w a b
  | .mul _ w d a b => int2 d w a b
  | .mulh _ w d a b => int2 d w a b
  | .mulhu _ w d a b => int2 d w a b
  | .addc _ w d a b => int2 d w a b
  | .subb _ w d a b => int2 d w a b
  | .min _ w d a b => int2 d w a b
  | .max _ w d a b => int2 d w a b
  | .minu _ w d a b => int2 d w a b
  | .maxu _ w d a b => int2 d w a b
  | .abs _ w d a => int1 d w a
  | .and _ w d a b => int2 d w a b
  | .or _ w d a b => int2 d w a b
  | .xor _ w d a b => int2 d w a b
  | .andn _ w d a b => int2 d w a b
  | .shl _ w d a b => int2 d w a b
  | .shr _ w d a b => int2 d w a b
  | .sra _ w d a b => int2 d w a b
  | .clz _ w d a => int1 d w a
  | .popc _ w d a => int1 d w a
  | .brev _ w d a => int1 d w a
  | .mov _ w d a => int1 d w a
  | .addi _ d a _ => intS d [a]
  | .andi _ d a _ => intS d [a]
  | .ori _ d a _ => intS d [a]
  | .xori _ d a _ => intS d [a]
  | .shli _ d a _ => intS d [a]
  | .shri _ d a _ => intS d [a]
  | .srai _ d a _ => intS d [a]
  | .li _ d _ => intS d []
  | .lui _ d _ => intS d []
  | .mad _ d a b x => intS d [a, b, x]
  | .fshl _ d a b x => intS d [a, b, x]
  | .fshr _ d a b x => intS d [a, b, x]
  | .bfx _ d a b x => intS d [a, b, x]
  | .bfxs _ d a b x => intS d [a, b, x]
  | .bfi _ d a b x => intS d [a, b, x]
  | .sel _ d a b _ => intS d [a, b]
  | .icmp _ _ w _ a b => { pipe := .v, srcs := [srcW w a, srcW w b] }
  | .fadd _ d a b fs rm => alu d fs.isWide [srcW fs.isWide a, srcW fs.isWide b] (rm03 rm)
  | .fsub _ d a b fs rm => alu d fs.isWide [srcW fs.isWide a, srcW fs.isWide b] (rm03 rm)
  | .fmul _ d a b fs rm => alu d fs.isWide [srcW fs.isWide a, srcW fs.isWide b] (rm03 rm)
  | .ffmaS _ d a b x => alu d false [src32 a, src32 b, src32 x]
  | .ffmaD _ d a b x => alu d true [src64 a, src64 b, src64 x]
  | .ffmaH2 _ d a b x => alu d false [src32 a, src32 b, src32 x]
  | .ffmaB2 _ d a b x => alu d false [src32 a, src32 b, src32 x]
  | .fdiv _ d a b fs rm => alu d fs.isWide [srcW fs.isWide a, srcW fs.isWide b] (rm03 rm)
  | .fsqrt _ d a fs rm => alu d fs.isWide [srcW fs.isWide a] (rm03 rm)
  | .frnd _ d a fs rm => alu d fs.isWide [srcW fs.isWide a] (rm03 rm)
  | .fclass _ d a fs => alu d false [srcW fs.isWide a]
  | .fmin _ d a b fs => alu d fs.isWide [srcW fs.isWide a, srcW fs.isWide b]
  | .fmax _ d a b fs => alu d fs.isWide [srcW fs.isWide a, srcW fs.isWide b]
  | .fcmp _ _ _ fs a b =>
    { pipe := .v, srcs := [srcW fs.isWide a, srcW fs.isWide b], extra := reasonIf (fs == .h2 || fs == .b2) 0x03 }
  | .cvt _ d a fd fsrc rm => alu d fd.isWide [srcW fsrc.isWide a]
      (reasonIf (fd == .rsv7 || fsrc == .rsv7 || rm.isRsv || (rm == .sr && (fd == .fp32 || fd == .fp64))) 0x03)
  | .cvti _ d a it fsrc rm => alu d it.isWide [srcW fsrc.isWide a] (reasonIf (fsrc == .rsv7 || !rm.toInt) 0x03)
  | .cvtf _ d a fd it rm => alu d fd.isWide [srcW it.isWide a] (reasonIf (fd == .rsv7 || !rm.toInt) 0x03)
  | .cvtsr _ d a b fd fsrc => alu d false [srcW fsrc.isWide a, src64 b]
      (reasonIf (fd == .fp32 || fd == .fp64 || fd == .rsv7 || !(fsrc == .fp32 || fsrc == .fp64)) 0x03)
  | .mxpk _ d a _ rm => alu d false [src32 a] (reasonIf rm.isRsv 0x03)
  | .mxup _ d a _ => alu d false [src32 a]
  | .sfFn _ d a _ fs => alu d false [src32 a] (reasonIf (fs == .d) 0x03)
  | .ballot _ d a => cross d (.any false) [exemptSrc false a]
  | .vany _ d a => cross d (.any false) [exemptSrc false a]
  | .vall _ d a => cross d (.any false) [exemptSrc false a]
  | .shfl _ w d a b => cross d (.vec w) [srcW w a, src32 b]
  | .push _ w d a b => cross d (.vec w) [srcW w a, src32 b]
  | .bcast _ w d a b => cross d (.any w) [exemptSrc w a, srcU false b]
  | .kfirst _ d _ => cross d (.any false) []
  | .redu _ d a op ty rm => cross d (.any ty.isWide) [exemptSrc ty.isWide a] (redReasons op ty rm)
  | .scan _ d a op ty rm => cross d (.vec ty.isWide) [srcW ty.isWide a] (redReasons op ty rm)
  | .kand _ _ _ _ => { pipe := .x }
  | .kor _ _ _ _ => { pipe := .x }
  | .kxor _ _ _ _ => { pipe := .x }
  | .knot _ _ _ => { pipe := .x }
  | .kmovMask _ _ _ => { pipe := .x }
  | .kmovToMask _ _ a => { pipe := .x, srcs := [srcU true a] }
  | .kmovToS _ d _ => { pipe := .x, d := d, dst := .sOnly, latch := true }
  | .kact _ _ => { pipe := .x }
  | .edge _ d a b => cross d (.vec true) [srcU true a, src64 b]
  | .qdx _ d a => cross d (.vec false) [src32 a]
  | .qdy _ d a => cross d (.vec false) [src32 a]
  | .rng _ d a => cross d (.any false) [src64 a]
  | .rngU _ d a => cross d (.any false) [src64 a]
  | .ld _ d a y z => memW d (.vec z.isWide) (addrSrcs a y)
  | .ldnc _ d a y z => memW d (.vec z.isWide) (addrSrcs a y)
  | .lds _ d a y _ => memW d .sOnly (addrSrcs a y true)
  | .ldu _ d a y w => memW d (.vec w) (addrSrcs a y)
  | .ldAcq m d a y w => memW d (.vec w) (addrSrcs a y) (reasonIf (m.k == 7#3) 0x03)
  | .st _ d a y z => memW .zero .none (dataW z.isWide d :: addrSrcs a y)
  | .stm _ d a y => memW .zero .none (dataW false d .stm :: addrSrcs a y)
  | .stRel m d a y w => memW .zero .none (dataW w d :: addrSrcs a y) (reasonIf (m.k == 7#3) 0x03)
  | .atom _ d a _ w => memW .zero .none [dataW w d, src64 a]
  | .cas _ d a w => memW .zero .none [dataW false d (if w then .cas64 else .cas32), src64 a]
  | .atomSwap _ d a w => memW .zero .none [dataW w d, src64 a]
  | .fatom _ d a _ w => memW .zero .none [dataW w d, src64 a]
  | .xaddS _ d a => memW .zero .none [dataW false d, src64 a]
  | .xaddD _ d a => memW .zero .none [dataW true d, src64 a]
  | .vbt _ d a => memW .zero .none [dataW false d .vbt, src64 a]
  | .prf _ _ a _ => memW .zero .none [src64 a]
  | .snop _ sc _ _ => memW .zero .none [] (reasonIf (sc == some .rsv7) 0x03)
  | .rpop _ d n => memW d .sOnly [] (ringReasons n)
  | .racq _ d n => memW d .sOnly [] (ringReasons n)
  | .rcom _ d n => memW .zero .none [dataW true d .handle] (ringReasons n)
  | .rrel _ d n => memW .zero .none [dataW true d .handle] (ringReasons n)
  | .rstat _ d n => memW d .sOnly [] (ringReasons n)
  | .rcomEos _ d n => memW .zero .none [dataW true d .handle] (ringReasons n)
  | .rcomErr _ d n => memW .zero .none [dataW true d .handle] (ringReasons n)
  | .barr _ n => { pipe := .x, extra := barReasons n }
  | .barw _ n => { pipe := .x, extra := barReasons n }
  | .barx _ d n => { pipe := .x, srcs := [srcU true d], extra := barReasons n }
  | .pbar _ n => { pipe := .x, extra := barReasons n }
  | .cbarr _ => { pipe := .x }
  | .cbarw _ => { pipe := .x }
  | .ntc _ b a => engW .zero .none [srcU true a] (barReasons b)
  | .mxd _ a => engW .zero .none [srcU true a]
  | .mxb _ a => engW .zero .none [srcU true a]
  | .mxg _ a => engW .zero .none [srcU true a]
  | .mxq _ d => engW d .sOnly []
  | .acld _ d a => engW d (.vec false) [src32 a]
  | .acst _ d a => engW .zero .none [dataW false d, src32 a]
  | .aczr _ d a => engW .zero .none [srcU true d, srcU false a]
  | .xaccE32 _ d a => engW .zero .none [dataW false d, src32 a]
  | .xaccE64 _ d a => engW .zero .none [dataW true d, src32 a]
  | .xrndE32 _ fd d a => engW d (.any false) [src32 a] (reasonIf (fd == .d) 0x02)
  | .xmovSt _ d a => engW .zero .none [srcU true d, srcU true a]
  | .xmovLd _ d a => engW .zero .none [srcU true d, srcU true a]
  | .xrndE64 _ fd d a => engW d (.any (fd == .d)) [src32 a]
  | .trace _ d a => engW d (.block 32 8) [srcU true a]
  | .vmarch _ d a => engW d (.block 25 15) [srcU true a]
  | .ovq _ d a => engW d (.block 32 8) [srcU true a]
  | .refit _ a => engW .zero .none [srcU true a]
  | .attr _ d a => engW d (.block 18 22) [srcU true a]
  | .dsc _ d a => engW d (.block 35 5) [srcU true a]
  | .rbin _ d a => engW d (.block 34 6) [srcU true a] [] true
  | .tex _ d a => engW d (.block 36 4) [srcU true a]
  | .slg _ d a => engW d (.block 24 16) [src32 a]
  | _ => { pipe := .none }

/-- The legality of a data field under R229. -/
def SrcRule.ok : SrcRule → Operand → Bool
  | .any, _ => true
  | .handle, o => o.isS
  | .cas32, .v n => n.val ≤ 38
  | .cas32, .s n => n.val ≤ 14
  | .cas32, _ => false
  | .cas64, .v n => n.val ≤ 36 && n.val % 2 == 0
  | .cas64, .s n => n.val ≤ 14
  | .cas64, _ => false
  | .stm, .v n => n.val ≤ 36 && n.val % 2 == 0
  | .stm, .s n => n.val ≤ 14
  | .stm, _ => false
  | .vbt, .v n => n.val % 4 == 0
  | .vbt, .s n => n.val ≤ 14 && n.val % 2 == 0
  | .vbt, _ => false

/-- The reasons for which one source field is illegal; dS says that the word's destination is an s register. -/
def srcReasons (dS : Bool) (x : Src) : List Nat :=
  reasonIf x.op.isRsv 0x04 ++
  reasonIf (!x.rule.ok x.op || (x.wide && x.op.isOddV)) 0x0B ++
  reasonIf ((x.uniform || (dS && !x.exempt)) && (x.op.isV || x.op == .lane)) 0x0C

/-- The reasons for which a destination field is illegal (R150, R187, R229, R269). -/
def dstReasons (d : Operand) : Dst → List Nat
  | .none => []
  | .any wide => common d ++ reasonIf (wide && d.isOddV) 0x0B
  | .vec wide => common d ++ reasonIf d.isS 0x06 ++ reasonIf (wide && d.isOddV) 0x0B
  | .sOnly => common d ++ reasonIf (d.isV || d == .zero) 0x06
  | .block max _ => common d ++ reasonIf (d.isS || d == .zero) 0x0B ++
      (match d with
       | .v n => reasonIf (max < n.val) 0x0B
       | _ => [])
where
  common (d : Operand) : List Nat :=
    reasonIf d.isRsv 0x04 ++
    (match d with
     | .v _ => []
     | .s _ => []
     | .zero => []
     | _ => [0x06])

/-- Every reason for which one word, taken alone, is an illegal encoding. -/
def wfReasons (i : Instr) : List Nat :=
  let p := desc i
  p.extra ++ dstReasons p.d p.dst ++ p.srcs.flatMap (srcReasons (p.d.isS && p.dst != .none))

/-- A well-formed instruction: no check of a single word refuses it. An event has no operand fields and is well-formed. -/
abbrev WellFormed (i : Instr) : Prop := wfReasons i = []

/-- The word names lit in one of its operand fields (R145), so that the next slot holds its literal. -/
def namesLit (i : Instr) : Bool :=
  let p := desc i
  (p.dst != .none && p.d == .lit) || p.srcs.any (fun x => x.op == .lit)

end Sys2Proof
end

