-- ==== Sys2Proof/Decode.lean ====
section
/-! DEFINITION. The encodings of the 157 instruction words (05 R162 to R178): the decoder, total on every 32-bit word and
refusing by reason code (16 R455, R456), the encoder written from the same tables, and the host's decodeTableWord. -/

namespace Sys2Proof

/-! ## The formats, fields listed from bit 31 down (R162) -/

/-- Format A: C/S OP W D A B F. -/
def packA (c : Bool) (op : BitVec 6) (w : Bool) (d a b f : BitVec 6) : Word :=
  BitVec.ofBool c ++ op ++ BitVec.ofBool w ++ d ++ a ++ b ++ f
/-- Format I: C/S OP W D A imm12. -/
def packI (c : Bool) (op : BitVec 6) (w : Bool) (d a : BitVec 6) (imm : BitVec 12) : Word :=
  BitVec.ofBool c ++ op ++ BitVec.ofBool w ++ d ++ a ++ imm
/-- Formats U and B2: C/S OP D imm19. -/
def packU (c : Bool) (op : BitVec 6) (d : BitVec 6) (imm : BitVec 19) : Word :=
  BitVec.ofBool c ++ op ++ d ++ imm
/-- Formats B1 and BT: C/S OP K disp22, where BT's T is the top bit of the last 22. -/
def packB (c : Bool) (op : BitVec 6) (k : BitVec 3) (disp : BitVec 22) : Word :=
  BitVec.ofBool c ++ op ++ k ++ disp
/-- Formats M and E: C/S OP D A Y K O P Z. -/
def packM (m : MHdr) (op d a : BitVec 6) (y z : BitVec 2) : Word :=
  BitVec.ofBool m.c ++ op ++ d ++ a ++ y ++ m.k ++ m.o ++ m.p ++ z
/-- The layout of trap and svc: C/S OP 000 code16 F. -/
def packT (c : Bool) (code : BitVec 16) (f : BitVec 6) : Word :=
  BitVec.ofBool c ++ 0#6 ++ 0#3 ++ code ++ f

/-- Bit 31: the chain bit C, or S in slot 2 (R145). -/
def fldC (w : Word) : Bool := (w.extractLsb' 31 1) == 1#1
/-- The major opcode, bits [30:25] (R145). -/
def fldOp (w : Word) : BitVec 6 := w.extractLsb' 25 6
/-- The bit W of formats A, F and I. -/
def fldW (w : Word) : Bool := (w.extractLsb' 24 1) == 1#1
/-- D of formats A, F and I. -/
def fldD (w : Word) : BitVec 6 := w.extractLsb' 18 6
/-- A of formats A, F and I. -/
def fldA (w : Word) : BitVec 6 := w.extractLsb' 12 6
/-- B of formats A and F. -/
def fldB (w : Word) : BitVec 6 := w.extractLsb' 6 6
/-- F of format A, C of format F. -/
def fldF (w : Word) : BitVec 6 := w.extractLsb' 0 6
/-- imm12 of format I. -/
def fldI12 (w : Word) : BitVec 12 := w.extractLsb' 0 12
/-- D of formats U, M and E, and A of format B2. -/
def fldUD (w : Word) : BitVec 6 := w.extractLsb' 19 6
/-- imm19 of format U and disp19 of format B2. -/
def fldI19 (w : Word) : BitVec 19 := w.extractLsb' 0 19
/-- K of formats B1 and BT. -/
def fldBK (w : Word) : BitVec 3 := w.extractLsb' 22 3
/-- disp22 of format B1. -/
def fldDisp22 (w : Word) : BitVec 22 := w.extractLsb' 0 22
/-- A of formats M and E. -/
def fldMA (w : Word) : BitVec 6 := w.extractLsb' 13 6
/-- Y of formats M and E. -/
def fldY (w : Word) : BitVec 2 := w.extractLsb' 11 2
/-- Z of formats M and E. -/
def fldZ (w : Word) : BitVec 2 := w.extractLsb' 0 2
/-- The 4-bit selector cat(Y, Z) (R168). -/
def fldYZ (w : Word) : BitVec 4 := fldY w ++ fldZ w
/-- C, K, O and P of formats M and E. -/
def fldM (w : Word) : MHdr :=
  { c := fldC w, k := w.extractLsb' 8 3, o := w.extractLsb' 6 2, p := w.extractLsb' 2 4 }
/-- The 16-bit code of trap and svc (R169). -/
def fldCode (w : Word) : BitVec 16 := w.extractLsb' 6 16

/-! ## Field codes -/

/-- The operand code of an operand (R147). -/
def Operand.code : Operand → BitVec 6
  | .v n => BitVec.ofNat 6 n.val
  | .s n => BitVec.ofNat 6 (40 + n.val)
  | .b n => BitVec.ofNat 6 (56 + n.val)
  | .rsv59 => 59#6
  | .zero => 60#6
  | .lane => 61#6
  | .lit => 62#6
  | .rsv63 => 63#6

/-- The operand named by an operand code (R147). -/
def Operand.ofCode (x : BitVec 6) : Operand :=
  if h : x.toNat < 40 then .v ⟨x.toNat, h⟩
  else if h : x.toNat - 40 < 16 then .s ⟨x.toNat - 40, h⟩
  else if h : x.toNat - 56 < 3 then .b ⟨x.toNat - 56, h⟩
  else if x.toNat = 59 then .rsv59
  else if x.toNat = 60 then .zero
  else if x.toNat = 61 then .lane
  else if x.toNat = 62 then .lit
  else .rsv63

/-- FS code (R167). -/
def FS.code : FS → BitVec 2 | .s => 0 | .d => 1 | .h2 => 2 | .b2 => 3
/-- FS named by a code (R167). -/
def FS.ofCode (x : BitVec 2) : FS :=
  match x.toNat with | 0 => .s | 1 => .d | 2 => .h2 | _ => .b2
/-- FC code (R167). -/
def FC.code : FC → BitVec 3
  | .fp32 => 0 | .fp64 => 1 | .fp16 => 2 | .bf16 => 3 | .e5m2 => 4 | .e4m3 => 5 | .e2m1 => 6 | .rsv7 => 7
/-- FC named by a code (R167). -/
def FC.ofCode (x : BitVec 3) : FC :=
  match x.toNat with
  | 0 => .fp32 | 1 => .fp64 | 2 => .fp16 | 3 => .bf16 | 4 => .e5m2 | 5 => .e4m3 | 6 => .e2m1 | _ => .rsv7
/-- IT code (R167). -/
def IT.code : IT → BitVec 3
  | .i8 => 0 | .i16 => 1 | .i32 => 2 | .i64 => 3 | .n8 => 4 | .n16 => 5 | .n32 => 6 | .n64 => 7
/-- IT named by a code (R167). -/
def IT.ofCode (x : BitVec 3) : IT :=
  match x.toNat with
  | 0 => .i8 | 1 => .i16 | 2 => .i32 | 3 => .i64 | 4 => .n8 | 5 => .n16 | 6 => .n32 | _ => .n64
/-- RM code (R167). -/
def RM.code : RM → BitVec 3
  | .rne => 0 | .rtz => 1 | .rup => 2 | .rdn => 3 | .rna => 4 | .sr => 5 | .rsv6 => 6 | .rsv7 => 7
/-- RM named by a code (R167). -/
def RM.ofCode (x : BitVec 3) : RM :=
  match x.toNat with
  | 0 => .rne | 1 => .rtz | 2 => .rup | 3 => .rdn | 4 => .rna | 5 => .sr | 6 => .rsv6 | _ => .rsv7
/-- SC code (03 R96). -/
def Scope.code : Scope → BitVec 3
  | .grp => 0 | .tm => 1 | .cl => 2 | .dev => 3 | .prt => 4 | .dom => 5 | .sys => 6 | .rsv7 => 7
/-- The scope named by an SC code (03 R96). -/
def Scope.ofCode (x : BitVec 3) : Scope :=
  match x.toNat with
  | 0 => .grp | 1 => .tm | 2 => .cl | 3 => .dev | 4 => .prt | 5 => .dom | 6 => .sys | _ => .rsv7
/-- icmp predicate code (R172). -/
def IPred.code : IPred → BitVec 5
  | .eq => 0 | .ne => 1 | .lt => 2 | .le => 3 | .gt => 4 | .ge => 5 | .ltu => 6 | .leu => 7 | .gtu => 8 | .geu => 9
/-- icmp predicate of a code; codes 10 to 31 are reserved (R172). -/
def IPred.ofCode (x : BitVec 5) : Option IPred :=
  match x.toNat with
  | 0 => some .eq | 1 => some .ne | 2 => some .lt | 3 => some .le | 4 => some .gt | 5 => some .ge
  | 6 => some .ltu | 7 => some .leu | 8 => some .gtu | 9 => some .geu | _ => none
/-- fcmp predicate code (R172). -/
def FPred.code : FPred → BitVec 4
  | .eq => 0 | .ne => 1 | .lt => 2 | .le => 3 | .gt => 4 | .ge => 5 | .uno => 6 | .ord => 7
/-- fcmp predicate of a code; codes 8 to 15 are reserved (R172). -/
def FPred.ofCode (x : BitVec 4) : Option FPred :=
  match x.toNat with
  | 0 => some .eq | 1 => some .ne | 2 => some .lt | 3 => some .le | 4 => some .gt | 5 => some .ge
  | 6 => some .uno | 7 => some .ord | _ => none
/-- The Microscaling format code F[4:3] (R174). -/
def MF.code : MF → BitVec 2 | .e4m3 => 0 | .e5m2 => 1 | .e2m1 => 2
/-- The Microscaling format of a code; code 3 is reserved (R174). -/
def MF.ofCode (x : BitVec 2) : Option MF :=
  match x.toNat with | 0 => some .e4m3 | 1 => some .e5m2 | 2 => some .e2m1 | _ => none
/-- The function code of sf.fn, F[5:2] (R173). -/
def SFn.code : SFn → BitVec 4
  | .exp2 => 0 | .log2 => 1 | .rcp => 2 | .rsq => 3 | .sqrt => 4 | .sinpi => 5 | .cospi => 6 | .tanh => 7 | .sigm => 8 | .erf => 9
/-- The special function of a code; codes 10 to 15 are reserved (R173). -/
def SFn.ofCode (x : BitVec 4) : Option SFn :=
  match x.toNat with
  | 0 => some .exp2 | 1 => some .log2 | 2 => some .rcp | 3 => some .rsq | 4 => some .sqrt | 5 => some .sinpi
  | 6 => some .cospi | 7 => some .tanh | 8 => some .sigm | 9 => some .erf | _ => none
/-- The operation code of redu and scan, F[5:3] (R175). -/
def RedOp.code : RedOp → BitVec 3 | .add => 0 | .min => 1 | .max => 2 | .and => 3 | .or => 4 | .xor => 5
/-- The reduction of a code; codes 6 and 7 are reserved (R175). -/
def RedOp.ofCode (x : BitVec 3) : Option RedOp :=
  match x.toNat with
  | 0 => some .add | 1 => some .min | 2 => some .max | 3 => some .and | 4 => some .or | 5 => some .xor | _ => none
/-- The type code of redu and scan, F[2:0] (R175). -/
def RedTy.code : RedTy → BitVec 3
  | .i32 => 0 | .n32 => 1 | .i64 => 2 | .n64 => 3 | .s => 4 | .d => 5 | .rsv6 => 6 | .rsv7 => 7
/-- The type of a code (R175). -/
def RedTy.ofCode (x : BitVec 3) : RedTy :=
  match x.toNat with
  | 0 => .i32 | 1 => .n32 | 2 => .i64 | 3 => .n64 | 4 => .s | 5 => .d | 6 => .rsv6 | _ => .rsv7
/-- The operation code of atom, Y:Z[2:0] (R176). -/
def AtomOp.code : AtomOp → BitVec 3
  | .add => 0 | .min => 1 | .max => 2 | .minu => 3 | .maxu => 4 | .and => 5 | .or => 6 | .xor => 7
/-- The atom operation of a code (R176). -/
def AtomOp.ofCode (x : BitVec 3) : AtomOp :=
  match x.toNat with
  | 0 => .add | 1 => .min | 2 => .max | 3 => .minu | 4 => .maxu | 5 => .and | 6 => .or | _ => .xor
/-- The size code Z of ld, ldnc and st (R176). -/
def Size.code : Size → BitVec 2 | .n8 => 0 | .n16 => 1 | .n32 => 2 | .n64 => 3
/-- The size of a code Z (R176). -/
def Size.ofCode (x : BitVec 2) : Size :=
  match x.toNat with | 0 => .n8 | 1 => .n16 | 2 => .n32 | _ => .n64
/-- The destination format code of xrnd, FC 0 to 3 (R178). -/
def XFc.code : XFc → BitVec 2 | .s => 0 | .d => 1 | .h => 2 | .bf => 3
/-- The Y:Z code of fatom (R176). -/
def fatomYZ : FatomOp → Bool → BitVec 4
  | .add, false => 4 | .min, false => 5 | .max, false => 6 | .add, true => 7 | .min, true => 8 | .max, true => 9

/-- One bit of a mask-number field: cat(000, k) (R175). -/
def kfield (k : BitVec 3) : BitVec 6 := 0#3 ++ k

/-! ## The encoder -/

/-- The F code of an integer word of major 0x06: F[5] the width, F[4:0] the operation (R170). -/
def intF (wide : Bool) (op : BitVec 5) : BitVec 6 := BitVec.ofBool wide ++ op

/-- A word of major 0x06 (R170). -/
def packInt (h : AHdr) (op : BitVec 5) (wide : Bool) (d a b : Operand) : Word :=
  packA h.c 0x06 h.w d.code a.code b.code (intF wide op)
/-- A unary word of major 0x06: B is 0 (R170). -/
def packInt1 (h : AHdr) (op : BitVec 5) (wide : Bool) (d a : Operand) : Word :=
  packA h.c 0x06 h.w d.code a.code 0 (intF wide op)
/-- A word of format F with three operands (R171, R173). -/
def packF (h : AHdr) (op : BitVec 6) (d a b x : Operand) : Word :=
  packA h.c op h.w d.code a.code b.code x.code
/-- A float word whose F is cat(f5, FS, RM) (R173). -/
def packFlt (h : AHdr) (op : BitVec 6) (f5 : BitVec 1) (d a b : Operand) (fs : FS) (rm : RM) : Word :=
  packA h.c op h.w d.code a.code b.code (f5 ++ fs.code ++ rm.code)
/-- A word of format M or E whose selector is the 4-bit Y:Z (R177, R178). -/
def packYZ (m : MHdr) (op d a : BitVec 6) (yz : BitVec 4) : Word :=
  packM m op d a (yz.extractLsb' 2 2) (yz.extractLsb' 0 2)

/-- The word of an instruction, written from the encoding tables of 05; an event has no word. -/
def encode : Instr → Option Word
  | .nop c => some (packA c 0x00 false 0 0 0 0)
  | .exit c => some (packA c 0x00 false 0 0 0 1)
  | .yield c => some (packA c 0x00 false 0 0 0 2)
  | .ret c => some (packA c 0x00 false 0 0 0 3)
  | .jmpi c a => some (packA c 0x00 false 0 a.code 0 4)
  | .calli c a f => some (packA c 0x00 false 0 a.code f 5)
  | .trap c code => some (packT c code 6)
  | .tret c => some (packA c 0x00 false 0 0 0 7)
  | .svc c code => some (packT c code 8)
  | .clk h d => some (packA h.c 0x00 h.w d.code 0 0 9)
  | .rdsr h d n => some (packA h.c 0x00 h.w d.code 0 n 10)
  | .wrsr c n a => some (packA c 0x00 false n a.code 0 11)
  | .lpcr h d => some (packA h.c 0x00 h.w d.code 0 0 12)
  | .lpcw c a => some (packA c 0x00 false 0 a.code 0 13)
  | .tmcmp c a => some (packA c 0x00 false 0 a.code 0 14)
  | .bra c k disp => some (packB c 0x01 k disp)
  | .brm c k disp => some (packB c 0x02 k (0#1 ++ disp))
  | .bru c k disp => some (packB c 0x02 k (1#1 ++ disp))
  | .brz c a disp => some (packU c 0x03 a.code disp)
  | .brnz c a disp => some (packU c 0x04 a.code disp)
  | .call c f disp => some (packU c 0x05 f disp)
  | .add h wide d a b => some (packInt h 0 wide d a b)
  | .sub h wide d a b => some (packInt h 1 wide d a b)
  | .mul h wide d a b => some (packInt h 2 wide d a b)
  | .mulh h wide d a b => some (packInt h 3 wide d a b)
  | .mulhu h wide d a b => some (packInt h 4 wide d a b)
  | .addc h wide d a b => some (packInt h 5 wide d a b)
  | .subb h wide d a b => some (packInt h 6 wide d a b)
  | .min h wide d a b => some (packInt h 7 wide d a b)
  | .max h wide d a b => some (packInt h 8 wide d a b)
  | .minu h wide d a b => some (packInt h 9 wide d a b)
  | .maxu h wide d a b => some (packInt h 10 wide d a b)
  | .abs h wide d a => some (packInt1 h 11 wide d a)
  | .and h wide d a b => some (packInt h 12 wide d a b)
  | .or h wide d a b => some (packInt h 13 wide d a b)
  | .xor h wide d a b => some (packInt h 14 wide d a b)
  | .andn h wide d a b => some (packInt h 15 wide d a b)
  | .shl h wide d a b => some (packInt h 16 wide d a b)
  | .shr h wide d a b => some (packInt h 17 wide d a b)
  | .sra h wide d a b => some (packInt h 18 wide d a b)
  | .clz h wide d a => some (packInt1 h 19 wide d a)
  | .popc h wide d a => some (packInt1 h 20 wide d a)
  | .brev h wide d a => some (packInt1 h 21 wide d a)
  | .mov h wide d a => some (packInt1 h 22 wide d a)
  | .addi h d a imm => some (packI h.c 0x07 h.w d.code a.code imm)
  | .andi h d a imm => some (packI h.c 0x08 h.w d.code a.code imm)
  | .ori h d a imm => some (packI h.c 0x09 h.w d.code a.code imm)
  | .xori h d a imm => some (packI h.c 0x0A h.w d.code a.code imm)
  | .shli h d a imm => some (packI h.c 0x0B h.w d.code a.code (0#6 ++ imm))
  | .shri h d a imm => some (packI h.c 0x0C h.w d.code a.code (0#6 ++ imm))
  | .srai h d a imm => some (packI h.c 0x0D h.w d.code a.code (0#6 ++ imm))
  | .li c d imm => some (packU c 0x0E d.code imm)
  | .lui c d imm => some (packU c 0x0F d.code imm)
  | .mad h d a b x => some (packF h 0x10 d a b x)
  | .fshl h d a b x => some (packF h 0x11 d a b x)
  | .fshr h d a b x => some (packF h 0x12 d a b x)
  | .bfx h d a b x => some (packF h 0x13 d a b x)
  | .bfxs h d a b x => some (packF h 0x14 d a b x)
  | .bfi h d a b x => some (packF h 0x15 d a b x)
  | .sel h d a b k => some (packA h.c 0x16 h.w d.code a.code b.code (kfield k))
  | .icmp c k wide pred a b => some (packA c 0x17 false (kfield k) a.code b.code (intF wide pred.code))
  | .fadd h d a b fs rm => some (packFlt h 0x18 0 d a b fs rm)
  | .fsub h d a b fs rm => some (packFlt h 0x18 1 d a b fs rm)
  | .fmul h d a b fs rm => some (packFlt h 0x19 0 d a b fs rm)
  | .ffmaS h d a b x => some (packF h 0x1A d a b x)
  | .ffmaD h d a b x => some (packF h 0x1B d a b x)
  | .ffmaH2 h d a b x => some (packF h 0x1C d a b x)
  | .ffmaB2 h d a b x => some (packF h 0x1D d a b x)
  | .fdiv h d a b fs rm => some (packFlt h 0x1E 0 d a b fs rm)
  | .fsqrt h d a fs rm => some (packA h.c 0x1F h.w d.code a.code (kfield rm.code) (0#4 ++ fs.code))
  | .frnd h d a fs rm => some (packA h.c 0x1F h.w d.code a.code (kfield rm.code) (1#4 ++ fs.code))
  | .fclass h d a fs => some (packA h.c 0x1F h.w d.code a.code 0 (2#4 ++ fs.code))
  | .fmin h d a b fs => some (packA h.c 0x20 h.w d.code a.code b.code (0#4 ++ fs.code))
  | .fmax h d a b fs => some (packA h.c 0x20 h.w d.code a.code b.code (1#4 ++ fs.code))
  | .fcmp c k pred fs a b => some (packA c 0x21 false (kfield k) a.code b.code (pred.code ++ fs.code))
  | .cvt h d a fd fsrc rm => some (packA h.c 0x22 h.w d.code a.code (kfield fsrc.code) (fd.code ++ rm.code))
  | .cvti h d a it fsrc rm => some (packA h.c 0x23 h.w d.code a.code (0#3 ++ fsrc.code) (it.code ++ rm.code))
  | .cvtf h d a fd it rm => some (packA h.c 0x23 h.w d.code a.code (1#3 ++ it.code) (fd.code ++ rm.code))
  | .cvtsr h d a b fd fsrc => some (packA h.c 0x24 h.w d.code a.code b.code (fd.code ++ fsrc.code))
  | .mxpk h d a mf rm => some (packA h.c 0x25 h.w d.code a.code 0 (0#1 ++ mf.code ++ rm.code))
  | .mxup h d a mf => some (packA h.c 0x25 h.w d.code a.code 0 (1#1 ++ mf.code ++ 0#3))
  | .sfFn h d a fn fs => some (packA h.c 0x26 h.w d.code a.code 0 (fn.code ++ fs.code))
  | .ballot h d a => some (packA h.c 0x28 h.w d.code a.code 0 0)
  | .vany h d a => some (packA h.c 0x28 h.w d.code a.code 0 1)
  | .vall h d a => some (packA h.c 0x28 h.w d.code a.code 0 2)
  | .shfl h wide d a b => some (packA h.c 0x28 h.w d.code a.code b.code (intF wide 3))
  | .push h wide d a b => some (packA h.c 0x28 h.w d.code a.code b.code (intF wide 4))
  | .bcast h wide d a b => some (packA h.c 0x28 h.w d.code a.code b.code (intF wide 5))
  | .kfirst h d k => some (packA h.c 0x28 h.w d.code (kfield k) 0 6)
  | .redu h d a op ty rm => some (packA h.c 0x29 h.w d.code a.code (kfield rm.code) (op.code ++ ty.code))
  | .scan h d a op ty rm => some (packA h.c 0x2A h.w d.code a.code (kfield rm.code) (op.code ++ ty.code))
  | .kand c d a b => some (packA c 0x2B false (kfield d) (kfield a) (kfield b) 0)
  | .kor c d a b => some (packA c 0x2B false (kfield d) (kfield a) (kfield b) 1)
  | .kxor c d a b => some (packA c 0x2B false (kfield d) (kfield a) (kfield b) 2)
  | .knot c d a => some (packA c 0x2B false (kfield d) (kfield a) 0 3)
  | .kmovMask c d a => some (packA c 0x2B false (kfield d) (kfield a) 0 4)
  | .kmovToMask c d a => some (packA c 0x2B false (kfield d) a.code 0 5)
  | .kmovToS h d a => some (packA h.c 0x2B h.w d.code (kfield a) 0 6)
  | .kact c d => some (packA c 0x2B false (kfield d) 0 0 7)
  | .edge h d a b => some (packA h.c 0x2C h.w d.code a.code b.code 0)
  | .qdx h d a => some (packA h.c 0x2C h.w d.code a.code 0 1)
  | .qdy h d a => some (packA h.c 0x2C h.w d.code a.code 0 2)
  | .rng h d a => some (packA h.c 0x2D h.w d.code a.code 0 0)
  | .rngU h d a => some (packA h.c 0x2D h.w d.code a.code 0 1)
  | .ld m d a y z => some (packM m 0x2E d.code a.code y z.code)
  | .ldnc m d a y z => some (packM m 0x2F d.code a.code y z.code)
  | .lds m d a y wide => some (packM m 0x30 d.code a.code y (0#1 ++ BitVec.ofBool wide))
  | .ldu m d a y wide => some (packM m 0x30 d.code a.code y (1#1 ++ BitVec.ofBool wide))
  | .ldAcq m d a y wide => some (packM m 0x31 d.code a.code y (0#1 ++ BitVec.ofBool wide))
  | .st m d a y z => some (packM m 0x32 d.code a.code y z.code)
  | .stm m d a y => some (packM m 0x33 d.code a.code y 0)
  | .stRel m d a y wide => some (packM m 0x33 d.code a.code y (1#1 ++ BitVec.ofBool wide))
  | .atom m d a op wide => some (packYZ m 0x34 d.code a.code (BitVec.ofBool wide ++ op.code))
  | .cas m d a wide => some (packYZ m 0x35 d.code a.code (0#3 ++ BitVec.ofBool wide))
  | .atomSwap m d a wide => some (packYZ m 0x35 d.code a.code (1#3 ++ BitVec.ofBool wide))
  | .fatom m d a op dbl => some (packYZ m 0x35 d.code a.code (fatomYZ op dbl))
  | .xaddS m d a => some (packYZ m 0x35 d.code a.code 10)
  | .xaddD m d a => some (packYZ m 0x35 d.code a.code 11)
  | .vbt m d a => some (packYZ m 0x35 d.code a.code 12)
  | .prf c llc a k => some (packYZ ⟨c, k, 0, 0⟩ 0x35 (0#5 ++ BitVec.ofBool llc) a.code 13)
  | .snop c none o p => some (packYZ ⟨c, 0, o, p⟩ 0x35 0 0 14)
  | .snop c (some sc) o p => some (packYZ ⟨c, 0, o, p⟩ 0x35 (1#3 ++ sc.code) 0 14)
  | .rpop m d n => some (packYZ m 0x36 d.code n 0)
  | .racq m d n => some (packYZ m 0x36 d.code n 1)
  | .rcom m d n => some (packYZ m 0x36 d.code n 2)
  | .rrel m d n => some (packYZ m 0x36 d.code n 3)
  | .rstat m d n => some (packYZ m 0x36 d.code n 4)
  | .rcomEos m d n => some (packYZ m 0x36 d.code n 5)
  | .rcomErr m d n => some (packYZ m 0x36 d.code n 6)
  | .barr m n => some (packYZ m 0x37 0 n 0)
  | .barw m n => some (packYZ m 0x37 0 n 1)
  | .barx m d n => some (packYZ m 0x37 d.code n 2)
  | .pbar m n => some (packYZ m 0x37 0 n 3)
  | .cbarr m => some (packYZ m 0x37 0 0 4)
  | .cbarw m => some (packYZ m 0x37 0 0 5)
  | .ntc m b a => some (packYZ m 0x38 b a.code 0)
  | .mxd m a => some (packYZ m 0x3A 0 a.code 0)
  | .mxb m a => some (packYZ m 0x3A 0 a.code 1)
  | .mxg m a => some (packYZ m 0x3A 0 a.code 2)
  | .mxq m d => some (packYZ m 0x3A d.code 0 3)
  | .acld m d a => some (packYZ m 0x3B d.code a.code 0)
  | .acst m d a => some (packYZ m 0x3B d.code a.code 1)
  | .aczr m d a => some (packYZ m 0x3B d.code a.code 2)
  | .xaccE32 m d a => some (packYZ m 0x3C d.code a.code 0)
  | .xaccE64 m d a => some (packYZ m 0x3C d.code a.code 1)
  | .xrndE32 m fd d a => some (packYZ m 0x3C d.code a.code (1#2 ++ fd.code))
  | .xmovSt m d a => some (packYZ m 0x3C d.code a.code 8)
  | .xmovLd m d a => some (packYZ m 0x3C d.code a.code 9)
  | .xrndE64 m fd d a => some (packYZ m 0x3C d.code a.code (3#2 ++ fd.code))
  | .trace m d a => some (packYZ m 0x3D d.code a.code 0)
  | .vmarch m d a => some (packYZ m 0x3D d.code a.code 1)
  | .ovq m d a => some (packYZ m 0x3D d.code a.code 2)
  | .refit m a => some (packYZ m 0x3D 0 a.code 3)
  | .attr m d a => some (packYZ m 0x3E d.code a.code 0)
  | .dsc m d a => some (packYZ m 0x3E d.code a.code 1)
  | .rbin m d a => some (packYZ m 0x3E d.code a.code 2)
  | .tex m d a => some (packYZ m 0x3E d.code a.code 3)
  | .slg m d a => some (packYZ m 0x3E d.code a.code 4)
  | _ => none

/-! ## The decoder -/

/-- The header of a format A, F or I word. -/
def fldH (w : Word) : AHdr := { c := fldC w, w := fldW w }
/-- D of a format A word as an operand. -/
def opD (w : Word) : Operand := Operand.ofCode (fldD w)
/-- A of a format A word as an operand. -/
def opA (w : Word) : Operand := Operand.ofCode (fldA w)
/-- B of a format A word as an operand. -/
def opB (w : Word) : Operand := Operand.ofCode (fldB w)
/-- C of a format F word as an operand. -/
def opX (w : Word) : Operand := Operand.ofCode (fldF w)
/-- D of a format M, E or U word, or A of a format B2 word, as an operand. -/
def opMD (w : Word) : Operand := Operand.ofCode (fldUD w)
/-- A of a format M or E word as an operand. -/
def opMA (w : Word) : Operand := Operand.ofCode (fldMA w)
/-- A mask number: the low three bits of a 6-bit field (R175). -/
def low3 (x : BitVec 6) : BitVec 3 := x.extractLsb' 0 3
/-- RM in F[2:0] (R173). -/
def rmF (w : Word) : RM := RM.ofCode (low3 (fldF w))
/-- RM or FC code in B[2:0] (R173). -/
def rmB (w : Word) : RM := RM.ofCode (low3 (fldB w))
/-- The three bits F[5:3]. -/
def hiF (w : Word) : BitVec 3 := (fldF w).extractLsb' 3 3
/-- F[5]: the 64-bit form (R170). -/
def wideF (w : Word) : Bool := (fldF w).extractLsb' 5 1 == 1#1
/-- FS in F[1:0] (R173). -/
def fsLow (w : Word) : FS := FS.ofCode ((fldF w).extractLsb' 0 2)
/-- FS in F[4:3] (R173). -/
def fsHigh (w : Word) : FS := FS.ofCode ((fldF w).extractLsb' 3 2)
/-- The four bits F[5:2]. -/
def sel4 (w : Word) : BitVec 4 := (fldF w).extractLsb' 2 4

/-- Major 0x00 (R169). -/
def shape00 (w : Word) : Except Nat Instr :=
  match (fldF w).toNat with
  | 0 => .ok (.nop (fldC w))
  | 1 => .ok (.exit (fldC w))
  | 2 => .ok (.yield (fldC w))
  | 3 => .ok (.ret (fldC w))
  | 4 => .ok (.jmpi (fldC w) (opA w))
  | 5 => .ok (.calli (fldC w) (opA w) (fldB w))
  | 6 => .ok (.trap (fldC w) (fldCode w))
  | 7 => .ok (.tret (fldC w))
  | 8 => .ok (.svc (fldC w) (fldCode w))
  | 9 => .ok (.clk (fldH w) (opD w))
  | 10 => .ok (.rdsr (fldH w) (opD w) (fldB w))
  | 11 => .ok (.wrsr (fldC w) (fldD w) (opA w))
  | 12 => .ok (.lpcr (fldH w) (opD w))
  | 13 => .ok (.lpcw (fldC w) (opA w))
  | 14 => .ok (.tmcmp (fldC w) (opA w))
  | _ => .error 0x02

/-- Major 0x06 (R170). -/
def shapeInt (w : Word) : Except Nat Instr :=
  let h := fldH w
  let f := wideF w
  let d := opD w
  let a := opA w
  let b := opB w
  match ((fldF w).extractLsb' 0 5).toNat with
  | 0 => .ok (.add h f d a b) | 1 => .ok (.sub h f d a b) | 2 => .ok (.mul h f d a b)
  | 3 => .ok (.mulh h f d a b) | 4 => .ok (.mulhu h f d a b) | 5 => .ok (.addc h f d a b)
  | 6 => .ok (.subb h f d a b) | 7 => .ok (.min h f d a b) | 8 => .ok (.max h f d a b)
  | 9 => .ok (.minu h f d a b) | 10 => .ok (.maxu h f d a b) | 11 => .ok (.abs h f d a)
  | 12 => .ok (.and h f d a b) | 13 => .ok (.or h f d a b) | 14 => .ok (.xor h f d a b)
  | 15 => .ok (.andn h f d a b) | 16 => .ok (.shl h f d a b) | 17 => .ok (.shr h f d a b)
  | 18 => .ok (.sra h f d a b) | 19 => .ok (.clz h f d a) | 20 => .ok (.popc h f d a)
  | 21 => .ok (.brev h f d a) | 22 => .ok (.mov h f d a)
  | _ => .error 0x02

/-- Major 0x28 (R175): F[5] is the 64-bit form of shfl, push and bcast only. -/
def shapeCross (w : Word) : Except Nat Instr :=
  let h := fldH w
  match (fldF w).toNat with
  | 0 => .ok (.ballot h (opD w) (opA w))
  | 1 => .ok (.vany h (opD w) (opA w))
  | 2 => .ok (.vall h (opD w) (opA w))
  | 3 => .ok (.shfl h false (opD w) (opA w) (opB w))
  | 4 => .ok (.push h false (opD w) (opA w) (opB w))
  | 5 => .ok (.bcast h false (opD w) (opA w) (opB w))
  | 6 => .ok (.kfirst h (opD w) (low3 (fldA w)))
  | 35 => .ok (.shfl h true (opD w) (opA w) (opB w))
  | 36 => .ok (.push h true (opD w) (opA w) (opB w))
  | 37 => .ok (.bcast h true (opD w) (opA w) (opB w))
  | _ => .error 0x02

/-- Major 0x2B (R175). -/
def shapeMask (w : Word) : Except Nat Instr :=
  let c := fldC w
  let d := low3 (fldD w)
  let a := low3 (fldA w)
  let b := low3 (fldB w)
  match (fldF w).toNat with
  | 0 => .ok (.kand c d a b)
  | 1 => .ok (.kor c d a b)
  | 2 => .ok (.kxor c d a b)
  | 3 => .ok (.knot c d a)
  | 4 => .ok (.kmovMask c d a)
  | 5 => .ok (.kmovToMask c d (opA w))
  | 6 => .ok (.kmovToS (fldH w) (opD w) a)
  | 7 => .ok (.kact c d)
  | _ => .error 0x02

/-- Major 0x35 (R176). -/
def shape35 (w : Word) : Except Nat Instr :=
  let m := fldM w
  let d := opMD w
  let a := opMA w
  match (fldYZ w).toNat with
  | 0 => .ok (.cas m d a false) | 1 => .ok (.cas m d a true)
  | 2 => .ok (.atomSwap m d a false) | 3 => .ok (.atomSwap m d a true)
  | 4 => .ok (.fatom m d a .add false) | 5 => .ok (.fatom m d a .min false) | 6 => .ok (.fatom m d a .max false)
  | 7 => .ok (.fatom m d a .add true) | 8 => .ok (.fatom m d a .min true) | 9 => .ok (.fatom m d a .max true)
  | 10 => .ok (.xaddS m d a) | 11 => .ok (.xaddD m d a) | 12 => .ok (.vbt m d a)
  | 13 => .ok (.prf m.c ((fldUD w).extractLsb' 0 1 == 1#1) a m.k)
  | 14 => .ok (.snop m.c (if (fldUD w).extractLsb' 3 1 == 1#1 then some (Scope.ofCode (low3 (fldUD w))) else none) m.o m.p)
  | _ => .error 0x02

/-- Major 0x36 (R177). -/
def shapeRing (w : Word) : Except Nat Instr :=
  let m := fldM w
  let d := opMD w
  let n := fldMA w
  match (fldYZ w).toNat with
  | 0 => .ok (.rpop m d n) | 1 => .ok (.racq m d n) | 2 => .ok (.rcom m d n) | 3 => .ok (.rrel m d n)
  | 4 => .ok (.rstat m d n) | 5 => .ok (.rcomEos m d n) | 6 => .ok (.rcomErr m d n)
  | _ => .error 0x02

/-- Major 0x37 (R177). -/
def shapeBar (w : Word) : Except Nat Instr :=
  let m := fldM w
  let n := fldMA w
  match (fldYZ w).toNat with
  | 0 => .ok (.barr m n) | 1 => .ok (.barw m n) | 2 => .ok (.barx m (opMD w) n) | 3 => .ok (.pbar m n)
  | 4 => .ok (.cbarr m) | 5 => .ok (.cbarw m)
  | _ => .error 0x02

/-- Majors 0x3A to 0x3E (R178). -/
def shapeEngine (op : Nat) (w : Word) : Except Nat Instr :=
  let m := fldM w
  let d := opMD w
  let a := opMA w
  match op, (fldYZ w).toNat with
  | 0x3A, 0 => .ok (.mxd m a) | 0x3A, 1 => .ok (.mxb m a) | 0x3A, 2 => .ok (.mxg m a) | 0x3A, 3 => .ok (.mxq m d)
  | 0x3B, 0 => .ok (.acld m d a) | 0x3B, 1 => .ok (.acst m d a) | 0x3B, 2 => .ok (.aczr m d a)
  | 0x3C, 0 => .ok (.xaccE32 m d a) | 0x3C, 1 => .ok (.xaccE64 m d a)
  | 0x3C, 4 => .ok (.xrndE32 m .s d a) | 0x3C, 6 => .ok (.xrndE32 m .h d a) | 0x3C, 7 => .ok (.xrndE32 m .bf d a)
  | 0x3C, 8 => .ok (.xmovSt m d a) | 0x3C, 9 => .ok (.xmovLd m d a)
  | 0x3C, 12 => .ok (.xrndE64 m .s d a) | 0x3C, 13 => .ok (.xrndE64 m .d d a)
  | 0x3C, 14 => .ok (.xrndE64 m .h d a) | 0x3C, 15 => .ok (.xrndE64 m .bf d a)
  | 0x3D, 0 => .ok (.trace m d a) | 0x3D, 1 => .ok (.vmarch m d a) | 0x3D, 2 => .ok (.ovq m d a) | 0x3D, 3 => .ok (.refit m a)
  | 0x3E, 0 => .ok (.attr m d a) | 0x3E, 1 => .ok (.dsc m d a) | 0x3E, 2 => .ok (.rbin m d a)
  | 0x3E, 3 => .ok (.tex m d a) | 0x3E, 4 => .ok (.slg m d a)
  | _, _ => .error 0x02

/-- The instruction whose selectors the word carries, whatever stands in the fields its form does not use: reason 0x01 for
a major that is never an instruction and 0x02 for an unassigned selector (16 R455). -/
def shape (w : Word) : Except Nat Instr :=
  let c := fldC w
  let h := fldH w
  let m := fldM w
  match (fldOp w).toNat with
  | 0x00 => shape00 w
  | 0x01 => .ok (.bra c (fldBK w) (fldDisp22 w))
  | 0x02 => .ok (if (fldDisp22 w).extractLsb' 21 1 == 1#1 then .bru c (fldBK w) ((fldDisp22 w).extractLsb' 0 21)
      else .brm c (fldBK w) ((fldDisp22 w).extractLsb' 0 21))
  | 0x03 => .ok (.brz c (opMD w) (fldI19 w))
  | 0x04 => .ok (.brnz c (opMD w) (fldI19 w))
  | 0x05 => .ok (.call c (fldUD w) (fldI19 w))
  | 0x06 => shapeInt w
  | 0x07 => .ok (.addi h (opD w) (opA w) (fldI12 w))
  | 0x08 => .ok (.andi h (opD w) (opA w) (fldI12 w))
  | 0x09 => .ok (.ori h (opD w) (opA w) (fldI12 w))
  | 0x0A => .ok (.xori h (opD w) (opA w) (fldI12 w))
  | 0x0B => .ok (.shli h (opD w) (opA w) (fldF w))
  | 0x0C => .ok (.shri h (opD w) (opA w) (fldF w))
  | 0x0D => .ok (.srai h (opD w) (opA w) (fldF w))
  | 0x0E => .ok (.li c (opMD w) (fldI19 w))
  | 0x0F => .ok (.lui c (opMD w) (fldI19 w))
  | 0x10 => .ok (.mad h (opD w) (opA w) (opB w) (opX w))
  | 0x11 => .ok (.fshl h (opD w) (opA w) (opB w) (opX w))
  | 0x12 => .ok (.fshr h (opD w) (opA w) (opB w) (opX w))
  | 0x13 => .ok (.bfx h (opD w) (opA w) (opB w) (opX w))
  | 0x14 => .ok (.bfxs h (opD w) (opA w) (opB w) (opX w))
  | 0x15 => .ok (.bfi h (opD w) (opA w) (opB w) (opX w))
  | 0x16 => .ok (.sel h (opD w) (opA w) (opB w) (low3 (fldF w)))
  | 0x17 => match IPred.ofCode ((fldF w).extractLsb' 0 5) with
    | some p => .ok (.icmp c (low3 (fldD w)) (wideF w) p (opA w) (opB w))
    | none => .error 0x02
  | 0x18 => .ok (if wideF w then .fsub h (opD w) (opA w) (opB w) (fsHigh w) (rmF w)
      else .fadd h (opD w) (opA w) (opB w) (fsHigh w) (rmF w))
  | 0x19 => if wideF w then .error 0x02 else .ok (.fmul h (opD w) (opA w) (opB w) (fsHigh w) (rmF w))
  | 0x1A => .ok (.ffmaS h (opD w) (opA w) (opB w) (opX w))
  | 0x1B => .ok (.ffmaD h (opD w) (opA w) (opB w) (opX w))
  | 0x1C => .ok (.ffmaH2 h (opD w) (opA w) (opB w) (opX w))
  | 0x1D => .ok (.ffmaB2 h (opD w) (opA w) (opB w) (opX w))
  | 0x1E => if wideF w then .error 0x02 else .ok (.fdiv h (opD w) (opA w) (opB w) (fsHigh w) (rmF w))
  | 0x1F => match (sel4 w).toNat with
    | 0 => .ok (.fsqrt h (opD w) (opA w) (fsLow w) (rmB w))
    | 1 => .ok (.frnd h (opD w) (opA w) (fsLow w) (rmB w))
    | 2 => .ok (.fclass h (opD w) (opA w) (fsLow w))
    | _ => .error 0x02
  | 0x20 => match (sel4 w).toNat with
    | 0 => .ok (.fmin h (opD w) (opA w) (opB w) (fsLow w))
    | 1 => .ok (.fmax h (opD w) (opA w) (opB w) (fsLow w))
    | _ => .error 0x02
  | 0x21 => match FPred.ofCode (sel4 w) with
    | some p => .ok (.fcmp c (low3 (fldD w)) p (fsLow w) (opA w) (opB w))
    | none => .error 0x02
  | 0x22 => .ok (.cvt h (opD w) (opA w) (FC.ofCode (hiF w)) (FC.ofCode (low3 (fldB w))) (rmF w))
  | 0x23 => .ok (if (fldB w).extractLsb' 3 1 == 1#1
      then .cvtf h (opD w) (opA w) (FC.ofCode (hiF w)) (IT.ofCode (low3 (fldB w))) (rmF w)
      else .cvti h (opD w) (opA w) (IT.ofCode (hiF w)) (FC.ofCode (low3 (fldB w))) (rmF w))
  | 0x24 => .ok (.cvtsr h (opD w) (opA w) (opB w) (FC.ofCode (hiF w)) (FC.ofCode (low3 (fldF w))))
  | 0x25 => match MF.ofCode ((fldF w).extractLsb' 3 2) with
    | some mf => .ok (if wideF w then .mxup h (opD w) (opA w) mf else .mxpk h (opD w) (opA w) mf (rmF w))
    | none => .error 0x02
  | 0x26 => match SFn.ofCode (sel4 w) with
    | some fn => .ok (.sfFn h (opD w) (opA w) fn (fsLow w))
    | none => .error 0x02
  | 0x28 => shapeCross w
  | 0x29 => match RedOp.ofCode (hiF w) with
    | some op => .ok (.redu h (opD w) (opA w) op (RedTy.ofCode (low3 (fldF w))) (rmB w))
    | none => .error 0x02
  | 0x2A => match RedOp.ofCode (hiF w) with
    | some op => .ok (.scan h (opD w) (opA w) op (RedTy.ofCode (low3 (fldF w))) (rmB w))
    | none => .error 0x02
  | 0x2B => shapeMask w
  | 0x2C => match (fldF w).toNat with
    | 0 => .ok (.edge h (opD w) (opA w) (opB w))
    | 1 => .ok (.qdx h (opD w) (opA w))
    | 2 => .ok (.qdy h (opD w) (opA w))
    | _ => .error 0x02
  | 0x2D => match (fldF w).toNat with
    | 0 => .ok (.rng h (opD w) (opA w))
    | 1 => .ok (.rngU h (opD w) (opA w))
    | _ => .error 0x02
  | 0x2E => .ok (.ld m (opMD w) (opMA w) (fldY w) (Size.ofCode (fldZ w)))
  | 0x2F => .ok (.ldnc m (opMD w) (opMA w) (fldY w) (Size.ofCode (fldZ w)))
  | 0x30 => .ok (if (fldZ w).extractLsb' 1 1 == 1#1
      then .ldu m (opMD w) (opMA w) (fldY w) ((fldZ w).extractLsb' 0 1 == 1#1)
      else .lds m (opMD w) (opMA w) (fldY w) ((fldZ w).extractLsb' 0 1 == 1#1))
  | 0x31 => match (fldZ w).toNat with
    | 0 => .ok (.ldAcq m (opMD w) (opMA w) (fldY w) false)
    | 1 => .ok (.ldAcq m (opMD w) (opMA w) (fldY w) true)
    | _ => .error 0x02
  | 0x32 => .ok (.st m (opMD w) (opMA w) (fldY w) (Size.ofCode (fldZ w)))
  | 0x33 => match (fldZ w).toNat with
    | 0 => .ok (.stm m (opMD w) (opMA w) (fldY w))
    | 2 => .ok (.stRel m (opMD w) (opMA w) (fldY w) false)
    | 3 => .ok (.stRel m (opMD w) (opMA w) (fldY w) true)
    | _ => .error 0x02
  | 0x34 => .ok (.atom m (opMD w) (opMA w) (AtomOp.ofCode ((fldYZ w).extractLsb' 0 3)) ((fldYZ w).extractLsb' 3 1 == 1#1))
  | 0x35 => shape35 w
  | 0x36 => shapeRing w
  | 0x37 => shapeBar w
  | 0x38 => if (fldYZ w).toNat = 0 then .ok (.ntc m (fldUD w) (opMA w)) else .error 0x02
  | 0x3A => shapeEngine 0x3A w
  | 0x3B => shapeEngine 0x3B w
  | 0x3C => shapeEngine 0x3C w
  | 0x3D => shapeEngine 0x3D w
  | 0x3E => shapeEngine 0x3E w
  | _ => .error 0x01

/-- The bits of a word whose non-zero value has a reason code of its own, with that code: the mask field D[5:3] of icmp and
fcmp, a destination code not allowed, and B[5:3] of fsqrt and frnd, a reserved mode (16 R456). -/
def ownReason (w : Word) : Word × Nat :=
  match (fldOp w).toNat with
  | 0x17 => (0x00E00000#32, 0x06)
  | 0x21 => (0x00E00000#32, 0x06)
  | 0x1F => if (sel4 w).toNat < 2 then (0x00000E00#32, 0x03) else (0#32, 0x05)
  | _ => (0#32, 0x05)

/-- The reasons for which a word of i's selectors is not i's own word: its non-zero unused fields (R179, 16 R456). -/
def spareReasons (w : Word) (i : Instr) : List Nat :=
  if encode i = some w then []
  else reasonIf ((w &&& (ownReason w).1) != 0#32) (ownReason w).2 ++
    reasonIf (encode i != some (w &&& ~~~(ownReason w).1)) 0x05

/-- Decoding one word: the instruction, or the lowest reason code of an encoding that names none (R179, 16 R453, R455). A
word whose unused fields are not all 0 differs from its instruction's own word, and is refused. The legality of operands is
WellFormed's. -/
def decode (w : Word) : Except Nat Instr :=
  match shape w with
  | .error r => .error r
  | .ok i => if encode i = some w then .ok i else .error ((spareReasons w i).foldl Nat.min 0x05)

/-- The host's question: the instruction this decoder reads from a table row's word. Every instruction word is 32 bits, and
it is laid out as the hardware stores it, little-endian (R144). -/
def decodeTableWord (nbits w : Nat) : Option Instr :=
  if nbits = 32 then
    match decode (BitVec.ofNat 32 w) with
    | .ok i => some i
    | .error _ => none
  else none

end Sys2Proof
end

