-- ==== Sys2Proof/Config.lean ====
section
/-! DEFINITION. What the spec leaves open and this model leaves free: opaque constants with no body, of which no proof can
know a value (00 R3; notes/assumptions/1.md, 2.md, 9.md). -/

namespace Sys2Proof.Config

/-- Which turn comes next when the agenda is empty (log 1): the order of enabled steps is not defined by the spec. -/
opaque schedule : Nat → Turn
/-- A choice among outcomes that the spec allows (00 R3, log 2). -/
opaque freeBool : Nat → Bool
/-- A value that the spec does not state (log 2). -/
opaque freeWord : Nat → BitVec 64
/-- Which line a full cache gives up, among those it may (log 66). -/
opaque victim : Nat → Nat
/-- Whether an acquire, by the name of its operation, acts as a plain load where the spec lets it (log 67). -/
opaque narrow : Nat → Bool
/-- The device's serial number, unique to it (11 R376, log 9). -/
opaque serial : BitVec 64
/-- The identifier of the device's attestation key (11 R376, log 9). -/
opaque attId : BitVec 128
/-- The secrets of that key, by leaf and chain (11 R376, log 9). -/
opaque attSecret : Nat → Nat → BitVec 256
/-- The randomizer of the signature made with a leaf (11 R376, log 9). -/
opaque attRandom : Nat → BitVec 256
/-- The hash of the ROM's public key, fused into the compute die (11 R375, log 9). -/
opaque romKey : BitVec 256
/-- The firmware image that a slot of the sideband flash holds (11 R375, log 9). -/
opaque slotImage : List Byte → List Byte
/-- The image's LMS signature there. -/
opaque slotSig : List Byte → List Byte
/-- The public key there. -/
opaque slotKey : List Byte → List Byte
/-- The Tvedli port to which a request for an address of a device hashes, before modulo 18 (11 R370, log 10). -/
opaque portHash : Nat → Nat → Nat

end Sys2Proof.Config
end

