-- ==== Sys2Proof/Machine/State.lean ====
section
/-! DEFINITION. The state of the Revon 9 as plain data, its reset, and the reasons a step can stop. -/

namespace Sys2Proof.Machine

/-- A table: pairs of a key and an entry, keys strictly rising. -/
abbrev Tab (α : Type) := List (Nat × α)
/-- Memory: pairs of an address and a byte, addresses strictly rising, no byte 0, which is what an unlisted address reads as
(log 3). -/
abbrev Memory := List Host.Cell

/-! ## The group (02) -/

/-- A link record of a call (R46, R48). -/
structure Link where
  ret : Word
  frame : Nat
  held : Mask
  deriving DecidableEq, Repr, Inhabited

/-- What a group keeps while a trap handler runs (15 R430): the saved lane PC vector and the entry depth. -/
structure Handler where
  saved : List Word
  depth : Nat
  deriving DecidableEq, Repr, Inhabited

/-- A window slide due at a packet boundary (R46, R47): for a call, its frame size, return index and held lanes. -/
inductive Slide where
  | call (f : Nat) (ret : Word) (held : Mask)
  | ret
  deriving DecidableEq, Repr, Inhabited

/-- A user trap due at a packet boundary (15 R429). -/
structure TrapReq where
  cause : BitVec 8
  code : BitVec 16
  mask : Mask
  slot : Nat
  dest : BitVec 6
  deriving DecidableEq, Repr, Inhabited

/-- What a group must do before it issues again (R70, R258, R259). -/
structure Boundary where
  slide : Option Slide := none
  trap : Option TrapReq := none
  /-- The trap of an xrnd, which inside a handler is context-fatal (15 R429). -/
  xtrap : Option TrapReq := none
  /-- A pbar's barrier, whose parking is step 5 of R70. -/
  park : Option Nat := none
  /-- The phases its barrier had completed when that pbar arrived, once it has; and the pbar's packet ran in a handler. -/
  parkGen : Option Nat := none
  parkIn : Bool := false
  /-- The slot of that pbar in its packet, which a fault of the re-created group's barrier names (15 R446; 16 R454). -/
  parkSlot : Nat := 0
  /-- A tret waiting for the group's committed stores (R259). -/
  tret : Bool := false
  /-- The codes of the svc words in hold, the one being served first (R258). -/
  svc : List (BitVec 16) := []
  /-- The service slot that holds the svc's record. -/
  svcSlot : Option Nat := none
  /-- A timer trap is due at this boundary (02 R66). -/
  timer : Bool := false
  /-- The core's data cache is emptied when the evicted group returns: its svc has been answered (15 R449). -/
  empty : Bool := false
  /-- The index of the packet the boundary follows, and the slot of its call, ret or tret (16 R454). -/
  pcx : Word := 0#32
  ctl : Nat := 0
  /-- Accesses of the group wait on a translation report (15 R433, R434, R432, R435). -/
  fault : Bool := false
  /-- A context-fatal check of the group's packet failed: it issues nothing more (16 R452). -/
  dead : Bool := false
  deriving DecidableEq, Repr, Inhabited

/-- Where a group stands (02 R51, R57; 15 R446). -/
inductive Place where
  | resident | parking | parked | evicting | evicted
  deriving DecidableEq, Repr, Inhabited

/-- A value held for one lane of a cancelled load (15 R433): the word's slot, the lane and the bytes. -/
structure Held where
  slot : Nat
  lane : Nat
  bytes : List Byte
  deriving DecidableEq, Repr, Inhabited

/-- One group (02 R35 to R70). -/
structure Group where
  tid : Nat
  core : Nat
  rslot : Nat
  gintm : Nat
  gidx : Nat
  width : Nat
  pool : Nat
  place : Place
  /-- The register pool: pool slot times 64 plus lane (R45); an unlisted element is 0. -/
  v : Tab Word
  /-- s0 to s15; an unlisted register is 0. -/
  s : Tab DWord
  /-- k1 to k7 (R39); an unlisted mask is 0. k0 is not held: it reads as ones. -/
  k : Tab Mask
  /-- The lane PC vector, one entry per lane (R41). -/
  lpc : List Word
  held : Mask
  /-- The most recent link records, at most four, most recent first (R46, R48). -/
  links : List Link
  /-- WBASE.DEPTH (R62). -/
  depth : Nat
  /-- The window base B (R45). -/
  wb : Nat
  /-- L, the lowest absolute register in the pool (R45). -/
  wl : Nat
  tvec : DWord
  tframe : DWord
  tcause : DWord
  tmask : DWord
  tslot : DWord
  tmcmp : DWord
  gcyc : DWord
  fps : DWord
  fpe : DWord
  rndkey : DWord
  spill : DWord
  /-- The four stream counts (R94, R68). -/
  cnt : List Nat
  handler : Option Handler
  bound : Boundary
  gather : List Held
  /-- A yield holds the group until the other ready groups of its core have issued or until this cycle (06 R193). -/
  yieldEnd : Option Nat
  yieldLeft : List Nat
  /-- The cycle in which the group's least PC last changed (09 R332). -/
  pcSince : Nat
  /-- The tokens of the group's next packet are granted (09 R333). -/
  tok : Bool
  /-- The operations that may still write a register of this group of an xrnd packet: FPE as it stood (08 R285). -/
  fpeAtIssue : DWord
  /-- For a material group: its galley and the record indices of its batch entries by lane (09 R331). -/
  galley : Option Nat
  batch : Tab Nat
  /-- Helper lanes (10 R354). -/
  helper : Mask
  /-- The scope of its latest scoped snop, at which what it stores from then on is released (03 R97, R98; log 67), and that it has
  stored something since. -/
  relScope : Option (Nat × Bool) := .none
  deriving DecidableEq, Repr, Inhabited

/-! ## Operations in flight (03 R91 to R94) -/

/-- What a translated or local address reaches (03 R72, R75, R83). -/
inductive Target where
  | spad (tid off : Nat)
  | dev (pa : Nat) (nc : Bool)
  | host (pa : Nat)
  | remote (dev pa : Nat)
  deriving DecidableEq, Repr, Inhabited

/-- The part of one lane's access that falls in one naturally aligned 8-byte unit (03 R106), or a whole read-modify-write. -/
structure Acc where
  lane : Nat
  va : Nat
  /-- None while the access waits in the side log for a translation (15 R435). -/
  tgt : Option Target
  /-- For an EXA64 record that crosses into another page (03 R105): the bytes of its first part, and the second part. -/
  tgt2 : Option (Nat × Target)
  /-- Bytes read, from va upward; for a store, the offsets and bytes it writes. -/
  len : Nat
  data : List (Nat × Byte)
  /-- The bytes a load part has bound, or the old value of a read-modify-write. -/
  got : List Byte
  /-- Flits of the part's request packet not yet injected, which are the allowances its leaf holds (11 R357, 17 R471). -/
  flits : Nat
  done : Bool
  /-- The place of the part within its lane's datum. -/
  off : Nat
  /-- The side-log slot that holds the access (15 R435), and its place in log order. -/
  log : Option (Nat × Nat)
  /-- The receiver has taken the part's request packet, whose credits are back at its leaf (11 R359, log 85). -/
  taken : Bool := false
  deriving DecidableEq, Repr, Inhabited

/-- The values a word read for one lane: A, D and the run of registers of a block form (08 R269). -/
structure LaneIn where
  lane : Nat
  a : DWord
  d : BitVec 128
  run : List Word
  deriving DecidableEq, Repr, Inhabited

/-- An operation handed off and not yet complete. -/
structure Op where
  gid : Nat
  tid : Nat
  core : Nat
  part : Nat
  /-- The residency slot, the word's slot and packet index, for the fault detail word (16 R454). -/
  rslot : Nat
  slot : Nat
  pcx : Word
  word : Instr
  /-- The lanes the word acts in; 0 when its guard is false in every lane (03 R95). -/
  act : Mask
  stream : Nat
  /-- The operations it is ordered after that were not complete at issue (03 R92, R94). -/
  after : List Nat
  /-- A load word of a cancelled packet, whose values go to the gather hold and which counts in no stream (15 R433). -/
  gather : Bool
  /-- The word's effect has been applied, and it waits on something else (a drain, a notice). -/
  applied : Bool
  a : DWord
  d : DWord
  lanes : List LaneIn
  accs : List Acc
  /-- Progress of an engine command that resumes: bytes of an xmov, entries of a refit (15 R441). -/
  prog : Nat
  /-- Lanes done and records reserved by an rbin (08 R303). -/
  fin : Mask
  resv : List (Nat × Nat)
  /-- The operation goes no further: a translation report of it is outstanding (15 R439), or it has raised a fault. -/
  wait : Bool
  /-- A descriptor as it was read, once for the word (08 R270). -/
  blk : Option (List Byte) := none
  /-- By lane: what an engine has read for it so far, in order; and the registers of a lane that has finished, or the record it has
  reserved (08 R303; 15 R441). -/
  logs : Tab (List (List Byte)) := []
  outs : Tab (List (Nat × Nat)) := []
  /-- GRPID of its group (15 R443). -/
  grp : DWord := 0
  /-- The scope at which what it stores is released: that of an st.rel, else of the group's latest scoped snop (03 R97, R98). -/
  rel : Option Nat := none
  deriving DecidableEq, Repr, Inhabited

/-! ## Rings, barriers, teams, clusters and grids (07, 09) -/

/-- The state of a ring slot (07 R241). -/
inductive SlotSt where
  | free | reserved | committed | popped
  deriving DecidableEq, Repr, Inhabited

/-- One slot of a ring with its flags (07 R241). -/
structure Slot where
  st : SlotSt
  eos : Bool
  err : Bool
  /-- The rcom whose stream a drain of this slot inherits (03 R101). -/
  rcom : Option Nat
  deriving DecidableEq, Repr, Inhabited

/-- A ring entry of a task descriptor (09 R316). -/
structure RingCfg where
  soff : Nat
  nslot : Nat
  ssz : Nat
  prod : Nat
  cons : Nat
  fbar : Nat
  fben : Bool
  valid : Bool
  feos : Bool
  pbase : DWord
  tstr : DWord
  c0 : Nat
  c1 : Nat
  c2 : Nat
  c3 : Nat
  s1 : DWord
  s2 : DWord
  s3 : DWord
  deriving DecidableEq, Repr, Inhabited

/-- A transfer notice in a ring's queue (07 R253 to R255). -/
structure Notice where
  saddr : DWord
  len : Nat
  pulled : Nat
  part : Nat
  tid : Nat
  bar : Nat
  op : Nat
  /-- The sending ntc, for a fault of the pull: unit, GRPID slot, PC and word slot (16 R455). -/
  fdet : DWord
  deriving DecidableEq, Repr, Inhabited

/-- A ring of a team (07 R241). -/
structure Ring where
  cfg : RingCfg
  slots : List Slot
  rix : Nat
  qix : Nat
  eosSeen : Bool
  errSeen : Bool
  notices : List Notice
  /-- Bytes of the pattern the feeder has committed, and whether its EOS slot is committed (09 R317). -/
  fed : Nat
  feosDone : Bool
  /-- Bytes of the pattern the drain has written (09 R319). -/
  drained : Nat
  /-- Bytes of the slot in hand that the feeder has filled or the drain has written (15 R441). -/
  taken : Nat
  /-- The ring's feeder or drain has raised a context-fatal fault and goes no further. -/
  stuck : Bool
  deriving DecidableEq, Repr, Inhabited

/-- A named barrier or a cluster barrier (07 R248, R251): the groups with an arrival recorded in this phase are listed. -/
structure Bar where
  arr : Nat
  cnt : Nat
  ph : Bool
  pend : DWord
  recs : List Nat
  /-- The feeder has arrived in this phase (09 R318). -/
  fed : Bool
  /-- Phases completed so far: PH is its parity. -/
  gen : Nat
  deriving DecidableEq, Repr, Inhabited

/-- A declared extent (09 R313). -/
structure ExtDecl where
  base : Nat
  size : Nat
  mode : Nat
  deriving DecidableEq, Repr, Inhabited

/-- A physical extent of a task's extent table (09 R314). -/
structure Extent where
  va : Nat
  size : Nat
  tgt : Target
  w : Bool
  /-- X of its pages, in order. -/
  xs : List Bool
  /-- NC of its pages, of any KIND. -/
  nc : Bool := false
  deriving DecidableEq, Repr, Inhabited

/-- How far an octant's TD has walked the declared extents of a task (09 R314, 15 R441). -/
structure ExtWalk where
  oct : Nat
  decl : List ExtDecl
  done : Nat
  found : List Extent
  deriving DecidableEq, Repr, Inhabited

/-- A task descriptor (09 R310). -/
structure Task where
  addr : Nat
  code : Nat
  entry : Nat
  npkt : Nat
  grid : Nat
  width : Nat
  pool : Nat
  gpt : Nat
  cwm : Nat
  chm : Nat
  spq : Nat
  amq : Nat
  phoff : Nat
  prio : Nat
  ecls : Nat
  mat : Bool
  tfstr : Nat
  spill : DWord
  rndkey : DWord
  carry : DWord
  tfbase : Nat
  barr : List Nat
  exts : List ExtDecl
  rings : List RingCfg
  deriving DecidableEq, Repr, Inhabited

/-- What a team is doing (15 R448, R449): `late` is a team marked after the barrier of some parked group of it had completed, whose
mark counts once those groups are re-created. -/
inductive TeamSt where
  | live | late | marked | swapped | retired
  deriving DecidableEq, Repr, Inhabited

/-- A team (02 R36). -/
structure Team where
  part : Nat
  grid : Nat
  cid : Nat
  core : Nat
  slot : Nat
  tidx : Nat
  row : Nat
  col : Nat
  st : TeamSt
  reserve : Bool
  gids : List Nat
  spad : Memory
  am : Memory
  rings : Tab Ring
  bars : Tab Bar
  deriving DecidableEq, Repr, Inhabited

/-- A cluster (02 R35). -/
structure Cluster where
  grid : Nat
  part : Nat
  oct : Nat
  clidx : Nat
  tids : List Nat
  bar : Bar
  deriving DecidableEq, Repr, Inhabited

/-- A grid in progress (09 R320): where its completion goes and what remains of it. -/
structure Grid where
  part : Nat
  task : Task
  compl : Nat
  cval : DWord
  arg : List Byte
  nextCl : Nat
  live : Nat
  /-- The graph run and node it retires (09 R328). -/
  node : Option (Nat × Nat)
  /-- The galley and batches of a material team, or the draw whose block records it runs. -/
  mat : Option Nat
  /-- Extent tables built by octant, and the walks of those that are not (09 R314). -/
  exts : Tab (List Extent)
  walks : List ExtWalk
  deriving DecidableEq, Repr, Inhabited

/-! ## Task queues, graphs, galleys, draws (09, 10) -/

/-- A draw descriptor with its tile set descriptor (10 R337, R347). -/
structure DrawDesc where
  addr : Nat
  op : Nat
  cull : Nat
  missrec : Bool
  prio : Nat
  ecls : Nat
  rgal : Nat
  tset : Nat
  itab : Nat
  ninst : Nat
  vw : Nat
  vh : Nat
  list : Nat
  nlist : Nat
  nsu : Nat
  subase : Nat
  gset : Nat
  stat : Nat
  tbase : Nat
  tw : Nat
  th : Nat
  spp : Nat
  deriving DecidableEq, Repr, Inhabited

/-- What the TD has read of a launch record's head (09 R323). -/
inductive HeadSt where
  | unread
  | task (grid : Nat)
  | draw (d : DrawDesc)
  | replay (hdr : Nat)
  deriving DecidableEq, Repr, Inhabited

/-- A launch record in a task queue (09 R320). -/
structure LaunchRec where
  desc : DWord
  compl : Nat
  cval : DWord
  arg : List Byte
  node : Option (Nat × Nat)
  st : HeadSt
  deriving DecidableEq, Repr, Inhabited

/-- A generation of a graph in progress (09 R328). -/
structure GraphRun where
  hdr : Nat
  nodes : Nat
  nnode : Nat
  gen : Nat
  left : Nat
  compl : Nat
  cval : DWord
  /-- Nodes enqueued in this generation, and the cycle since which the run has been stalled (17 R464). -/
  started : List Nat
  stall : Option Nat
  /-- Nodes whose grid has retired and waits for the graph engine (09 R328), and enqueues waiting on a full queue (R321). -/
  retired : List Nat
  waiting : List Nat
  /-- The graph engine has raised a fault for this run and takes it no further (17 R462). -/
  dead : Bool
  deriving DecidableEq, Repr, Inhabited

/-- A batch of galley records: formed, launched by a team, or freed in batch order (09 R330, R331). -/
structure Batch where
  idxs : List Nat
  tid : Option Nat
  freed : Bool
  deriving DecidableEq, Repr, Inhabited

/-- A galley descriptor (09 R329). -/
structure GalDesc where
  addr : Nat
  task : Nat
  rbase : Nat
  sbase : Nat
  nrec : Nat
  flush : Nat
  argp : Nat
  deriving DecidableEq, Repr, Inhabited

/-- The counters and records of a galley (09 R330). -/
structure Galley where
  rsv : Nat
  cmt : Nat
  fre : Nat
  /-- Indices committed at or above cmt, out of order. -/
  early : List Nat
  /-- Indices committed and in no batch yet. -/
  ready : List Nat
  batches : List Batch
  /-- The tile, by its directory name, of each record the CLE committed (10 R352). -/
  owner : Tab Nat
  /-- Indices that hold block records (10 R344), with the draw. -/
  blocks : Tab Nat
  helpers : List Nat
  lastCommit : Nat
  lastFree : Nat
  /-- The descriptor as it was checked since GTBASE was written, or that the check failed (17 R463). -/
  desc : Option GalDesc
  bad : Bool
  /-- The extent walk for the next team of its task (09 R314). -/
  walk : Option ExtWalk
  /-- The tile whose quad entry is being reserved, four records in a row (10 R351). -/
  quad : Option Nat
  /-- The cycle since which some reservation has waited (17 R466). -/
  waitSince : Option Nat
  deriving DecidableEq, Repr, Inhabited

/-- A draw in progress (10 R338). -/
structure Draw where
  part : Nat
  d : DrawDesc
  oct : Nat
  compl : Nat
  cval : DWord
  node : Option (Nat × Nat)
  /-- Next list entry and triangle of a RASTER draw; the tile in hand of the other operations. -/
  li : Nat
  tri : Nat
  /-- Blocks of the triangle in hand not yet emitted. -/
  blocks : List (Nat × Nat)
  n : Nat
  tris : Nat
  dropped : Nat
  culled : Nat
  nblocks : Nat
  recs : Nat
  /-- Last block record of each set-up slot (R345). -/
  slots : Tab Nat
  /-- Block records that no raster group has been launched for, and the raster groups launched (R338). -/
  open_ : List Nat
  rast : List Nat
  /-- The effect of OPEN, CLOSE or RELEASE has been made, or the list is rasterised. -/
  took : Bool
  /-- The directory names of the set's tiles once the draw has taken effect, those of a CLOSE as long as they are not SHADED; and its
  tiles that have not been RELEASED since, with LATE of those that have (R339). -/
  keys : List Nat
  set : List Nat
  late : Nat
  /-- The teams of the raster groups of a RASTER draw, and those that held records of a CLOSE's tiles (R336, R338). -/
  teams : List Nat
  /-- The triangle in hand: its identifier, its set-up slot, and its set-up record until that is written (R341, R345). -/
  ident : Nat
  slot : Nat
  setup : List Byte
  /-- The triangle waits for its set-up slot (R345); the draw waits for room in its galley (09 R330); it has raised a fault. -/
  slotWait : Bool
  full : Bool
  dead : Bool
  deriving DecidableEq, Repr, Inhabited

/-- The states of the tile-lifetime protocol; a RELEASED tile has no directory entry (10 R350). -/
inductive TileSt where
  | opened | closed | classified | shaded
  deriving DecidableEq, Repr, Inhabited

/-- A sample that a CLE has read (10 R351): its pixel in the viewport, its bits, and its class, which a skipped one has not. -/
structure QuadSample where
  px : Nat
  py : Nat
  val : Nat
  cls : Option Nat
  deriving DecidableEq, Repr, Inhabited

/-- A tile directory entry (10 R349, R350). -/
structure Tile where
  part : Nat
  /-- Its index in the set by which it was opened, or closed since. -/
  idx : Nat
  slice : Nat
  /-- Physical bases of the tile's 64 KiB stretches. -/
  pas : List Nat
  size : Nat
  st : TileSt
  /-- Committed records not yet freed (10 R352). -/
  cnt : Nat
  /-- Vbts dropped since the tile became OPEN (10 R339). -/
  late : Nat
  /-- The quad entry the CLE takes: its samples as read so far, the classes still to be recorded, the galley of the first of them once
  it is read, the records reserved there, and the galley it waits on. -/
  scan : Nat
  samples : List QuadSample
  todo : List Nat
  gal : Option Nat
  resv : List Nat
  full : Option Nat
  /-- The CLE has raised a fault on the tile (17 R468). -/
  dead : Bool
  deriving DecidableEq, Repr, Inhabited

/-- The state of a way of a DSC set (08 R300). -/
inductive WaySt where
  | empty | pending | ready
  deriving DecidableEq, Repr, Inhabited

/-- The tag of one way of a DSC set (08 R300). -/
structure Way where
  st : WaySt
  key : List DWord
  stamp : Nat
  deriving DecidableEq, Repr, Inhabited

/-- A set entry of a slice's DSC section (10 R355). -/
structure DscSet where
  part : Nat
  slice : Nat
  /-- The descriptor's address, and the set's number. -/
  desc : Nat
  set : Nat
  ways : List Way
  deriving DecidableEq, Repr, Inhabited

/-- The state of one partition's dispatcher (09 R321 to R331). -/
structure Part where
  /-- The octants it holds, kept while its release lasts (01 R27, R33). -/
  octs : List Nat
  queues : Tab (List LaunchRec)
  ptr : Nat
  credit : Nat
  lastOct : Nat
  galleys : Tab Galley
  runs : Tab GraphRun
  /-- The level of the partition's token bucket and its window of grants: matrix and all (09 R333). -/
  bucket : Nat
  window : List (Nat × Nat)
  mxhold : Bool
  /-- The cycle and SEQ of the halting event, its detail word, and what has stopped and written its record (14 R407, R411). -/
  haltAt : Nat
  haltSeq : Nat
  haltDet : DWord
  haltGrp : Option (Nat × DWord)
  /-- Units stopped with the cycle, and units whose record is written or given up. -/
  stopped : Tab Nat
  written : List Nat
  /-- The first context-fatal cause each unit raised, and the units whose self-test has failed (14 R411). -/
  causes : Tab Nat
  failed : List Nat
  /-- Teams and groups swapped or evicted, in the order they left (15 R450). -/
  left : List Nat
  /-- A release of the partition is in progress, and the cycle in which the clearing began (01 R33). -/
  releasing : Bool
  clearing : Option Nat
  /-- Kernel arrivals waiting: grids whose completion write waits on a translation (09 R320). -/
  comps : List (Nat × DWord)
  deriving DecidableEq, Repr, Inhabited

/-! ## Cores, translation, reports (03, 08, 15) -/

/-- What a matrix command has drawn from a ring (08 R276): the slots it holds popped, with the stream offset of each, and the
bytes of the stream up to the end of the last. -/
structure MxRing where
  slots : List (Nat × Nat)
  have_ : Nat
  deriving DecidableEq, Repr, Inhabited

/-- A command in the matrix queue (08 R272): its operation and RPROG. -/
structure MxCmd where
  op : Nat
  started : Bool
  rprog : Nat
  /-- The parameter block as fetched (08 R273). -/
  blk : List Byte
  /-- The tokens of the next pass are granted (09 R333). -/
  tok : Bool
  ra : MxRing
  rb : MxRing
  /-- The accumulators of the outputs formed so far, by row times 65536 plus column (08 R277). -/
  acc : Tab Nat := []
  /-- The command has raised a fault and goes no further. -/
  wait : Bool
  deriving DecidableEq, Repr, Inhabited

/-- One core (01 R22). -/
structure Core where
  /-- Data-cache lines by physical line number (03 R88): 128 bytes each. -/
  dc : Tab (List Byte)
  /-- Instruction-cache lines by physical line number (03 R89): 128 bytes each. -/
  ic : Tab (List Byte)
  /-- Emptying acquires whose value is not bound: no line is installed (03 R88). -/
  noInstall : List Nat
  /-- Slots of the side log in use: operation and lane (15 R435). -/
  slog : Tab (Nat × Nat)
  logSeq : Nat
  mq : List MxCmd
  /-- The stream counts of evicted groups (15 R446). -/
  evict : Tab (List Nat)
  /-- Extent tables by grid (09 R315). -/
  exts : Tab (List Extent)
  /-- The last group of each port with S = 1 and how many packets it has issued in a row (09 R332). -/
  stay : Tab (Nat × Nat)
  deriving DecidableEq, Repr, Inhabited

/-- The tag of a superblock in the LLC of its home slice (03 R86): the valid and the dirty lines. -/
structure LlcTag where
  valid : BitVec 4
  dirty : BitVec 4
  deriving DecidableEq, Repr, Inhabited

/-- A release whose bytes are the last written at a place of memory (03 R98): its scope code and who made it. The place is the kind of
memory, which one of them, and the address there. -/
structure RelMark where
  place : Nat × Nat × Nat
  len : Nat
  scope : Nat
  gid : Nat
  tid : Nat
  cid : Nat
  part : Nat
  deriving DecidableEq, Repr, Inhabited

/-- An octant of another device of the domain (03 R83): its partition scope, 0 for none, and its pieces of direct store. -/
structure PeerOct where
  scope : BitVec 16
  pieces : Nat
  deriving DecidableEq, Repr, Inhabited

/-- A last-level TLB entry, most recently used first (03 R77). -/
structure TlbEntry where
  part : Nat
  va : Nat
  lvl : Nat
  entry : DWord
  deriving DecidableEq, Repr, Inhabited

/-- What a translation used (03 R77, R86): an entry, which the TLB or the walkers keep, or a line of a table that the walkers of an octant
read at its home slice. -/
inductive Touch where
  | entry (t : TlbEntry)
  | line (oct pa : Nat)
  deriving DecidableEq, Repr, Inhabited

/-- The kind of an access (03 R110). -/
inductive AccKind where
  | read | write | atomic | fetch
  deriving DecidableEq, Repr, Inhabited

/-- Who waits on a translation report (15 R441): of a group, its fetch, slide or frame, or a load word of its packet. -/
inductive Waiter where
  | group (gid : Nat)
  | word (gid slot : Nat)
  | op (id : Nat)
  | lane (op lane : Nat)
  | logged (op acc : Nat)
  | ring (tid ring : Nat)
  | matrix (core : Nat)
  | cx (oct : Nat)
  | draw (id : Nat)
  | cle (draw oct : Nat)
  | grid (grid oct : Nat)
  | head (part q : Nat)
  | galley (part g : Nat)
  | graph (part run : Nat)
  deriving DecidableEq, Repr, Inhabited

/-- Where a report stands (15 R439). -/
inductive RepSt where
  | walk
  | record (oct n : Nat)
  | backoff (until_ delay : Nat)
  deriving DecidableEq, Repr, Inhabited

/-- A translation fault being reported (15 R439): one report of a page by a unit, on which every access that met it waits. -/
structure Report where
  part : Nat
  oct : Nat
  page : Nat
  va : Nat
  acc : AccKind
  lvl : Nat
  entry : DWord
  src : Nat
  unit : Nat
  who : List Waiter
  st : RepSt
  delay : Nat
  deriving DecidableEq, Repr, Inhabited

/-! ## Events, network, collective engine, management block (11, 14, 17) -/

/-- An event waiting at an arbiter (14 R415, R416); a held one waits until its queue is enabled (14 R426). -/
structure Event where
  held : Bool
  unit : Nat
  kind : Nat
  cause : Nat
  detail : DWord
  cyc : Nat
  /-- The core and GRPID of the group whose packet raised it (15 R443). -/
  grp : Option (Nat × DWord) := none
  deriving DecidableEq, Repr, Inhabited

/-- A self-test running on a structure (14 R402, R419). -/
structure SelfTest where
  queue : Nat
  unit : Nat
  struct_ : Nat
  corrected : Bool
  loc : DWord
  /-- The test follows a stop watchdog: the unit is treated as failing it (14 R412). -/
  late : Bool := false
  deriving DecidableEq, Repr, Inhabited

/-- The flits of an aborted packet that a receiver has still to discard (17 R471). -/
structure Abort where
  leaf : Nat
  part : Nat
  flits : Nat
  deriving DecidableEq, Repr, Inhabited

/-- The collective engine of an octant (11 R371, 17 R473): idle, waiting for its peers since a cycle, or with its
output written. -/
inductive CxSt where
  | idle
  | waiting (since : Nat)
  | written
  deriving DecidableEq, Repr, Inhabited

/-- The command a CX runs, its input, its own digest, and the digests it has received (11 R372, 17 R473). -/
structure Cx where
  st : CxSt
  slot : Nat
  cmd : List Byte
  own : Option Digest
  input : List Byte
  digests : List Digest
  /-- By rank: the input bytes its peers have sent; and how many of its own it has sent, and of the elements it has written out. -/
  got : Tab (List Byte)
  sent : Nat
  wrote : Nat
  /-- The TAIL values it was notified of and has not run up to, oldest first, each with HEAD as it was (11 R371). -/
  tails : List (Nat × Nat)
  /-- The CX has raised a fault and goes no further. -/
  dead : Bool
  deriving DecidableEq, Repr, Inhabited

/-- Power, flash and firmware (11 R375 to R378, 17 R476). -/
structure Power where
  /-- The 48 V supply is applied. -/
  on : Bool
  /-- 0: off or ROM; 1: firmware runs, links not trained; 2: bring-up step 2 complete (R378). -/
  stage : Nat
  flashA : List Byte
  flashB : List Byte
  leaf : Nat
  /-- The die has reached TLIM + 5 and has not fallen below TLIM since (17 R477). -/
  heat : Bool
  /-- The trip bits in the sideband flash: VTRIP, TTRIP, ITRIP. -/
  trip : BitVec 3
  fwhash : BitVec 256
  diet : BitVec 8
  imon : BitVec 16
  /-- Since when IMON has been read below 1,792, and since when each condition of a trip has held (17 R477). -/
  below : Option Nat
  since : Tab Nat
  /-- The quote in progress: partition and nonce (R376). -/
  quote : Option (Nat × List Byte)
  deriving DecidableEq, Repr, Inhabited

/-- What a lasting fault withdraws (14 R421): the unit, the upward network link of it, or the octant below a downward one. -/
inductive Lost where
  | unit | up | octant
  deriving DecidableEq, Repr, Inhabited

/-- Links and withdrawals outside the partitions' registers (14 R421, R424). -/
structure Links where
  /-- Working lanes of the Tvedli ports and the Coltur link, by unit number. -/
  lost : List (Nat × Nat)
  retrain : List (Nat × Nat)
  /-- Upward network links withdrawn (14 R421). -/
  upLost : List Nat
  /-- Octants withdrawn until device reset (14 R421). -/
  octLost : List Nat
  /-- Withdrawals that wait for the next release of a partition (14 R420): partition, unit, and what is withdrawn. -/
  later : List (Nat × Nat × Lost)
  /-- Aborted packets whose abort flit has not reached the receiver (17 R471). -/
  aborts : List Abort
  /-- The cycle since which a channel of a leaf, with credits out, has returned none (14 R404), by 32 times the leaf plus the channel. -/
  credit : Tab Nat
  /-- Flits of the device's other packets injected into a channel of a leaf and not yet taken by their receiver (11 R359, log 85). -/
  flight : Tab Nat
  /-- Words whose check has failed, by address divided by 8, and units of assigned octants with a failing structure (14 R403). -/
  badWords : List Nat
  badUnits : List Nat
  deriving DecidableEq, Repr, Inhabited

/-- The device. -/
structure Dev where
  /-- The device cycle count (07 R262). -/
  cyc : Nat
  /-- The next name of a record: the model's own. -/
  fresh : Nat
  /-- The registers of the management block by offset; an unlisted register holds its reset value. -/
  reg : Tab DWord
  pow : Power
  /-- Device memory and direct store by physical address (03 R81). -/
  mem : Memory
  host : Memory
  bar2 : Memory
  /-- The memory of the other devices of the domain, and their octants by 8 times the device plus the octant (03 R83). -/
  peers : Tab Memory
  peerOcts : Tab PeerOct
  /-- Stores the Coltur adapter has accepted and not yet written to the host, oldest first (03 R91). -/
  accepted : List (Nat × List (Nat × Byte))
  /-- The LLC's tags by superblock number (03 R86), and how many lines the caches have given up for room (log 66). -/
  llc : Tab LlcTag
  victims : Nat
  /-- The last write of these bytes was a release (03 R98). -/
  rels : List RelMark
  /-- Flits of the device's other packets that wait to be injected, by 32 times the leaf plus the channel: 0 to 7 request, 8 to 15
  response, 16 management (11 R357, R359; log 68). -/
  net : Tab Nat
  parts : Tab Part
  cores : Tab Core
  groups : Tab Group
  teams : Tab Team
  clusters : Tab Cluster
  grids : Tab Grid
  draws : Tab Draw
  tiles : Tab Tile
  dsc : Tab DscSet
  ops : Tab Op
  reports : Tab Report
  tlb : List TlbEntry
  /-- The walkers' copies of non-leaf entries (03 R77): the level is that of the entry. -/
  copies : List TlbEntry
  /-- Events at the nine arbiters, in each source's order (14 R416). -/
  events : Tab (List Event)
  /-- The number of the next event of each queue (14 R415). -/
  seqs : Tab Nat
  tests : List SelfTest
  links : Links
  cx : Tab Cx
  /-- The shared token bucket (09 R333). -/
  shared : Nat
  /-- Units that hold work that is not waiting, with the cycle since which they have made no step (14 R404). -/
  progress : Tab Nat
  /-- Acknowledgements of notices on their way: partition, team, barrier, bytes, operation (07 R255). -/
  acks : Tab (Nat × Nat × Nat × Nat)
  /-- MSI-X vectors the adapter has raised, with how often (11 R369). -/
  msix : Tab Nat
  /-- The value the management block returned to the last read (11 R487). -/
  readOut : DWord
  /-- What the device answered the last request of another device: none where it refused it (03 R83). -/
  reply : Option (List Byte)
  /-- The operations that a TLBINV in progress waits for: they used an entry it removed (03 R80). -/
  inval : List Nat
  deriving DecidableEq, Repr, Inhabited

/-! ## The packet in progress -/

/-- The latch of a word (05 R151): not filled, uniform, or one value per lane. -/
inductive Latch where
  | none
  | uni (x : DWord)
  | lanes (xs : List DWord)
  deriving DecidableEq, Repr, Inhabited

/-- A lane of a word that met a translation fault (03 R76): the faulting address, level and entry. -/
structure XFault where
  slot : Nat
  lane : Nat
  va : Nat
  acc : AccKind
  lvl : Nat
  entry : DWord
  deriving DecidableEq, Repr, Inhabited

/-- A context-fatal check that failed (16 R452, R455): cause, reason, lane and slot. -/
structure Fatal where
  cause : Nat
  reason : Nat
  lane : Nat
  slot : Nat
  deriving DecidableEq, Repr, Inhabited

/-- The packet a group is issuing (02 R41, 05 R153): every source is read from g0, the group as it stood before the packet;
results go to g, words in slot order. Empty between packets. -/
structure Packet where
  /-- The tick of the step, from which the packet's free values are drawn (log 2). -/
  seed : Nat
  gid : Nat
  /-- Index of the packet (R41). -/
  pc : Word
  act : Mask
  /-- Slot of the word being executed, and the literal of the packet. -/
  slot : Nat
  lit : Word
  g0 : Group
  g : Group
  latches : List Latch
  /-- The next PC of each lane (R41). -/
  nxt : List Word
  /-- Flags raised: slot, destination code, and for each of NV, DZ, OF, UF, NX the lanes that raised it (04 R124). -/
  flags : List (Nat × BitVec 6 × List Mask)
  trap : Option TrapReq
  slide : Option Slide
  park : Option Nat
  /-- The slot of the pbar of the packet. -/
  parkSlot : Nat := 0
  svc : List (BitVec 16)
  tret : Bool
  /-- The slot of a call, ret or tret of the packet. -/
  ctl : Nat
  yield : Bool
  /-- Operations to hand off, in slot order (05 R154). -/
  ops : List Op
  fatal : List Fatal
  xfaults : List XFault
  /-- What the packet's translations used, for the TLB and the LLC (03 R77, R86, R110). -/
  fills : List Touch
  deriving DecidableEq, Repr, Inhabited

/-- The machine: the turns to be taken next, the counter of the free values (log 1, log 2), the packet in progress and the
device. -/
structure State where
  agenda : List Turn
  tick : Nat
  cur : Packet
  dev : Dev
  deriving DecidableEq, Repr, Inhabited

/-! ## Reset -/

/-- The supply is off: only the sideband flash keeps state (11 R377), here an empty image and no leaf used (log 6). -/
def Power.reset : Power :=
  { on := false, stage := 0, flashA := [], flashB := [], leaf := 0, heat := false, trip := 0#3, fwhash := 0, diet := 0#8,
    imon := 0#16, below := none, since := [], quote := none }

/-- Every link works with all its lanes and nothing is withdrawn (14 R421, R424). -/
def Links.reset : Links :=
  { lost := [], retrain := [], upLost := [], octLost := [], later := [], aborts := [], credit := [], flight := [], badWords := [], badUnits := [] }

/-- The device after reset (00 R8): every register of the management block holds its reset value, the device cycle count is 0
(07 R262), no partition is assigned, and nothing is in progress. Memory reads as 0 (log 3); the token buckets are empty until
the first refill (log 12). -/
def Dev.reset : Dev :=
  { cyc := 0, fresh := 0, reg := [], pow := Power.reset, mem := [], host := [], bar2 := [], peers := [], peerOcts := [],
    accepted := [], llc := [], victims := 0, rels := [], net := [], parts := [], cores := [], groups := [], teams := [], clusters := [], grids := [], draws := [], tiles := [],
    dsc := [], ops := [], reports := [], tlb := [], copies := [], events := [], seqs := [], tests := [], links := Links.reset, cx := [], shared := 0,
    progress := [], acks := [], msix := [], readOut := 0, reply := none, inval := [] }

/-- A group record with nothing in it: what the packet in progress holds between packets. -/
def Group.none : Group :=
  { tid := 0, core := 0, rslot := 0, gintm := 0, gidx := 0, width := 0, pool := 0, place := .resident, v := [], s := [], k := [],
    lpc := [], held := 0, links := [], depth := 0, wb := 0, wl := 0, tvec := 0, tframe := 0, tcause := 0, tmask := 0,
    tslot := 0, tmcmp := 0, gcyc := 0, fps := 0, fpe := 0, rndkey := 0, spill := 0, cnt := [0, 0, 0, 0], handler := .none,
    bound := {}, gather := [], yieldEnd := .none, yieldLeft := [], pcSince := 0, tok := false, fpeAtIssue := 0,
    galley := .none, batch := [], helper := 0 }

/-- No packet is in progress. -/
def Packet.none : Packet :=
  { seed := 0, gid := 0, pc := 0, act := 0, slot := 0, lit := 0, g0 := Group.none, g := Group.none, latches := [], nxt := [],
    flags := [], trap := .none, slide := .none, park := .none, svc := [], tret := false, ctl := 0, yield := false, ops := [],
    fatal := [], xfaults := [], fills := [] }

/-- The machine right after reset: nothing is in progress, and the supply has not been applied yet (11 R375, R378). -/
def State.reset : State := { agenda := [], tick := 0, cur := Packet.none, dev := Dev.reset }

/-- Why the machine stops with a fault. -/
inductive Fault where
  /-- Raised by no instruction: a closed type needs a constructor. Safe: it is never reached. -/
  | none
  deriving DecidableEq, Repr, Inhabited

/-- Why an instruction has no meaning. -/
inductive Refusal where
  /-- Raised by an arm of exec that has no meaning yet, with its mnemonic. Safe: the machine stops. -/
  | notModelled (mnemonic : String)
  deriving DecidableEq, Repr, Inhabited

end Sys2Proof.Machine
end

