-- ==== Sys2Proof/Machine/Tab.lean ====
section
/-! DEFINITION. The operations of tables and of memory: one canonical form, kept by every write. -/

namespace Sys2Proof.Machine

/-! ## Tables -/

/-- The entry at a key. -/
def tget {α : Type} : Tab α → Nat → Option α
  | [], _ => none
  | (k, v) :: t, n => if k = n then some v else tget t n

/-- The entry at a key, or a default. -/
def tgetD {α : Type} (t : Tab α) (n : Nat) (d : α) : α := (tget t n).getD d

/-- The table with one entry set. -/
def tput {α : Type} : Tab α → Nat → α → Tab α
  | [], n, x => [(n, x)]
  | (k, v) :: t, n, x =>
    if n < k then (n, x) :: (k, v) :: t
    else if n = k then (n, x) :: t
    else (k, v) :: tput t n x

/-- The table without one key. -/
def tdel {α : Type} : Tab α → Nat → Tab α
  | [], _ => []
  | (k, v) :: t, n => if k = n then tdel t n else (k, v) :: tdel t n

/-- The table with one entry set, or removed when it equals the default. -/
def tputD {α : Type} [DecidableEq α] (t : Tab α) (n : Nat) (x d : α) : Tab α :=
  if x = d then tdel t n else tput t n x

/-- The table with one entry changed; unchanged where the key is not listed. -/
def tmod {α : Type} : Tab α → Nat → (α → α) → Tab α
  | [], _, _ => []
  | (k, v) :: t, n, f => if k = n then (k, f v) :: t else (k, v) :: tmod t n f

/-- The least key not below n that the table does not list, found within the table's length. -/
def tfree {α : Type} (t : Tab α) : Nat → Nat → Nat
  | 0, n => n
  | f + 1, n => if (tget t n).isSome then tfree t f (n + 1) else n

/-- The canonical form of a table: keys strictly rising. -/
def twf {α : Type} : Tab α → Bool
  | [] => true
  | [_] => true
  | (k, _) :: (k', v') :: t => decide (k < k') && twf ((k', v') :: t)

/-! ## Memory -/

/-- One byte of memory: 0 where nothing is listed (log 3). -/
def readByte (m : Memory) (a : Nat) : Byte := tgetD m a 0#8

/-- Memory with one byte written, in canonical form. -/
def writeByte (m : Memory) (a : Nat) (b : Byte) : Memory := tputD m a b 0#8

/-- The n bytes from an address upward. -/
def readBytes (m : Memory) (a : Nat) : Nat → List Byte
  | 0 => []
  | n + 1 => readByte m a :: readBytes m (a + 1) n

/-- Memory with a run of bytes written from an address upward. -/
def writeBytes (m : Memory) (a : Nat) : List Byte → Memory
  | [] => m
  | b :: bs => writeBytes (writeByte m a b) (a + 1) bs

/-- The canonical form of memory: addresses strictly rising and no listed byte 0. -/
def Memory.wf (m : Memory) : Bool := twf m && m.all (fun c => c.2 != 0#8)

/-- Memory with every byte from lo up to hi removed, which sets it to 0. -/
def zeroRange (m : Memory) (lo hi : Nat) : Memory := m.filter (fun c => !(decide (lo ≤ c.1) && decide (c.1 < hi)))

/-- The little-endian number of a run of bytes (00 R4). -/
def leNat : List Byte → Nat
  | [] => 0
  | b :: bs => b.toNat + 256 * leNat bs

/-- The n little-endian bytes of a number (00 R4). -/
def leBytes (x : Nat) : Nat → List Byte
  | 0 => []
  | n + 1 => BitVec.ofNat 8 x :: leBytes (x / 256) n

/-- A little-endian number of n bytes in memory. -/
def readNat (m : Memory) (a n : Nat) : Nat := leNat (readBytes m a n)

/-- Memory with the n little-endian bytes of a number written. -/
def writeNat (m : Memory) (a x n : Nat) : Memory := writeBytes m a (leBytes x n)

/-- Bits [lo + len - 1 : lo] of a number. -/
def bits (x lo len : Nat) : Nat := x / 2 ^ lo % 2 ^ len

/-- Bit i of a number. -/
def bit (x i : Nat) : Bool := bits x i 1 == 1

/-- A 64-bit word with bits [lo + len - 1 : lo] replaced. -/
def setBits (x : DWord) (lo len v : Nat) : DWord :=
  BitVec.ofNat 64 (x.toNat - bits x.toNat lo len * 2 ^ lo + v % 2 ^ len * 2 ^ lo)

/-- The signed value of a 64-bit word. -/
def sext64 (x : DWord) : Int := x.toInt

/-- A mask of the low n bits (02 R39). -/
def maskN (n : Nat) : Mask := BitVec.ofNat 64 (2 ^ n - 1)

/-- Bit l of a mask. -/
def mbit (m : Mask) (l : Nat) : Bool := m.getLsbD l

/-- The mask of the lanes below n that satisfy a predicate. -/
def maskOf (n : Nat) (p : Nat → Bool) : Mask :=
  BitVec.ofNat 64 ((List.range n).foldl (fun acc l => if p l then acc + 2 ^ l else acc) 0)

/-- The lanes of a mask, in ascending order. -/
def lanesOf (m : Mask) : List Nat := (List.range 64).filter (fun l => mbit m l)

/-- The lowest lane of a mask. -/
def lowLane (m : Mask) : Nat := (lanesOf m).headD 0

/-- A list with one entry replaced. -/
def lset {α : Type} : List α → Nat → α → List α
  | [], _, _ => []
  | _ :: t, 0, x => x :: t
  | y :: t, n + 1, x => y :: lset t n x

end Sys2Proof.Machine
end

