-- ==== Sys2Proof/Machine/Num.lean ====
section
/-! DEFINITION. Numbers and arithmetic (04): the formats, the one rounding helper rnd, the exact operations, the special
functions, the architected draw and the exact accumulators. -/

namespace Sys2Proof.Machine

/-! ## Formats and exact values -/

/-- An exact value (R116): a NaN, an infinity or a zero with its sign, or n / d × 2^e with n not 0. -/
inductive XVal where
  | nan (signalling : Bool)
  | inf (neg : Bool)
  | zero (neg : Bool)
  | fin (n : Int) (d : Nat) (e : Int)
  deriving DecidableEq, Repr, Inhabited

/-- A floating-point format (R112): widths of the pattern and mantissa, exponent of the smallest normal, and the greatest
finite pattern. -/
structure Fmt where
  w : Nat
  m : Nat
  emin : Int
  maxFin : Nat
  deriving DecidableEq, Repr, Inhabited

/-- The formats of R112. FC code 7 is reserved and never reaches an operation. -/
def fmtOf : FC → Fmt
  | .fp32 => ⟨32, 23, -126, 0x7F7FFFFF⟩
  | .fp64 => ⟨64, 52, -1022, 0x7FEFFFFFFFFFFFFF⟩
  | .fp16 => ⟨16, 10, -14, 0x7BFF⟩
  | .bf16 => ⟨16, 7, -126, 0x7F7F⟩
  | .e5m2 => ⟨8, 2, -14, 0x7B⟩
  | .e4m3 => ⟨8, 3, -6, 0x7E⟩
  | .e2m1 => ⟨4, 1, 0, 0x7⟩
  | .rsv7 => ⟨4, 1, 0, 0x7⟩

end Sys2Proof.Machine

namespace Sys2Proof

/-- FS names a format (R201). -/
def FS.fc : FS → FC
  | .s => .fp32 | .d => .fp64 | .h2 => .fp16 | .b2 => .bf16

end Sys2Proof

namespace Sys2Proof.Machine

/-- The exponent field of infinity and NaN: every format of R113. -/
def hasInf : FC → Bool
  | .e4m3 => false | .e2m1 => false | .rsv7 => false | _ => true

/-- The pattern of +infinity. -/
def infPat (f : FC) : Nat := (fmtOf f).maxFin + 1
/-- The canonical NaN (R112). -/
def nanPat (f : FC) : Nat :=
  match f with
  | .e4m3 => 0x7F
  | .e2m1 => 0
  | .rsv7 => 0
  | f => infPat f + 2 ^ ((fmtOf f).m - 1)
/-- The sign bit as a number. -/
def signPat (f : FC) (neg : Bool) : Nat := if neg then 2 ^ ((fmtOf f).w - 1) else 0

/-- The flags a result raises, as bits [4:0] of FPS (02 R67): NX UF OF DZ NV. -/
abbrev Flags := BitVec 5
def fNV : Flags := 1#5
def fDZ : Flags := 2#5
def fOF : Flags := 4#5
def fUF : Flags := 8#5
def fNX : Flags := 16#5

/-- The value of a pattern (R113, R114). -/
def unpack (f : FC) (x : Nat) : XVal :=
  let p := fmtOf f
  let neg := bit x (p.w - 1)
  let y := x % 2 ^ (p.w - 1)
  let m := y % 2 ^ p.m
  let e := y / 2 ^ p.m
  if hasInf f && decide (infPat f ≤ y) then
    (if m = 0 then .inf neg else .nan (!bit x (p.m - 1)))
  else if f == .e4m3 && y == 0x7F then .nan false
  else if y = 0 then .zero neg
  else
    let s : Int := if neg then -1 else 1
    if e = 0 then .fin (s * m) 1 (p.emin - p.m)
    else .fin (s * (2 ^ p.m + m : Nat)) 1 (p.emin + e - 1 - p.m)

/-- 2^k for a non-negative integer k, 1 otherwise. -/
def pow2 (k : Int) : Nat := 2 ^ k.toNat

/-- floor(log2 (n / d)) for positive n and d. -/
def floorLog2 (n d : Nat) : Int :=
  let k : Int := (Nat.log2 n : Int) - (Nat.log2 d : Int)
  if n * pow2 (-k) ≥ d * pow2 k then k else k - 1

/-- Whether a value with fraction r / den above the integer n rounds up (R119). -/
def roundsUp (rm : RM) (neg : Bool) (n r den d : Nat) : Bool :=
  match rm with
  | .rne => decide (den < 2 * r) || (2 * r == den && n % 2 == 1)
  | .rna => decide (den ≤ 2 * r)
  | .rtz => false
  | .rup => decide (0 < r) && !neg
  | .rdn => decide (0 < r) && neg
  | .sr => decide (2 ^ 16 ≤ r * 2 ^ 16 / den + d)
  | .rsv6 => false
  | .rsv7 => false

/-- The result of an overflow (R120). -/
def overflowTo (f : FC) (rm : RM) (neg : Bool) : Nat :=
  let big := (fmtOf f).maxFin
  let toInf := match rm with
    | .rtz => false
    | .rup => !neg
    | .rdn => neg
    | _ => true
  signPat f neg + (if hasInf f && toInf then infPat f else big)

/-- rnd of R119: the pattern and the flags. -/
def rnd (x : XVal) (f : FC) (rm : RM) (d : Nat) : Nat × Flags :=
  let p := fmtOf f
  match x with
  | .nan _ => if hasInf f || f == .e4m3 then (nanPat f, 0) else (0, fNV)
  | .inf neg =>
    if hasInf f then (signPat f neg + infPat f, 0)
    else if f == .e4m3 then (0x7F, fNV)
    else (signPat f neg + p.maxFin, fNV)
  | .zero neg => (signPat f neg, 0)
  | .fin n dn e =>
    let neg := decide (n < 0)
    let a := n.natAbs
    let lg := floorLog2 a dn + e
    let ex := if lg < p.emin then p.emin else lg
    let s := e - (ex - p.m)
    let num := a * pow2 s
    let den := dn * pow2 (-s)
    let q := num / den
    let r := num % den
    let up := roundsUp rm neg q r den d
    let pat := (ex - p.emin).toNat * 2 ^ p.m + q + (if up then 1 else 0)
    let fl := (if r = 0 then 0 else fNX ||| (if lg < p.emin then fUF else 0))
    if p.maxFin < pat then (overflowTo f rm neg, fl ||| fOF ||| fNX)
    else (signPat f neg + pat, fl)

/-! ## Exact operations -/

/-- The value is a signalling NaN. -/
def XVal.isSnan : XVal → Bool
  | .nan b => b
  | _ => false
/-- The value is a NaN. -/
def XVal.isNan : XVal → Bool
  | .nan _ => true
  | _ => false
/-- The sign of a value. -/
def XVal.isNeg : XVal → Bool
  | .nan _ => false
  | .inf b => b
  | .zero b => b
  | .fin n _ _ => decide (n < 0)
/-- The exact value is 0. -/
def XVal.isZero : XVal → Bool
  | .zero _ => true
  | _ => false
/-- The value is finite. -/
def XVal.isFin : XVal → Bool
  | .zero _ => true
  | .fin _ _ _ => true
  | _ => false
/-- An exact quotient as a value: zero takes the given sign. -/
def mkFin (n : Int) (d : Nat) (e : Int) (negZero : Bool) : XVal :=
  if n = 0 then .zero negZero else .fin n d e
/-- The value with its sign turned. -/
def XVal.neg : XVal → XVal
  | .nan b => .nan b
  | .inf b => .inf !b
  | .zero b => .zero !b
  | .fin n d e => .fin (-n) d e
/-- NV of a signalling NaN operand (R117). -/
def snanFlag (xs : List XVal) : Flags := if xs.any XVal.isSnan then fNV else 0

/-- The exact sum of two finite values. -/
def finAdd (n1 : Int) (d1 : Nat) (e1 : Int) (n2 : Int) (d2 : Nat) (e2 : Int) (negZero : Bool) : XVal :=
  let e := if e1 ≤ e2 then e1 else e2
  mkFin (n1 * pow2 (e1 - e) * d2 + n2 * pow2 (e2 - e) * d1) (d1 * d2) e negZero

/-- a + b, with the sign of an exact zero under the mode (R119) and the flags of R124. -/
def xAdd (rm : RM) (a b : XVal) : XVal × Flags :=
  match a, b with
  | .nan _, _ => (.nan false, snanFlag [a, b])
  | _, .nan _ => (.nan false, snanFlag [a, b])
  | .inf x, .inf y => if x = y then (.inf x, 0) else (.nan false, fNV)
  | .inf x, _ => (.inf x, 0)
  | _, .inf y => (.inf y, 0)
  | .zero x, .zero y => (.zero (if x = y then x else rm == .rdn), 0)
  | .zero _, .fin n d e => (.fin n d e, 0)
  | .fin n d e, .zero _ => (.fin n d e, 0)
  | .fin n1 d1 e1, .fin n2 d2 e2 => (finAdd n1 d1 e1 n2 d2 e2 (rm == .rdn), 0)

/-- a × b with its flags (R201). -/
def xMul (a b : XVal) : XVal × Flags :=
  let neg := xor a.isNeg b.isNeg
  match a, b with
  | .nan _, _ => (.nan false, snanFlag [a, b])
  | _, .nan _ => (.nan false, snanFlag [a, b])
  | .inf _, .zero _ => (.nan false, fNV)
  | .zero _, .inf _ => (.nan false, fNV)
  | .inf _, _ => (.inf neg, 0)
  | _, .inf _ => (.inf neg, 0)
  | .zero _, _ => (.zero neg, 0)
  | _, .zero _ => (.zero neg, 0)
  | .fin n1 d1 e1, .fin n2 d2 e2 => (.fin (n1 * n2) (d1 * d2) (e1 + e2), 0)

/-- a / b with its flags (R201, R124). -/
def xDiv (a b : XVal) : XVal × Flags :=
  let neg := xor a.isNeg b.isNeg
  match a, b with
  | .nan _, _ => (.nan false, snanFlag [a, b])
  | _, .nan _ => (.nan false, snanFlag [a, b])
  | .inf _, .inf _ => (.nan false, fNV)
  | .zero _, .zero _ => (.nan false, fNV)
  | .inf _, _ => (.inf neg, 0)
  | _, .inf _ => (.zero neg, 0)
  | .zero _, _ => (.zero neg, 0)
  | _, .zero _ => (.inf neg, fDZ)
  | .fin n1 d1 e1, .fin n2 d2 e2 =>
    (.fin ((if neg then -1 else 1) * (n1.natAbs * d2 : Nat)) (d1 * n2.natAbs) (e1 - e2), 0)

/-- floor(√n) by binary digits: k is the number of digits still to find. -/
def isqrtGo (n : Nat) : Nat → Nat → Nat
  | 0, s => s
  | k + 1, s => let t := s + 2 ^ k
    isqrtGo n k (if t * t ≤ n then t else s)

/-- floor(√n). -/
def isqrt (n : Nat) : Nat := isqrtGo n (Nat.log2 n / 2 + 1) 0

/-- √(n / d × 2^e) for positive n and d: exact, or a value between the same two multiples of a unit far below every
format's last place, so that rnd rounds it as it rounds the root. -/
def rootFin (n d : Nat) (e : Int) : XVal :=
  let odd := e % 2
  let n1 := n * pow2 odd
  let k := 160 + Nat.log2 d
  let y := n1 * 4 ^ k
  let s := isqrt (y / d)
  let ex := (e - odd) / 2 - k
  if s * s * d = y then .fin s 1 ex else .fin (2 * s + 1 : Nat) 1 (ex - 1)

/-- √a with its flags (R201, R126). -/
def xSqrt (a : XVal) : XVal × Flags :=
  match a with
  | .nan b => (.nan false, if b then fNV else 0)
  | .inf neg => if neg then (.nan false, fNV) else (.inf false, 0)
  | .zero neg => (.zero neg, 0)
  | .fin n d e => if n < 0 then (.nan false, fNV) else (rootFin n.natAbs d e, 0)

/-- Comparison of two values that are not NaN; -0 equals +0 (R205). -/
def xLt (a b : XVal) : Bool :=
  match a, b with
  | .inf x, .inf y => x && !y
  | .inf x, _ => x
  | _, .inf y => !y
  | .zero _, .zero _ => false
  | .zero _, .fin n _ _ => decide (0 < n)
  | .fin n _ _, .zero _ => decide (n < 0)
  | .fin n1 d1 e1, .fin n2 d2 e2 =>
    let e := if e1 ≤ e2 then e1 else e2
    decide (n1 * pow2 (e1 - e) * d2 < n2 * pow2 (e2 - e) * d1)
  | _, _ => false

/-- Order with -0 below +0 (R123). -/
def xLtSigned (a b : XVal) : Bool :=
  match a, b with
  | .zero x, .zero y => x && !y
  | a, b => xLt a b

/-- fmin (max = false) or fmax of two patterns of one format (R123). -/
def fminmax (f : FC) (max : Bool) (x y : Nat) : Nat × Flags :=
  let a := unpack f x
  let b := unpack f y
  let fl := snanFlag [a, b]
  if a.isNan && b.isNan then (nanPat f, fl)
  else if a.isNan then (y, fl)
  else if b.isNan then (x, fl)
  else if max then (if xLtSigned a b then y else x, fl)
  else (if xLtSigned b a then y else x, fl)

/-- floor(x) of a finite value as an integer, and whether a fraction was dropped. -/
def finFloor (n : Int) (d : Nat) (e : Int) : Int × Bool :=
  let num := n * pow2 e
  let den : Int := d * pow2 (-e)
  (num / den, num % den ≠ 0)

/-- The integer nearest a finite value under a mode (R122), and whether it differs from the value. -/
def roundInt (n : Int) (d : Nat) (e : Int) (rm : RM) : Int × Bool :=
  let a := n.natAbs * pow2 e
  let den := d * pow2 (-e)
  let neg := decide (n < 0)
  let q := a / den
  let r := a % den
  let m := q + (if roundsUp rm neg q r den 0 then 1 else 0)
  ((if neg then -(m : Int) else m), r ≠ 0)

/-- An integer as an exact value; 0 is +0. -/
def ofInt (n : Int) : XVal := mkFin n 1 0 false

/-! ## Special functions (R127, R128): fixed point with P fractional bits -/

/-- 2^P times a sum of terms t_k, each formed from the one before: used by every series below. -/
def series (step : Nat → Int → Int) (weigh : Nat → Int → Int) : Nat → Nat → Int → Int → Int
  | 0, _, _, acc => acc
  | n + 1, k, t, acc => series step weigh n (k + 1) (step k t) (acc + weigh k t)

/-- 2^P × e^(t / 2^P) for |t| at most 2^(P+1), to within 2^10 units. -/
def expFix (P : Nat) (t : Int) : Int :=
  series (fun k x => x * t / (2 ^ P * (k + 1) : Nat)) (fun _ x => x) (P / 2 + 64) 0 (2 ^ P : Nat) 0

/-- 2^P × atanh(z / 2^P) for |z| at most 2^P / 3, to within 2^10 units. -/
def atanhFix (P : Nat) (z : Int) : Int :=
  let z2 := z * z / (2 ^ P : Nat)
  series (fun _ x => x * z2 / (2 ^ P : Nat)) (fun k x => x / (2 * k + 1 : Nat)) (P / 3 + 16) 0 z 0

/-- 2^P × ln 2. -/
def ln2Fix (P : Nat) : Int := 2 * atanhFix P ((2 ^ P : Nat) / (3 : Int))

/-- 2^P × atan(1 / q) for q at least 5. -/
def atanInv (P q : Nat) : Int :=
  series (fun _ x => -x / (q * q : Nat)) (fun k x => x / (2 * k + 1 : Nat)) (P / 4 + 16) 0 ((2 ^ P / q : Nat) : Int) 0

/-- 2^P × π, by Machin's sum. -/
def piFix (P : Nat) : Int := 16 * atanInv P 5 - 4 * atanInv P 239

/-- 2^P × sin or cos of t / 2^P for |t| at most 2^(P+1). -/
def sincosFix (P : Nat) (cosine : Bool) (t : Int) : Int :=
  let t2 := t * t / (2 ^ P : Nat)
  let o := if cosine then 0 else 1
  series (fun k x => -(x * t2 / (2 ^ P * ((2 * k + 1 + o) * (2 * k + 2 + o)) : Nat))) (fun _ x => x)
    (P / 4 + 32) 0 (if cosine then (2 ^ P : Nat) else t) 0

/-- 2^P × erf(x / 2^P) for |x| at most 8 × 2^P, to within 2^140 units. -/
def erfFix (P : Nat) (x : Int) : Int :=
  let x2 := x * x / (2 ^ P : Nat)
  let sum := series (fun k y => -(y * x2 / (2 ^ P * (k + 1) : Nat))) (fun k y => y / (2 * k + 1 : Nat)) (P + 400) 0 x 0
  let rootPi : Int := (isqrt ((piFix P).toNat * 2 ^ P) : Nat)
  2 * sum * (2 ^ P : Nat) / rootPi

/-- A finite value times 2^P, rounded down. -/
def toFix (P : Nat) (n : Int) (d : Nat) (e : Int) : Int := (finFloor n d (e + P)).1

/-- An interval result: centre × 2^e with its error in units, rounded when both ends round alike. -/
def rndWithin (f : FC) (c err : Int) (e : Int) : Option (Nat × Flags) :=
  let lo := rnd (mkFin (c - err) 1 e false) f .rne 0
  let hi := rnd (mkFin (c + err) 1 e false) f .rne 0
  if lo = hi then some lo else none

/-- A special function at a finite non-zero argument whose value is not a fixed result, as a centre, an error and an
exponent, computed with P fractional bits; an argument so large or so small that the value lies within less than one
rounding step of a known one gives a centre on the right side of it. -/
def sfFix (P : Nat) (fn : SFn) (n : Int) (d : Nat) (e : Int) : Int × Int × Int :=
  let one : Int := (2 ^ P : Nat)
  let x := toFix P n d e
  let big := floorLog2 n.natAbs d + e
  let neg := decide (n < 0)
  let s : Int := if neg then -1 else 1
  let err : Int := (2 ^ 160 : Nat)
  match fn with
  | .exp2 =>
    if big ≥ 12 then (1, 0, if neg then -3000 else 3000)
    else
      let i := x / one
      (expFix P ((x - i * one) * ln2Fix P / one), err, i - P)
  | .log2 =>
    let a := n.natAbs
    let m := toFix P a d (e - big)
    let z := (m - one) * one / (m + one)
    (big * one + 2 * atanhFix P z * one / ln2Fix P, err, -P)
  | .sinpi =>
    let r := x % (2 * one)
    let sg : Int := if r ≥ one then -1 else 1
    let r1 := r % one
    let r2 := if 2 * r1 > one then one - r1 else r1
    (sg * sincosFix P false (r2 * piFix P / one), err, -P)
  | .cospi =>
    let r := x % (2 * one)
    let r1 := if r > one then 2 * one - r else r
    if 2 * r1 > one then (-(sincosFix P true ((one - r1) * piFix P / one)), err, -P)
    else (sincosFix P true (r1 * piFix P / one), err, -P)
  | .tanh =>
    if big ≥ 6 then (s * (one - 2 ^ (P - 90)), 0, -P)
    else
      let y := 2 * x
      let l2 := ln2Fix P
      let i := y * one / l2 / one
      let ey := expFix P (y - i * l2)
      let num := ey * pow2 i - one * pow2 (-i)
      let den := ey * pow2 i + one * pow2 (-i)
      (num * one / den, err, -P)
  | .sigm =>
    if big ≥ 8 then (if neg then (1, 0, -300) else (one - 2 ^ (P - 90), 0, -P))
    else
      let l2 := ln2Fix P
      let i := x * one / l2 / one
      let ey := expFix P (x - i * l2) * pow2 i
      let den := ey + one * pow2 (-i)
      (ey * (one * pow2 400) / den, err * pow2 400 / pow2 100, -P - 400)
  | .erf =>
    if big ≥ 3 then (s * (one - 2 ^ (P - 60)), 0, -P)
    else (erfFix P x, err, -P)
  | .rcp => (0, 0, 0)
  | .rsq => (0, 0, 0)
  | .sqrt => (0, 0, 0)

/-- The value of a special function at a finite non-zero argument, rounded once to nearest even (R127). -/
def sfApply (f : FC) (fn : SFn) (n : Int) (d : Nat) (e : Int) : Nat × Flags :=
  let a := sfFix 1024 fn n d e
  match rndWithin f a.1 a.2.1 a.2.2 with
  | some r => r
  | none =>
    let b := sfFix 2048 fn n d e
    (rndWithin f b.1 b.2.1 b.2.2).getD (rnd (mkFin b.1 1 b.2.2 false) f .rne 0)

/-- An exact result through rnd, with the flags of the operation. -/
def rndFl (x : XVal × Flags) (f : FC) (rm : RM) : Nat × Flags :=
  let r := rnd x.1 f rm 0
  (r.1, r.2 ||| x.2)

/-- The value is an integer. -/
def isInteger (n : Int) (d : Nat) (e : Int) : Bool := !(finFloor n d e).2

/-- sf.fn at one argument (R127, R128). -/
def sfn (f : FC) (fn : SFn) (x : XVal) : Nat × Flags :=
  let one : XVal := .fin 1 1 0
  match x with
  | .nan b => (nanPat f, if b then fNV else 0)
  | .inf neg =>
    match fn with
    | .exp2 => if neg then rnd (.zero false) f .rne 0 else rnd (.inf false) f .rne 0
    | .log2 => if neg then (nanPat f, fNV) else rnd (.inf false) f .rne 0
    | .rcp => rnd (.zero neg) f .rne 0
    | .rsq => if neg then (nanPat f, fNV) else rnd (.zero false) f .rne 0
    | .sqrt => if neg then (nanPat f, fNV) else rnd (.inf false) f .rne 0
    | .sinpi => (nanPat f, fNV)
    | .cospi => (nanPat f, fNV)
    | .tanh => rnd (.fin (if neg then -1 else 1) 1 0) f .rne 0
    | .sigm => if neg then rnd (.zero false) f .rne 0 else rnd one f .rne 0
    | .erf => rnd (.fin (if neg then -1 else 1) 1 0) f .rne 0
  | .zero neg =>
    match fn with
    | .exp2 => rnd one f .rne 0
    | .log2 => rndFl (.inf true, fDZ) f .rne
    | .rcp => rndFl (.inf neg, fDZ) f .rne
    | .rsq => rndFl (.inf neg, fDZ) f .rne
    | .sqrt => rnd (.zero neg) f .rne 0
    | .sinpi => rnd (.zero neg) f .rne 0
    | .cospi => rnd one f .rne 0
    | .tanh => rnd (.zero neg) f .rne 0
    | .sigm => rnd (.fin 1 2 0) f .rne 0
    | .erf => rnd (.zero neg) f .rne 0
  | .fin n d e =>
    let neg := decide (n < 0)
    let two := e + 1
    match fn with
    | .exp2 =>
      if isInteger n d e then
        (let k := (finFloor n d e).1
         if k > 3000 then rnd (.fin 1 1 3000) f .rne 0
         else if k < -3000 then rnd (.fin 1 1 (-3000)) f .rne 0
         else rnd (.fin 1 1 k) f .rne 0)
      else sfApply f .exp2 n d e
    | .log2 =>
      if neg then (nanPat f, fNV)
      else
        let k := floorLog2 n.natAbs d + e
        if n * pow2 (e - k) = d * pow2 (k - e) then rnd (ofInt k) f .rne 0 else sfApply f .log2 n d e
    | .rcp => rndFl (xDiv one x) f .rne
    | .rsq => if neg then (nanPat f, fNV) else rnd (rootFin d n.natAbs (-e)) f .rne 0
    | .sqrt => rndFl (xSqrt x) f .rne
    | .sinpi =>
      if isInteger n d e then rnd (.zero neg) f .rne 0
      else if isInteger n d two then
        (let h := (finFloor n d two).1
         rnd (.fin (if (h - 1) / 2 % 2 = 0 then 1 else -1) 1 0) f .rne 0)
      else sfApply f .sinpi n d e
    | .cospi =>
      if isInteger n d e then rnd (.fin (if (finFloor n d e).1 % 2 = 0 then 1 else -1) 1 0) f .rne 0
      else if isInteger n d two then rnd (.zero false) f .rne 0
      else sfApply f .cospi n d e
    | .tanh => sfApply f .tanh n d e
    | .sigm => sfApply f .sigm n d e
    | .erf => sfApply f .erf n d e

/-! ## The architected draw (R142) -/

/-- draw(key, counter). -/
def draw (key counter : DWord) : Word :=
  let x := counter ^^^ key
  let x := (x ^^^ (x >>> 31)) * 0x9C4F2B1E6D83A5C7#64
  let x := (x ^^^ (x >>> 27)) * 0xE35A71D90B468F2B#64
  let x := x ^^^ (x >>> 33)
  x.extractLsb' 32 32

/-- draw_u(key, counter) as an exact value. -/
def drawU (key counter : DWord) : XVal := mkFin ((draw key counter).toNat / 256 : Nat) 1 (-24) false

/-- draw16(key, counter). -/
def draw16 (key counter : DWord) : Nat := (draw key counter).toNat / 2 ^ 16

/-! ## Exact accumulators (R135 to R139) -/

/-- The size of an EXA record and of its value, and the weight of bit 0 (R135, R136). -/
structure ExaKind where
  size : Nat
  vbits : Nat
  f : Nat
  deriving DecidableEq, Repr, Inhabited

/-- EXA32 (R135). -/
def exa32 : ExaKind := ⟨64, 384, 160⟩
/-- EXA64 (R136). -/
def exa64 : ExaKind := ⟨288, 2240, 1088⟩

/-- The flag word of a record: its offset follows the value words (R137). -/
def exaFlagOff (k : ExaKind) : Nat := k.vbits / 8

/-- The extended value G as a number below 2^g (R137). -/
def exaG (k : ExaKind) (rec : List Byte) : Nat :=
  leNat (rec.take (exaFlagOff k)) + leNat ((rec.drop (exaFlagOff k + 4)).take 4) * 2 ^ k.vbits

/-- A record with G and the OR of its flags with the given NAN, PINF, NINF bits; OV follows from G (R138). -/
def exaPut (k : ExaKind) (rec : List Byte) (g : Nat) (fl : Nat) : List Byte :=
  let gx := g / 2 ^ k.vbits
  let v := g % 2 ^ k.vbits
  let top := bit v (k.vbits - 1)
  let inRange := (gx == 0 && !top) || (gx == 2 ^ 32 - 1 && top)
  let old := leNat ((rec.drop (exaFlagOff k)).take 4)
  let fw := old / 16 * 16 + (if inRange then 0 else 8) + ((old % 8) ||| fl)
  leBytes v (exaFlagOff k) ++ leBytes fw 4 ++ leBytes gx 4 ++ rec.drop (exaFlagOff k + 8)

/-- exa_add of R138. -/
def exaAdd (k : ExaKind) (rec : List Byte) (x : XVal) : List Byte :=
  let g := exaG k rec
  let m := 2 ^ (k.vbits + 32)
  match x with
  | .nan _ => exaPut k rec g 1
  | .inf neg => exaPut k rec g (if neg then 4 else 2)
  | .zero _ => exaPut k rec g 0
  | .fin n d e => exaPut k rec (((g : Int) + (finFloor n d (e + k.f)).1) % (m : Nat)).toNat 0

/-- exa_merge of R138. -/
def exaMerge (k : ExaKind) (rec other : List Byte) : List Byte :=
  exaPut k rec ((exaG k rec + exaG k other) % 2 ^ (k.vbits + 32)) (leNat ((other.drop (exaFlagOff k)).take 4) % 8)

/-- exa_round of R139. -/
def exaRound (k : ExaKind) (rec : List Byte) (f : FC) : Nat × Flags :=
  let fw := leNat ((rec.drop (exaFlagOff k)).take 4)
  let g := exaG k rec
  let m := 2 ^ (k.vbits + 32)
  let gi : Int := if 2 * g ≥ m then (g : Int) - m else g
  if bit fw 0 then (nanPat f, 0)
  else if bit fw 1 && bit fw 2 then (nanPat f, fNV)
  else if bit fw 1 then rnd (.inf false) f .rne 0
  else if bit fw 2 then rnd (.inf true) f .rne 0
  else if bit fw 3 then (nanPat f, fNV)
  else rnd (mkFin gi 1 (-(k.f : Int)) false) f .rne 0

end Sys2Proof.Machine
end

