-- ==== Sys2Proof/Machine/Operands.lean ====
section
/-! DEFINITION. The operand forms (05 R147 to R151): reading a source of the packet in progress, and writing a result to a
register and to the latch of its word. -/

namespace Sys2Proof.Machine

/-! ## Registers of a group (02 R39, R45) -/

/-- Where lane l of window register n stands in the pool (R45). -/
def vKey (g : Group) (n l : Nat) : Nat := (g.wb + n) % g.pool * 64 + l
/-- Lane l of window register n. -/
def readV (g : Group) (n l : Nat) : Word := tgetD g.v (vKey g n l) 0#32
/-- The group with lane l of window register n written. -/
def writeV (g : Group) (n l : Nat) (x : Word) : Group := { g with v := tputD g.v (vKey g n l) x 0#32 }
/-- Uniform register n. -/
def readS (g : Group) (n : Nat) : DWord := tgetD g.s n 0#64
/-- The group with uniform register n written. -/
def writeS (g : Group) (n : Nat) (x : DWord) : Group := { g with s := tputD g.s n x 0#64 }
/-- Mask register n: k0 reads as all ones in the group's width (R39). -/
def readK (g : Group) (n : Nat) : Mask := if n = 0 then maskN g.width else tgetD g.k n 0#64
/-- The group with mask register n written: a write to k0, and bits at or above the width, are discarded (R39). -/
def writeK (g : Group) (n : Nat) (m : Mask) : Group :=
  if n = 0 then g else { g with k := tputD g.k n (m &&& maskN g.width) 0#64 }
/-- The even-odd pair at window register n as 64 bits (R39). -/
def readPair (g : Group) (n l : Nat) : DWord := readV g (n + 1) l ++ readV g n l
/-- The group with the pair at window register n written. -/
def writePair (g : Group) (n l : Nat) (x : DWord) : Group :=
  writeV (writeV g n l (x.setWidth 32)) (n + 1) l (x.extractLsb' 32 32)

/-! ## Sources (R147, R148) -/

/-- The value of a latch for a lane (R151). -/
def latchAt (c : Packet) (j l : Nat) : DWord :=
  match c.latches.getD j .none with
  | .none => 0
  | .uni x => x
  | .lanes xs => xs.getD l 0#64

/-- A source operand as lane l reads it, at 32 or 64 bits; every register is read as it stood before the packet (R153). -/
def readOp (c : Packet) (wide : Bool) (o : Operand) (l : Nat) : DWord :=
  match o with
  | .v n => if wide then readPair c.g0 n.val l else (readV c.g0 n.val l).setWidth 64
  | .s n => if wide then readS c.g0 n.val else ((readS c.g0 n.val).setWidth 32).setWidth 64
  | .b j => if wide then latchAt c j.val l else ((latchAt c j.val l).setWidth 32).setWidth 64
  | .zero => 0
  | .lane => BitVec.ofNat 64 l
  | .lit => if wide then c.lit.signExtend 64 else c.lit.setWidth 64
  | .rsv59 => 0
  | .rsv63 => 0

/-- The lowest lane of the active set, which reads a uniform operand (06 R184). -/
def lf (c : Packet) : Nat := lowLane c.act
/-- A uniform operand, read once (R149). -/
def readUni (c : Packet) (wide : Bool) (o : Operand) : DWord := readOp c wide o (lf c)

/-! ## Results (06 R184, R185; R150, R151) -/

/-- The packet with the latch of the word in hand filled. -/
def setLatch (c : Packet) (x : Latch) : Packet := { c with latches := lset c.latches c.slot x }

/-- Lane l of a v destination written at its width. -/
def writeLane (g : Group) (wide : Bool) (n l : Nat) (x : DWord) : Group :=
  if wide then writePair g n l x else writeV g n l (x.setWidth 32)

/-- Every lane of a list written. -/
def writeLanes (g : Group) (wide : Bool) (n : Nat) (f : Nat → DWord) (ls : List Nat) : Group :=
  ls.foldl (fun g l => writeLane g wide n l (f l)) g

/-- The values of the lanes below the width that a list names. The latch element of any other lane is a value the spec does
not state: a free value (R151, log 2). -/
def laneList (c : Packet) (ls : List Nat) (f : Nat → DWord) : List DWord :=
  (List.range c.g0.width).map (fun l => if ls.contains l then f l else Config.freeWord (c.seed * 2 ^ 16 + c.slot * 64 + l))

/-- A result at its width: a 32-bit one is zero-extended (R185). -/
def atWidth (wide : Bool) (x : DWord) : DWord := if wide then x else (x.setWidth 32).setWidth 64

/-- A per-lane result: to the s register once, or to every lane of the list (R184). -/
def putLanes (c : Packet) (d : Operand) (w wide : Bool) (ls : List Nat) (f : Nat → DWord) : Packet :=
  match d with
  | .s n =>
    let r := atWidth wide (f (lf c))
    let c := setLatch c (.uni r)
    if w then c else { c with g := writeS c.g n.val r }
  | .v n =>
    let c := setLatch c (.lanes (laneList c ls (fun l => atWidth wide (f l))))
    if w then c else { c with g := writeLanes c.g wide n.val f ls }
  | _ => setLatch c (.lanes (laneList c ls (fun l => atWidth wide (f l))))

/-- A result in every lane of the active set, or in the s register (R184). -/
def putResult (c : Packet) (d : Operand) (w wide : Bool) (f : Nat → DWord) : Packet :=
  putLanes c d w wide (lanesOf c.act) f

/-- A uniform result: the latch is uniform, whatever D is; the s register, or every lane of the active set, takes it
(R184). -/
def putUniform (c : Packet) (d : Operand) (w wide : Bool) (x : DWord) : Packet :=
  let r := atWidth wide x
  let c := setLatch c (.uni r)
  if w then c
  else
    match d with
    | .s n => { c with g := writeS c.g n.val r }
    | .v n => { c with g := writeLanes c.g wide n.val (fun _ => r) (lanesOf c.act) }
    | _ => c

/-- The number of a mask register as a destination field code, for TSLOT.DEST (02 R64). -/
def maskCode (k : BitVec 3) : BitVec 6 := kfield k

end Sys2Proof.Machine
end

