-- ==== Sys2Proof/Machine/Flags.lean ====
section
/-! DEFINITION. Floating-point flags and the trap they raise (02 R65, R67; 04 R124; 15 R429). -/

namespace Sys2Proof.Machine

/-- The lanes of a list that raise flag bit i. -/
def flagMask (ls : List Nat) (f : Nat → Flags) (i : Nat) : Mask :=
  maskOf 64 (fun l => ls.contains l && (f l).getLsbD i)

/-- The five lane masks NV DZ OF UF NX of a word's flags. -/
def flagMasks (ls : List Nat) (f : Nat → Flags) : List Mask := (List.range 5).map (flagMask ls f)

/-- The packet with the flags of the word in hand recorded, lane by lane (R124). -/
def raiseFlags (c : Packet) (dest : BitVec 6) (ls : List Nat) (f : Nat → Flags) : Packet :=
  { c with flags := c.flags ++ [(c.slot, dest, flagMasks ls f)] }

/-- The OR of the flags of every lane and word of a packet (R124). -/
def flagsOf (xs : List (Nat × BitVec 6 × List Mask)) : Flags :=
  xs.foldl (fun acc x => acc ||| BitVec.ofNat 5
    ((List.range 5).foldl (fun a i => if x.2.2.getD i 0#64 = 0#64 then a else a + 2 ^ i) 0)) 0#5

/-- FPS with flags set, sticky (02 R67). -/
def orFps (fps : DWord) (f : Flags) : DWord := fps ||| f.setWidth 64

/-- The lowest enabled flag of one word: causes 1 to 5 in bit order (02 R64, R65). -/
def firstCause (fpe : DWord) (ms : List Mask) : Option (Nat × Mask) :=
  (List.range 5).findSome? (fun i =>
    let m := ms.getD i 0#64
    if fpe.getLsbD i && m != 0#64 then some (i + 1, m) else none)

/-- The trap that a packet's flags and trap instruction raise: the lowest word slot, and within one word the lowest cause
(02 R65). FPE is taken as it stood before the packet (07 R263). -/
def trapOf (fpe : DWord) (flags : List (Nat × BitVec 6 × List Mask)) (t : Option TrapReq) : Option TrapReq :=
  (List.range 3).findSome? (fun j =>
    match flags.findSome? (fun x =>
        if x.1 = j then
          (firstCause fpe x.2.2).map (fun r =>
            ({ cause := BitVec.ofNat 8 r.1, code := 0, mask := r.2, slot := j, dest := x.2.1 } : TrapReq))
        else none) with
    | some r => some r
    | none =>
      match t with
      | some r => if r.slot = j then some r else none
      | none => none)

end Sys2Proof.Machine
end

