-- ==== Sys2Proof/Machine/Regs.lean ====
section
/-! DEFINITION. The management block's registers as one file of 64-bit words, the geometry of the device (01 R18 to R23) and
the numbers of its units (14 R410). -/

namespace Sys2Proof.Machine

/-! ## The register file of the management block -/

/-- Reset values (01 R30, R31; 03 R79, R80, R84; 09 R322, R329, R334; 11 R361 to R376; 14 R405 to R426; 15 R437, R444;
17 R470, R476): 0 but for PWRBUD and WDCFG. -/
def regReset (off : Nat) : DWord :=
  if off = 0x400 then 0x0010000038005A00#64 else if off = 0xD00 then 0x01000000#64 else 0#64
/-- A register of the management block. -/
def regGet (d : Dev) (off : Nat) : DWord := tgetD d.reg off (regReset off)
/-- The device with a register written. -/
def regSet (d : Dev) (off : Nat) (x : DWord) : Dev := { d with reg := tputD d.reg off x (regReset off) }
/-- A field of a register. -/
def regBits (d : Dev) (off lo len : Nat) : Nat := bits (regGet d off).toNat lo len
/-- The device with a field of a register written. -/
def regPut (d : Dev) (off lo len v : Nat) : Dev := regSet d off (setBits (regGet d off) lo len v)

def offOctpart : Nat := 0x100
def offOctcmd : Nat := 0x108
def offDstore (o : Nat) : Nat := 0x200 + 8 * o
def offPtroot (p : Nat) : Nat := 0x300 + 8 * p
def offTlbinv : Nat := 0x340
def offPwrbud : Nat := 0x400
def offPwrst : Nat := 0x408
def offGtbase (p : Nat) : Nat := 0x500 + 8 * p
def offPnet (p : Nat) : Nat := 0x600 + 8 * p
def offHwin (p : Nat) : Nat := 0x700 + 16 * p
def offCxbase (o : Nat) : Nat := 0x800 + 8 * o
def offDomid : Nat := 0x900
def offAttcmd : Nat := 0xA00
def offAttdst : Nat := 0xA08
def offAttnonce : Nat := 0xA20
def offHaltst (p : Nat) : Nat := 0xB00 + 8 * p
def offStopbase (p : Nat) : Nat := 0xB40 + 8 * p
def offEvq (q : Nat) : Nat := 0xC00 + 16 * q
def offWdcfg : Nat := 0xD00
def offWdcore (k : Nat) : Nat := 0xD10 + 8 * k
def offBootst : Nat := 0xD40
def offTrans : Nat := 0xD48
def offDbgaddr : Nat := 0xD50
def offDbgdata : Nat := 0xD58
def offFltq (o : Nat) : Nat := 0xE00 + 16 * o
def offCtxbase (p : Nat) : Nat := 0xE80 + 8 * p
def offNtclost (p : Nat) : Nat := 0xF00 + 8 * p
def offTdqcfg (p q : Nat) : Nat := 0x10000 + 0x200 * p + 8 * q
def offQptr (p q : Nat) : Nat := 0x30000 + 0x200 * p + 8 * q
def offSvcptr (p : Nat) : Nat := 0x31000 + 8 * p
def offSvcrep (p : Nat) : Nat := 0x31800 + 8 * p

/-! ## Octants and partitions (01) -/

/-- ASG of octant o (R30). -/
def octAsg (d : Dev) (o : Nat) : Bool := regBits d offOctpart (8 * o + 7) 1 = 1
/-- CLR of octant o (R30). -/
def octClr (d : Dev) (o : Nat) : Bool := regBits d offOctpart (8 * o + 6) 1 = 1
/-- PNUM of octant o (R30). -/
def octPn (d : Dev) (o : Nat) : Nat := regBits d offOctpart (8 * o) 3
/-- Octant o belongs to partition p, which holds it until its release completes (R33). -/
def octOf (d : Dev) (p o : Nat) : Bool :=
  match tget d.parts p with
  | some q => q.octs.contains o
  | none => false
/-- The octants of a partition in ascending order. -/
def octsOf (d : Dev) (p : Nat) : List Nat := (List.range 8).filter (octOf d p)
/-- The octants with ASG = 1 and PNUM = p (R30). -/
def asgOcts (d : Dev) (p : Nat) : List Nat := (List.range 8).filter (fun o => octAsg d o && octPn d o == p)
/-- Partition p is assigned. -/
def assigned (d : Dev) (p : Nat) : Bool := !(asgOcts d p).isEmpty
/-- The octant of a core (R18). -/
def coreOct (c : Nat) : Nat := 4 * (c / 16 / 6) + c % 16 / 4
/-- The local row and column of a core (R18). -/
def coreRow (c : Nat) : Nat := c / 16 % 6
def coreCol (c : Nat) : Nat := c % 16 % 4
/-- The core at a local row and column of an octant (R18). -/
def coreAt (o row col : Nat) : Nat := (6 * (o / 4) + row) * 16 + 4 * (o % 4) + col
/-- The cores of an octant in local row-major order. -/
def octCores (o : Nat) : List Nat :=
  (List.range 24).map (fun i => coreAt o (i / 4) (i % 4))
/-- The quad of a core within its octant (R20), which is its network leaf. -/
def coreQuad (c : Nat) : Nat := 2 * (coreRow c / 2) + coreCol c / 2
/-- Core c is withdrawn (14 R422). -/
def coreGone (d : Dev) (c : Nat) : Bool := regBits d (offWdcore (c / 64)) (c % 64) 1 = 1

/-! ## Units (14 R410) -/

def unitCore (c : Nat) : Nat := 5 * c
def unitMx (c : Nat) : Nat := 5 * c + 1
def unitTu (c : Nat) : Nat := 5 * c + 2
def unitAe (c : Nat) : Nat := 5 * c + 3
def unitFeed (c : Nat) : Nat := 5 * c + 4
def unitOct (o j : Nat) : Nat := 960 + 5 * o + j
def unitSlice (s : Nat) : Nat := 1000 + s
def unitPort (k : Nat) : Nat := 1048 + k
def unitColtur : Nat := 1066
def unitMgmt : Nat := 1067
/-- The octant that holds a unit below 1048. -/
def unitOctant (u : Nat) : Nat :=
  if u < 960 then coreOct (u / 5) else if u < 1000 then (u - 960) / 5 else (u - 1000) / 6
/-- The units of a partition that write stop records (14 R411). -/
def unitsOf (d : Dev) (p : Nat) : List Nat :=
  (List.range 1048).filter (fun u => octOf d p (unitOctant u))
/-- The partition whose unit u is, while it holds the unit's octant. -/
def unitPart (d : Dev) (u : Nat) : Option Nat := if u < 1048 then (List.range 8).find? (fun p => octOf d p (unitOctant u)) else none
/-- The cycles within which a unit stops after a halt (14 R407). -/
def stopBound (u : Nat) : Nat :=
  if 960 ≤ u then 12500 else if u % 5 = 0 then 8 else if u % 5 = 1 then 64 else 256
/-- HALTST.HALT of a partition (14 R408). -/
def halted (d : Dev) (p : Nat) : Bool := regBits d (offHaltst p) 63 1 = 1
/-- The serving TD's octant: the lowest of the partition (09 R321). -/
def servingOct (d : Dev) (p : Nat) : Nat := (octsOf d p).headD 0

/-- The die temperature is at or above a limit of PWRBUD.TLIM less a margin (09 R334). -/
def tlim (d : Dev) : Nat := regBits d offPwrbud 8 8

end Sys2Proof.Machine
end

