-- ==== Sys2Proof/Machine/Mem.lean ====
section
/-! DEFINITION. The address space, translation, homes and the core's data cache (03). -/

namespace Sys2Proof.Machine

/-! ## Physical memory (R81, R82) -/

/-- The octant that owns a device-memory or direct-store address, and none for a reserved address or a piece of direct store
that is not carved (R81, R84). -/
def paOct (d : Dev) (pa : Nat) : Option Nat :=
  if pa < 0x2400000000 then some (pa / 0x480000000)
  else if 0x4000000000 ≤ pa ∧ pa < 0x4020000000 then
    (let o := (pa - 0x4000000000) / 0x4000000
     if (pa - 0x4000000000) % 0x4000000 / 0x200000 < regBits d (offDstore o) 0 6 then some o else none)
  else none

/-- A KIND 0 address lies in the memory of the partition's octants (R76). -/
def inPart (d : Dev) (p pa : Nat) : Bool :=
  match paOct d pa with
  | some o => octOf d p o
  | none => false

/-- The address lies in device memory proper, backed by GDDR-7. -/
def isDram (pa : Nat) : Bool := decide (pa < 0x2400000000)

/-- The home slice of a device-memory or direct-store address (R82). -/
def homeSlice (pa : Nat) : Nat :=
  if isDram pa then (let o := pa / 0x480000000
    6 * o + (pa - o * 0x480000000) / 512 % 6)
  else (let o := (pa - 0x4000000000) / 0x4000000
    6 * o + (pa - 0x4000000000) % 0x4000000 / 0x200000 % 6)

/-- The channel of a device-memory address (R82). -/
def homeChannel (pa : Nat) : Nat :=
  let o := pa / 0x480000000
  3 * o + (pa - o * 0x480000000) / 512 % 3

/-! ## Page tables (R74 to R76) -/

/-- The index bits of a level (R74). -/
def vaIndex (va lvl : Nat) : Nat :=
  match lvl with
  | 3 => bits va 43 13
  | 2 => bits va 29 14
  | 1 => bits va 21 8
  | _ => bits va 16 5
/-- What an entry of a level maps, as a power of two: the page size of a leaf (R74), or the reach of a table entry. -/
def pageBits (lvl : Nat) : Nat :=
  match lvl with
  | 3 => 43
  | 2 => 29
  | 1 => 21
  | _ => 16
/-- The alignment of the table below a level, as a power of two (R74). -/
def tableBits (lvl : Nat) : Nat :=
  match lvl with
  | 3 => 17
  | 2 => 11
  | _ => 8
/-- A leaf entry. -/
def pteLeaf (e : Nat) : Bool := bit e 1
def pteKind (e : Nat) : Nat := bits e 4 2
def pteDev (e : Nat) : Nat := bits e 52 10

/-- An entry that the walker treats as valid (R75, R76). -/
def pteValid (e lvl : Nat) : Bool :=
  bit e 0 &&
  (if pteLeaf e then
    lvl != 3 && bits e 62 2 == 0 && bits e 8 8 == 0 && !bit e 6 && pteKind e != 3 &&
    bits e 16 36 * 2 ^ 16 % 2 ^ pageBits lvl == 0 &&
    (if pteKind e = 2 then decide (pteDev e < 288) else pteDev e == 0)
  else
    lvl != 0 && bits e 52 12 == 0 && bits e 2 6 == 0 && bits e 8 44 * 256 % 2 ^ tableBits lvl == 0)

/-- The outcome of a walk (R110): a leaf with its level; an entry that is not valid; or a table outside the partition. -/
inductive Walk where
  | leaf (e lvl : Nat)
  | bad (e lvl : Nat)
  | prot
  deriving DecidableEq, Repr, Inhabited

/-- The walk of a virtual address from a table at a level (R110). -/
def walkFrom (d : Dev) (p va : Nat) : Nat → Nat → Walk
  | lvl + 1, t =>
    let l := lvl
    let a := t + 8 * vaIndex va l
    if !inPart d p a then .prot
    else
      let e := readNat d.mem a 8
      if !pteValid e l then .bad e l
      else if pteLeaf e then .leaf e l
      else walkFrom d p va lvl (bits e 8 44 * 256)
  | 0, _ => .prot

/-- The walk of a virtual address through the partition's tables (R79, R110). -/
def walk (d : Dev) (p va : Nat) : Walk :=
  if regBits d (offPtroot p) 0 1 = 0 then .prot
  else walkFrom d p va 4 (regBits d (offPtroot p) 16 36 * 2 ^ 16)

/-- A translated access (R110): its target and the W and X bits of the page; a fault; or a context-fatal reason. -/
inductive Xl where
  | ok (t : Target) (w x : Bool)
  | fault (lvl e : Nat)
  | prot (reason : Nat)
  deriving DecidableEq, Repr, Inhabited

/-- The target of a leaf entry for an address (R110). -/
def leafTarget (e lvl va : Nat) : Target :=
  let k := pageBits lvl
  let pa := bits e 16 36 * 2 ^ 16 + va % 2 ^ k
  match pteKind e with
  | 0 => .dev pa (bit e 7)
  | 1 => .host pa
  | _ => .remote (pteDev e) pa

/-- The protection checks of R76 on a leaf entry. -/
def leafXl (d : Dev) (p e lvl va : Nat) : Xl :=
  match leafTarget e lvl va with
  | .dev pa nc => if inPart d p pa then .ok (.dev pa nc) (bit e 2) (bit e 3) else .prot 0x23
  | t => .ok t (bit e 2) (bit e 3)

/-- The TLB entries that map an address (R77): before a TLBINV an old and a new one may both be there. -/
def tlbFind (d : Dev) (p va : Nat) : List TlbEntry :=
  d.tlb.filter (fun t => t.part == p && t.va / 2 ^ pageBits t.lvl == va / 2 ^ pageBits t.lvl)

/-- The local window (R71). -/
def isLocal (va : Nat) : Bool := decide (0x00FFFF0000000000 ≤ va)

/-- The number of bytes of a team's scratchpad allotment. -/
def spadSize (d : Dev) (t : Team) : Nat := (((tget d.grids t.grid).map (fun g => g.task.spq)).getD 0) * 4096

/-- The member of a cluster at a row and column (R72). -/
def memberAt (d : Dev) (t : Team) (row col : Nat) : Option Nat :=
  match tget d.clusters t.cid with
  | some c => c.tids.find? (fun i => match tget d.teams i with
      | some u => u.row == row && u.col == col
      | none => false)
  | none => none

/-- The scratchpad target of a local-window address (R72): the position outside the cluster, a reserved address and a byte
beyond the allotment are 0x21. -/
def spadTarget (d : Dev) (tid va : Nat) : Xl :=
  match tget d.teams tid with
  | none => .prot 0x21
  | some t =>
    let x := va - 0x00FFFF0000000000
    if x < 0x100000000 then
      (if x < spadSize d t then .ok (.spad tid x) true false else .prot 0x21)
    else
      let y := x - 0x100000000
      let m := y / 0x80000
      let o := y % 0x80000
      let cwm := ((tget d.grids t.grid).map (fun g => g.task.cwm)).getD 0
      let chm := ((tget d.grids t.grid).map (fun g => g.task.chm)).getD 0
      if m < 24 ∧ m / 4 ≤ chm ∧ m % 4 ≤ cwm ∧ o < spadSize d t then
        (match memberAt d t (m / 4) (m % 4) with
         | some i => .ok (.spad i o) true false
         | none => .prot 0x21)
      else .prot 0x21

/-- The extent-table entry that covers an address on a core (09 R315). -/
def extFind (d : Dev) (tid va : Nat) : Option Extent :=
  match tget d.teams tid with
  | none => none
  | some t =>
    match (tget d.cores t.core).bind (fun c => tget c.exts t.grid) with
    | some xs => xs.find? (fun x => decide (x.va ≤ va) && decide (va < x.va + x.size))
    | none => none

/-- The target an extent gives an address. -/
def extTarget (x : Extent) (va : Nat) : Target :=
  match x.tgt with
  | .dev pa nc => .dev (pa + (va - x.va)) nc
  | .host pa => .host (pa + (va - x.va))
  | .remote v pa => .remote v (pa + (va - x.va))
  | .spad i o => .spad i (o + (va - x.va))

/-- X of the page of an extent. -/
def extX (x : Extent) (va : Nat) : Bool := x.xs.getD ((va - x.va) / 65536) false

/-- The entry of a level for an address, as the TLB and the walkers' copies hold it. -/
def entryOf (p va lvl e : Nat) : TlbEntry :=
  { part := p, va := va / 2 ^ pageBits lvl * 2 ^ pageBits lvl, lvl := lvl, entry := BitVec.ofNat 64 e }

/-- The translation that a walk gives, with the leaf entry that the TLB takes. -/
def xlWalk (d : Dev) (p va : Nat) (w : Walk) : Xl × List Touch :=
  match w with
  | .prot => (.prot 0x23, [])
  | .bad e lvl => (.fault lvl e, [])
  | .leaf e lvl => (leafXl d p e lvl va, [.entry (entryOf p va lvl e)])

/-- The walkers' copies of the entry of a level for an address (R77). -/
def copyOf (d : Dev) (p va lvl : Nat) : List Nat :=
  (d.copies.filter (fun t => t.part == p && t.lvl == lvl && t.va / 2 ^ pageBits lvl == va / 2 ^ pageBits lvl)).map (fun t => t.entry.toNat)

/-- A walk that may take a walker's copy of a table entry in place of the entry in memory, whichever it took before (R77, log 2),
from a table at a level: its outcome, the lines of the entries it read at their home slices (R86), and the table entries it went
through. fi names the access, which makes one choice for each entry; oct is the octant of the walkers. -/
def walkCopies (d : Dev) (p oct va fi : Nat) : Nat → Nat → Walk × List Touch
  | lvl + 1, t =>
    let a := t + 8 * vaIndex va lvl
    let fresh := readNat d.mem a 8
    let old := (copyOf d p va lvl).filter (fun c => c != fresh)
    let e := if old.isEmpty then fresh
      else (fresh :: old).getD ((Config.freeWord ((fi * 4 + lvl) * 2 ^ 57 + 2 ^ 56 + va / 2 ^ pageBits lvl)).toNat % (old.length + 1)) fresh
    let kept := (copyOf d p va lvl).contains e
    if !inPart d p a && !kept then (.prot, [])
    else
      let line := if kept then [] else [Touch.line oct a]
      if !pteValid e lvl then (.bad e lvl, line)
      else if pteLeaf e then (.leaf e lvl, line)
      else
        let r := walkCopies d p oct va fi lvl (bits e 8 44 * 256)
        (r.1, line ++ .entry (entryOf p va lvl e) :: r.2)
  | 0, _ => (.prot, [])

/-- The translation of a walk by a unit, with what the TLB, the walkers and the LLC keep of it. -/
def xlFresh (d : Dev) (p oct va fi : Nat) : Xl × List Touch :=
  if regBits d (offPtroot p) 0 1 = 0 then (.prot 0x23, [])
  else
    let w := walkCopies d p oct va fi 4 (regBits d (offPtroot p) 16 36 * 2 ^ 16)
    let x := xlWalk d p va w.1
    (x.1, x.2 ++ w.2)

/-- Who reads or writes for a partition: a team, with its scratchpad window, for its core and that core's engines and feeder, or a block
of an octant (01 R22, R23). -/
inductive Agent where
  | team (tid : Nat)
  | octant (oct : Nat)
  deriving DecidableEq, Repr, Inhabited

/-- The team of an agent. -/
def agentTid : Agent → Option Nat
  | .team i => some i
  | .octant _ => none

/-- The octant of an agent, whose walkers walk for it (15 R439). -/
def agentOct (d : Dev) : Agent → Nat
  | .team i => ((tget d.teams i).map (fun t => coreOct t.core)).getD 0
  | .octant o => o

/-- The reach, as a power of two, of the largest page among the translations of an address: within it one access takes one translation. -/
def xlReach (xs : List (Xl × List Touch)) : Nat :=
  (xs.flatMap (fun x => (match x.1 with
    | .fault lvl _ => [pageBits lvl]
    | _ => []) ++ x.2.filterMap (fun t => match t with
      | .entry u => if pteLeaf u.entry.toNat then some (pageBits u.lvl) else none
      | .line _ _ => none))).foldl max 16

/-- xlate of R110 for partition p on behalf of an agent (a block of an octant has no scratchpad window). While TLB or extent entries, a
walker's copy, and the tables disagree, every access takes any of these translations, whatever the accesses before it took: a free
choice of the access that fi names, one for each page of it (R77, log 2). -/
def xlate (d : Dev) (p : Nat) (ag : Agent) (va fi : Nat) : Xl × List Touch :=
  if isLocal va then
    (match agentTid ag with
     | some i => (spadTarget d i va, [])
     | none => (.prot 0x21, []))
  else
    let fresh := xlFresh d p (agentOct d ag) va fi
    let known : List (Xl × List Touch) :=
      (((agentTid ag).bind (fun i => extFind d i va)).map (fun x => (Xl.ok (extTarget x va) x.w (extX x va), []))).toList ++
      (tlbFind d p va).map (fun t => (leafXl d p t.entry.toNat t.lvl va, [.entry t]))
    match known with
    | [] => fresh
    | c :: t =>
      if (t ++ [fresh]).all (fun y => y.1 == c.1) then c
      else
        let k := xlReach (known ++ [fresh])
        (c :: t ++ [fresh]).getD ((Config.freeWord ((fi * 64 + k) * 2 ^ 56 + va / 2 ^ k)).toNat % (t.length + 2)) c

/-- The checks of R76 and R83 on a translated access, the lowest reason code first. -/
def checkAcc (x : Xl) (acc : AccKind) (isCas : Bool) : Xl :=
  match x with
  | .ok t w xb =>
    match acc with
    | .read => .ok t w xb
    | .write => if w then .ok t w xb else .prot 0x24
    | .atomic =>
      if !w then .prot 0x24
      else (match t with
        | .host _ => if isCas then .ok t w xb else .prot 0x28
        | _ => .ok t w xb)
    | .fetch =>
      (match t with
       | .dev _ _ => if xb then .ok t w xb else .prot 0x25
       | .spad _ _ => .prot 0x21
       | _ => .prot 0x25)
  | y => y

/-! ## The last-level TLB (R77, R78) -/

/-- Entries of a partition in the TLB. -/
def tlbCount (d : Dev) (p : Nat) : Nat := (d.tlb.filter (fun t => t.part == p)).length
/-- A partition's reserve (R78). -/
def tlbReserve (d : Dev) (p : Nat) : Nat := 256 * (octsOf d p).length
/-- The list without its last element that satisfies a predicate: the least recently used candidate. -/
def dropLast {α : Type} (q : α → Bool) (xs : List α) : List α := (xs.reverse.eraseP q).reverse

/-- A use or a fill of an entry: it becomes the most recent, and a fill replaces by R78. A table entry goes to the walkers' copies. -/
def tlbUse (d : Dev) (t : TlbEntry) : Dev :=
  if !pteLeaf t.entry.toNat then (if d.copies.contains t then d else { d with copies := t :: d.copies })
  else if d.tlb.contains t then { d with tlb := t :: d.tlb.erase t }
  else
    let old := d.tlb
    let kept :=
      if tlbReserve d t.part ≤ tlbCount d t.part then
        dropLast (fun u => u.part == t.part) old
      else if old.length < 2048 then old
      else dropLast (fun u => decide (tlbReserve d u.part < tlbCount d u.part)) old
    { d with tlb := t :: kept }

/-! ## Homes (R87) -/

/-- An access that its home refuses answers none: reason 0x26 (R83, 11 R363, R364). -/
def hostAddr (d : Dev) (p pa : Nat) : Option Nat :=
  if pa < regBits d (offHwin p + 8) 16 36 * 65536 then
    some (regBits d (offHwin p) 16 48 * 65536 + pa)
  else none

/-- Lanes of a Coltur or Tvedli link: 16, from its rate (11 R361, log 10). -/
def linkLanes : Nat := 16
/-- A link with no working lane is lost (14 R424). -/
def linkDown (d : Dev) (unit : Nat) : Bool := decide (linkLanes ≤ (d.links.lost.filter (fun x => x.1 == unit)).length)
/-- A link carries no flit while a lane of it is retrained (14 R424). -/
def linkBusy (d : Dev) (unit : Nat) : Bool := d.links.retrain.any (fun x => x.1 == unit)
/-- The Coltur link carries flits (14 R424). -/
def hostOpen (d : Dev) : Bool := !linkBusy d unitColtur && !linkDown d unitColtur
/-- A system-scope release can be made (R97): what the adapter has accepted can reach the host. -/
def releaseOpen (d : Dev) : Bool := hostOpen d || d.accepted.isEmpty
/-- The port that a request takes: the one that the device and the superblock of its address hash to (11 R370), or the next working
one in ascending order (14 R421); none when no port works. -/
def portFor (d : Dev) (v pa : Nat) : Option Nat :=
  ((List.range 18).map (fun i => (Config.portHash v (pa / 512) + i) % 18)).find? (fun k => !linkDown d (unitPort k))

/-- The octant of another device that an address lies in, where that device's direct store has the given pieces (R81, R84). -/
def peerOct (d : Dev) (v pa : Nat) : Option PeerOct :=
  if pa < 0x2400000000 then tget d.peerOcts (8 * v + pa / 0x480000000)
  else if 0x4000000000 ≤ pa ∧ pa < 0x4020000000 then
    (match tget d.peerOcts (8 * v + (pa - 0x4000000000) / 0x4000000) with
     | some o => if (pa - 0x4000000000) % 0x4000000 / 0x200000 < o.pieces then some o else none
     | none => none)
  else none

/-- PNET.SCOPE of a partition (11 R361). -/
def scopeOf (d : Dev) (p : Nat) : Nat := regBits d (offPnet p) 32 16
/-- The remote device performs the access (R83, 11 R363, 17 R475), and a port works. -/
def peerOk (d : Dev) (p v pa : Nat) : Bool :=
  regBits d offDomid 10 1 == 1 && (portFor d v pa).isSome && scopeOf d p != 0 &&
  ((peerOct d v pa).map (fun o => o.scope.toNat == scopeOf d p)).getD false

/-- A KIND 2 target that names this device itself in the domain is its own memory. -/
def selfDev (d : Dev) (v : Nat) : Bool := regBits d offDomid 10 1 == 1 && regBits d offDomid 0 9 == v
/-- A KIND 2 access to this device itself is performed under the rule of scope, and never on a line of another of its partitions
(R83, 01 R28). -/
def selfOk (d : Dev) (p pa : Nat) : Bool := scopeOf d p != 0 && inPart d p pa

/-- The partition that holds an octant. -/
def paScope (d : Dev) (pa : Nat) : Nat :=
  match paOct d pa with
  | some o => if octAsg d o && !halted d (octPn d o) then regBits d (offPnet (octPn d o)) 32 16 else 0
  | none => 0

/-- No reader gets the bytes of a word, or of a slice, whose check has failed (14 R403, log 69). -/
def badWord (d : Dev) (pa : Nat) : Bool := d.links.badWords.contains (pa / 8) || d.links.badUnits.contains (1000 + homeSlice pa)
/-- A line of 128 bytes holds a failing word. -/
def badLine (d : Dev) (ln : Nat) : Bool := (List.range 16).any (fun j => badWord d (ln * 128 + 8 * j))
/-- A run of device memory holds a failing word, or lies in a failing slice. -/
def badRun (d : Dev) (pa n : Nat) : Bool :=
  d.links.badWords.any (fun w => decide (pa < 8 * w + 8) && decide (8 * w < pa + n)) ||
    (!d.links.badUnits.isEmpty && (List.range (n / 512 + 1)).any (fun i => d.links.badUnits.contains (1000 + homeSlice (pa + 512 * i))))
/-- A table entry that a translation read lies in a failing word. -/
def badTouch (d : Dev) : Touch → Bool
  | .entry _ => false
  | .line _ pa => badWord d pa

/-- An access to a target waits: no flit goes over a link that is retrained or lost (14 R424), and no reader gets the bytes of a word, a
slice or a scratchpad whose check has failed (14 R403, log 69). -/
def held (d : Dev) (t : Target) : Bool :=
  let word := badWord d
  match t with
  | .dev pa _ => word pa
  | .host _ => linkBusy d unitColtur || linkDown d unitColtur
  | .remote v pa => if selfDev d v then word pa else ((portFor d v pa).map (fun k => linkBusy d (unitPort k))).getD false
  | .spad i _ => ((tget d.teams i).map (fun t => d.links.badUnits.contains (unitCore t.core))).getD false

/-- The scratchpad a target lies in is in place: a member that is swapped out stalls what reaches it (02 R56, 15 R448). -/
def inPlace (d : Dev) : Target → Bool
  | .spad i _ => ((tget d.teams i).map (fun t => t.st != .swapped)).getD true
  | _ => true

/-- The unit that reports an access which finds no working Tvedli port (14 R425, log 10): the port it hashes to. -/
def portLost (d : Dev) (t : Target) : Option Nat :=
  match t with
  | .remote v pa =>
    if regBits d offDomid 10 1 == 1 && !selfDev d v && (List.range 18).all (fun k => linkDown d (unitPort k)) then
      some (unitPort (Config.portHash v (pa / 512) % 18))
    else none
  | _ => none

/-- n bytes read at the home of a target (R87); none where the home refuses. -/
def homeRead (d : Dev) (p : Nat) (t : Target) (n : Nat) : Option (List Byte) :=
  match t with
  | .spad i o => (tget d.teams i).map (fun u => readBytes u.spad o n)
  | .dev pa _ => some (readBytes d.mem pa n)
  | .host pa => (hostAddr d p pa).map (fun a => readBytes d.host a n)
  | .remote v pa =>
    if selfDev d v then (if selfOk d p pa then some (readBytes d.mem pa n) else none)
    else if peerOk d p v pa then some (readBytes (tgetD d.peers v []) pa n) else none

/-- Cells written into a memory. -/
def writeCells (m : Memory) (base : Nat) (xs : List (Nat × Byte)) : Memory :=
  xs.foldl (fun m x => writeByte m (base + x.1) x.2) m

/-- The tile that holds a physical address (10 R349, R350). -/
def tileAt (d : Dev) (pa : Nat) : Option (Nat × Tile) :=
  d.tiles.find? (fun t => t.2.pas.any (fun b => decide (b ≤ pa) && decide (pa < b + (if t.2.size < 65536 then t.2.size else 65536))))

/-- The rank of a superblock among eviction victims (10 R349): the lower goes first. -/
def victimRank (d : Dev) (sb : Nat) : Nat :=
  match tileAt d (sb * 512) with
  | none => 0
  | some (_, t) =>
    match t.st with
    | .shaded => 1
    | .classified => 1
    | .closed => 2
    | .opened => 3

/-- Superblocks that a slice's LLC holds (R85): 16 MiB less 2 MiB for each piece of direct store that it homes. -/
def llcRoom (d : Dev) (slice : Nat) : Nat := 32768 - 4096 * ((regBits d (offDstore (slice / 6)) 0 6 + 5 - slice % 6) / 6)

/-- The superblocks that a slice may give up first (10 R349). -/
def llcVictims (d : Dev) (slice : Nat) : List Nat :=
  let mine := (d.llc.filter (fun t => homeSlice (t.1 * 512) == slice)).map (fun t => t.1)
  mine.filter (fun a => mine.all (fun b => decide (victimRank d a ≤ victimRank d b)))

/-- One element of a list that is not empty, a free choice (log 66). -/
def pickVictim (d : Dev) (xs : List Nat) : Nat := xs.getD (Config.victim d.victims % xs.length) 0

/-- A slice's LLC with room for one more superblock. -/
def llcMake (d : Dev) (slice : Nat) : Dev :=
  if (d.llc.filter (fun t => homeSlice (t.1 * 512) == slice)).length < llcRoom d slice then d
  else { d with llc := tdel d.llc (pickVictim d (llcVictims d slice)), victims := d.victims + 1 }

/-- A line of device memory read or written at its home slice (R86): it is in the LLC, and dirty once written. -/
def llcLine (d : Dev) (wr : Bool) (pa : Nat) : Dev :=
  if !isDram pa then d
  else
    let bit := (1#4) <<< (pa / 128 % 4)
    let d1 := if (tget d.llc (pa / 512)).isSome then d else llcMake d (homeSlice pa)
    let t := tgetD d1.llc (pa / 512) { valid := 0, dirty := 0 }
    { d1 with llc := tput d1.llc (pa / 512) { valid := t.valid ||| bit, dirty := if wr then t.dirty ||| bit else t.dirty } }

/-- The lines of a run of n bytes from a physical address. -/
def linesOf (pa n : Nat) : List Nat := (List.range ((pa % 128 + n + 127) / 128)).map (fun i => pa / 128 + i)

/-- A run of bytes read at its home slice. -/
def llcRead (d : Dev) (pa n : Nat) : Dev := (linesOf pa n).foldl (fun d ln => llcLine d false (ln * 128)) d

/-- Two runs of bytes share none. -/
def apart (a n b m : Nat) : Bool := decide (a + n ≤ b) || decide (b + m ≤ a)

/-- The record of an octant's CX. -/
def cxOf (d : Dev) (oct : Nat) : Cx :=
  tgetD d.cx oct { st := .idle, slot := 0, cmd := [], own := none, input := [], digests := [], got := [], sent := 0, wrote := 0, tails := [], dead := false }
/-- The device with a CX changed. -/
def modCx (d : Dev) (oct : Nat) (f : Cx → Cx) : Dev := { d with cx := tput d.cx oct (f (cxOf d oct)) }
/-- The address of the header of an octant's ring (11 R371). -/
def cxRing (d : Dev) (oct : Nat) : Nat := regBits d (offCxbase oct) 6 50 * 64

/-- The physical address of TAIL of an octant whose CX serves its ring; none where it has no home slice here. -/
def tailPa (d : Dev) (oct : Nat) : Option Nat :=
  if regBits d (offCxbase oct) 0 1 = 1 ∧ octAsg d oct then
    (match (xlWalk d (octPn d oct) (cxRing d oct) (walk d (octPn d oct) (cxRing d oct))).1 with
     | .ok (.dev pa _) _ _ => some pa
     | _ => none)
  else none

/-- A write applied to TAIL notifies the CX: of the value it gave, and of HEAD (11 R371). -/
def noticeTail (d : Dev) (pa n oct : Nat) : Dev :=
  match tailPa d oct with
  | some a =>
    if apart pa n a 8 then d
    else modCx d oct (fun x => { x with tails := x.tails ++ [(leNat (readBytes d.mem a 8), leNat (readBytes d.mem (a + 8) 8))] })
  | none => d

/-- The lines of a run of bytes, written in the LLC. -/
def llcWrite (d : Dev) (pa n : Nat) : Dev := (linesOf pa n).foldl (fun d ln => llcLine d true (ln * 128)) d

/-- A place as numbers: the kind of memory, which one, and the address. A KIND 2 page that names this device reaches its own memory (R83). -/
def tgtKey (d : Dev) : Target → Nat × Nat × Nat
  | .spad i o => (0, i, o)
  | .dev pa _ => (1, 0, pa)
  | .host pa => (2, 0, pa)
  | .remote v pa => if selfDev d v then (1, 0, pa) else (3, v, pa)

/-- The place that a partition's access reaches: of the host, its bus address (11 R366). -/
def placeOf (d : Dev) (p : Nat) (t : Target) : Nat × Nat × Nat :=
  match t with
  | .host pa => (2, 0, (hostAddr d p pa).getD pa)
  | t => tgtKey d t

/-- Two stretches of memory share no byte. -/
def placesApart (a : Nat × Nat × Nat) (n : Nat) (b : Nat × Nat × Nat) (m : Nat) : Bool :=
  a.1 != b.1 || a.2.1 != b.2.1 || apart a.2.2 n b.2.2 m

/-- The bytes of a run are no longer those of a release (R98). -/
def relsOff (d : Dev) (a : Nat × Nat × Nat) (n : Nat) : Dev := { d with rels := d.rels.filter (fun r => placesApart a n r.place r.len) }

/-- Each CX hears of a write to its TAIL. -/
def noticeTails (d : Dev) (pa n : Nat) : Dev := (List.range 8).foldl (fun d o => noticeTail d pa n o) d

/-- A run of bytes written at its home slice: its lines are dirty, they are no longer those of a release (R98), and a CX hears of a
write to its TAIL. -/
def wrote (d : Dev) (pa n : Nat) : Dev := noticeTails (relsOff (llcWrite d pa n) (1, 0, pa) n) pa n

/-- What the adapter has accepted, written to the host in order (R91). -/
def landHost (d : Dev) : Dev :=
  { d with host := d.accepted.foldl (fun m x => writeCells m x.1 x.2) d.host, accepted := [] }

/-- Bytes written to the host by the device's own machinery, after all that the adapter accepted before; it holds them while the link
carries none (14 R424). -/
def hostWrite (d : Dev) (a : Nat) (bs : List Byte) : Dev :=
  if hostOpen d then { landHost d with host := writeBytes (landHost d).host a bs } else { d with accepted := d.accepted ++ [(a, (List.range bs.length).zip bs)] }

/-- A read of n bytes reaches the home of a target: the lines come into the LLC, and the host's memory is read after everything that
the adapter has accepted. -/
def homeTouch (d : Dev) (p : Nat) (t : Target) (n : Nat) : Dev :=
  match t with
  | .dev pa _ => llcRead d pa n
  | .host _ => landHost d
  | .remote v pa => if selfDev d v && selfOk d p pa then llcRead d pa n else d
  | .spad _ _ => d

/-! ## The on-die network (11 R357 to R360; log 68) -/

/-- The leaf of a core's quad. -/
def coreLeaf (core : Nat) : Nat := 6 * coreOct core + coreQuad core
/-- The leaf of an agent: its team's quad, or the service leaf of its octant (01 R23, 11 R357). -/
def unitLeaf (d : Dev) : Agent → Nat
  | .team i => ((tget d.teams i).map (fun t => coreLeaf t.core)).getD 0
  | .octant o => 96 + o
/-- The agent that the partition's serving TD is (09 R321). -/
def tdAgent (d : Dev) (p : Nat) : Agent := .octant (servingOct d p)
/-- The leaf of a target's home. -/
def homeLeaf (d : Dev) (t : Target) : Nat :=
  match t with
  | .dev pa _ => 48 + homeSlice pa
  | .host _ => 110
  | .remote v pa => if selfDev d v then 48 + homeSlice pa else 104 + (portFor d v pa).getD 0 / 3
  | .spad i _ => ((tget d.teams i).map (fun t => coreLeaf t.core)).getD 0

/-- Flits that wait at a leaf in a channel. -/
def netAdd (d : Dev) (leaf chan n : Nat) : Dev :=
  if n = 0 then d else { d with net := tput d.net (32 * leaf + chan) (tgetD d.net (32 * leaf + chan) 0 + n) }

/-- The flits of one 8-byte unit of a run that an agent of a partition reads or writes: a header for each 256 bytes and a flit for
each 32, in the partition's request channel, and in its response channel back. A scratchpad is reached over the links between
neighbours, not through the network (01 R19). -/
def netUnit (d : Dev) (p : Nat) (ag : Agent) (t : Target) (wr : Bool) (va0 va : Nat) : Dev :=
  let head := if va = va0 ∨ va % 256 = 0 then 1 else 0
  let data := if va = va0 ∨ va % 32 = 0 then 1 else 0
  match t with
  | .spad _ _ => d
  | _ => netAdd (netAdd d (unitLeaf d ag) p (head + (if wr then data else 0))) (homeLeaf d t) (8 + p) (head + (if wr then 0 else data))

/-- The flits of one packet of at most 256 bytes between a leaf and the home of a target. -/
def netPacket (d : Dev) (p leaf : Nat) (t : Target) (wr : Bool) (n : Nat) : Dev :=
  let data := (n + 31) / 32
  netAdd (netAdd d leaf p (1 + if wr then data else 0)) (homeLeaf d t) (8 + p) (1 + if wr then 0 else data)
/-- The flits of a run of device memory that a leaf reads or writes for a partition, packet by packet (11 R357). -/
def netRun (d : Dev) (p leaf pa n : Nat) (wr : Bool) : Dev :=
  (List.range ((n + 255) / 256)).foldl (fun d i => netPacket d p leaf (.dev (pa + 256 * i) false) wr (min 256 (n - 256 * i))) d

/-- What a translation used: an entry's use, or a table's line read at its home slice over the network (R86, 11 R357). -/
def tlbTouch (d : Dev) : Touch → Dev
  | .entry t => tlbUse d t
  | .line oct pa => llcRead (netPacket d (octPn d oct) (96 + oct) (.dev pa true) false 8) pa 8
/-- Everything that translations used, in order. -/
def tlbTouchAll (d : Dev) (ts : List Touch) : Dev := ts.foldl tlbTouch d

/-- The length of a run that holds every cell. -/
def cellsLen (xs : List (Nat × Byte)) : Nat := xs.foldl (fun n x => if n < x.1 + 1 then x.1 + 1 else n) 0

/-- Bytes written at a physical address of the device by its own machinery. -/
def devWrite (d : Dev) (pa : Nat) (bs : List Byte) : Dev := wrote { d with mem := writeBytes d.mem pa bs } pa bs.length

/-- The cells of a memory from lo up to lo + n, by offset from lo. -/
def cellsIn (m : Memory) (lo n : Nat) : Memory := (m.filter (fun c => decide (lo ≤ c.1) && decide (c.1 < lo + n))).map (fun c => (c.1 - lo, c.2))
/-- A memory whose n bytes from lo are those of another memory from 0. -/
def putCells (m : Memory) (lo n : Nat) (src : Memory) : Memory := writeCells (zeroRange m lo (lo + n)) lo (cellsIn src 0 n)

/-- Bytes at offsets from a target written at its home, or, of the host, accepted by the adapter, which is where such a write is complete
(R91); none where the home refuses. -/
def homeWrite (d : Dev) (p : Nat) (t : Target) (xs : List (Nat × Byte)) : Option Dev :=
  match t with
  | .spad i o =>
    if (tget d.teams i).isSome then
      some (relsOff { d with teams := tmod d.teams i (fun u => { u with spad := writeCells u.spad o xs }) } (0, i, o) (cellsLen xs))
    else none
  | .dev pa _ => some (wrote { d with mem := writeCells d.mem pa xs } pa (cellsLen xs))
  | .host pa => (hostAddr d p pa).map (fun a => relsOff { d with accepted := d.accepted ++ [(a, xs)] } (2, 0, a) (cellsLen xs))
  | .remote v pa =>
    if selfDev d v then (if selfOk d p pa then some (wrote { d with mem := writeCells d.mem pa xs } pa (cellsLen xs)) else none)
    else if peerOk d p v pa then
      some (relsOff { d with peers := tput d.peers v (writeCells (tgetD d.peers v []) pa xs) } (3, v, pa) (cellsLen xs))
    else none

/-- Numbered cells of a run of bytes. -/
def cellsOf (bs : List Byte) : List (Nat × Byte) := (List.range bs.length).zip bs

/-! ## The core data cache (R88) -/

/-- The line of a cacheable target: KIND 0 with NC = 0. -/
def lineOf : Target → Option Nat
  | .dev pa false => some (pa / 128)
  | _ => none

/-- The core's entry changed. -/
def modCore (d : Dev) (c : Nat) (f : Core → Core) : Dev :=
  { d with cores := tput d.cores c (f (tgetD d.cores c default)) }

/-- The core's copies of the lines of n bytes from a target are removed. -/
def dcDrop (d : Dev) (c : Nat) (t : Target) (n : Nat) : Dev :=
  match t with
  | .dev pa _ => modCore d c (fun k => { k with dc := (linesOf pa n).foldl tdel k.dc })
  | _ => d

/-- Every line is removed from the core's data cache (R97). -/
def dcEmpty (d : Dev) (c : Nat) : Dev := modCore d c (fun k => { k with dc := [] })

/-- Lines of the core data cache and of the instruction cache (01 R22): 256 KiB and 128 KiB of 128 bytes. -/
def dcLines : Nat := 2048
def icLines : Nat := 1024

/-- A cache with one more line: where it is full, one of its lines goes, a free choice (log 66). -/
def cachePut (d : Dev) (cap : Nat) (t : Tab (List Byte)) (ln : Nat) (bs : List Byte) : Tab (List Byte) :=
  if t.length < cap then tput t ln bs else tput (tdel t (pickVictim d (t.map (fun x => x.1)))) ln bs

/-- A line taken into a core's data cache. -/
def dcFill (d : Dev) (c ln : Nat) (bs : List Byte) : Dev :=
  { modCore d c (fun k => { k with dc := cachePut d dcLines k.dc ln bs }) with victims := d.victims + 1 }

/-- A plain read through the core data cache: the line present, or a fill, or, while an emptying acquire is unbound, a home
read without allocation (R88). -/
def cacheRead (d : Dev) (p c : Nat) (t : Target) (n : Nat) : Option (List Byte × Dev) :=
  match t, lineOf t with
  | .dev pa _, some ln =>
    let k := tgetD d.cores c default
    (match tget k.dc ln with
     | some bs => some ((bs.drop (pa % 128)).take n, d)
     | none =>
       if k.noInstall.isEmpty then
         (let bs := readBytes d.mem (ln * 128) 128
          some ((bs.drop (pa % 128)).take n, dcFill (llcRead d (ln * 128) 128) c ln bs))
       else some (readBytes d.mem pa n, llcRead d pa n))
  | t, _ => (homeRead (homeTouch d p t n) p t n).map (fun bs => (bs, homeTouch d p t n))

/-- A store's bytes put into the core's copy of the line, if present (R88). -/
def cacheUpdate (d : Dev) (c : Nat) (t : Target) (xs : List (Nat × Byte)) : Dev :=
  match t, lineOf t with
  | .dev pa _, some ln =>
    modCore d c (fun k => { k with dc := tmod k.dc ln (fun bs => xs.foldl (fun b x => lset b (pa % 128 + x.1) x.2) bs) })
  | _, _ => d

/-! ## Accesses of the device's own units -/

/-- Why a unit's access did not happen. -/
inductive MemErr where
  /-- A translation fault at an address, with the level and the entry (R76). -/
  | xl (va lvl e : Nat) (acc : AccKind)
  /-- A context-fatal fault: the reason code and the address. -/
  | prot (reason va : Nat)
  /-- No working Tvedli port (14 R425): the unit that reports it. -/
  | link (unit : Nat)
  /-- The access waits: its link is retrained (14 R424), or a failing word holds it until the halt (14 R403). The unit tries again. -/
  | busy
  deriving DecidableEq, Repr, Inhabited

/-- One byte-run inside one 64 KiB page translated for an agent of partition p; fi names the access it is part of. -/
def xlUnit (d : Dev) (p : Nat) (ag : Agent) (va : Nat) (acc : AccKind) (fi : Nat) : Except MemErr (Target × Dev) :=
  if 2 ^ 56 ≤ va then .error (.prot 0x20 va)
  else
    let r := xlate d p ag va fi
    if r.2.any (badTouch d) then .error .busy
    else match checkAcc r.1 acc false with
    | .ok t _ _ =>
      (match portLost d t with
       | some u => .error (.link u)
       | none => if held d t || !inPlace d t then .error .busy else .ok (t, tlbTouchAll d r.2))
    | .fault lvl e => .error (.xl va lvl e acc)
    | .prot x => .error (.prot x va)

/-- The bytes from an address that lie in its 8-byte unit, and how many of a run of n they are. -/
def unitLen (va n : Nat) : Nat := if n < 8 - va % 8 then n else 8 - va % 8

/-- A run of bytes read at the home by a unit (R99), unit by unit, from va0; k bounds the number of units. -/
def unitReadGo (d : Dev) (p : Nat) (ag : Agent) (fi va0 : Nat) : Nat → Nat → Nat → Except MemErr (List Byte × Dev)
  | 0, _, _ => .ok ([], d)
  | k + 1, va, n =>
    if n = 0 then .ok ([], d)
    else
      let m := unitLen va n
      match xlUnit d p ag va .read fi with
      | .error e => .error e
      | .ok (t, d1) =>
        let d2 := homeTouch (netUnit d1 p ag t false va0 va) p t m
        match homeRead d2 p t m with
        | none => .error (.prot 0x26 va)
        | some bs =>
          match unitReadGo d2 p ag fi va0 k (va + m) (n - m) with
          | .error e => .error e
          | .ok (rest, d3) => .ok (bs ++ rest, d3)

/-- The name of a unit's access: one run from its first address on (R77, log 2). -/
def accName (fi va0 : Nat) : Nat := fi * 2 ^ 56 + va0

/-- n bytes read by a unit. -/
def unitRead (d : Dev) (p : Nat) (ag : Agent) (va n fi : Nat) : Except MemErr (List Byte × Dev) :=
  unitReadGo d p ag (accName fi va) va (n / 8 + 2) va n

/-- Single bytes read at the home by a unit in order as parts of one access, up to the first error: the bytes, the device and the
error. Bytes that follow on, from v0 to nx, share the packets of a run. -/
def unitReadBytes (p : Nat) (ag : Agent) (fi : Nat) : Nat → Nat → List Nat → Dev → List Byte × Dev × Option MemErr
  | _, _, [], d => ([], d, none)
  | v0, nx, a :: t, d =>
    let v1 := if a = nx then v0 else a
    match unitReadGo d p ag fi v1 2 a 1 with
    | .error e => ([], d, some e)
    | .ok (bs, d1) =>
      let r := unitReadBytes p ag fi v1 (a + 1) t d1
      (bs ++ r.1, r.2.1, r.2.2)
/-- A list of bytes read as one access. -/
def unitReadList (p : Nat) (ag : Agent) (fi : Nat) (xs : List Nat) (d : Dev) : List Byte × Dev × Option MemErr :=
  unitReadBytes p ag (accName fi (xs.headD 0)) (xs.headD 0) (xs.headD 0) xs d

/-- What a unit's write does to its core's copy of the line: nothing, an update by the core's own stores, or a removal by
its engines, feeder and drain (R88). -/
inductive CacheMode where
  | leave
  | update (core : Nat)
  | remove (core : Nat)
  deriving DecidableEq, Repr, Inhabited

/-- The core's copy after a write. -/
def cacheAfter (d : Dev) (cm : CacheMode) (t : Target) (xs : List (Nat × Byte)) : Dev :=
  match cm with
  | .leave => d
  | .update c => cacheUpdate d c t xs
  | .remove c => dcDrop d c t (cellsLen xs)

/-- A run of bytes written at the home by a unit, unit by unit, and how many bytes were written before an error. -/
def unitWriteGo (p : Nat) (ag : Agent) (cm : CacheMode) (fi va0 : Nat) : Nat → Dev → Nat → List Byte → Nat → Dev × Nat × Option MemErr
  | 0, d, _, _, done => (d, done, none)
  | k + 1, d, va, bs, done =>
    if bs.isEmpty then (d, done, none)
    else
      let m := unitLen va bs.length
      match xlUnit d p ag va .write fi with
      | .error e => (d, done, some e)
      | .ok (t, d1) =>
        match homeWrite (netUnit d1 p ag t true va0 va) p t (cellsOf (bs.take m)) with
        | none => (d1, done, some (.prot 0x26 va))
        | some d2 => unitWriteGo p ag cm fi va0 k (cacheAfter d2 cm t (cellsOf (bs.take m))) (va + m) (bs.drop m) (done + m)

/-- Bytes written by a unit: the device, the bytes written, and the error that stopped it. -/
def unitWrite (d : Dev) (p : Nat) (ag : Agent) (cm : CacheMode) (va : Nat) (bs : List Byte) (fi : Nat) :
    Dev × Nat × Option MemErr :=
  unitWriteGo p ag cm (accName fi va) va (bs.length / 8 + 2) d va bs 0

/-- Single bytes written at the home by a unit in order as parts of one access, up to the first error: the device, how many, and the
error. -/
def unitWriteBytes (p : Nat) (ag : Agent) (cm : CacheMode) (fi : Nat) : Nat → Nat → List (Nat × Byte) → Dev → Nat → Dev × Nat × Option MemErr
  | _, _, [], d, n => (d, n, none)
  | v0, nx, x :: t, d, n =>
    let v1 := if x.1 = nx then v0 else x.1
    match unitWriteGo p ag cm fi v1 2 d x.1 [x.2] 0 with
    | (d1, _, none) => unitWriteBytes p ag cm fi v1 (x.1 + 1) t d1 (n + 1)
    | (_, _, some e) => (d, n, some e)
/-- A list of bytes written as one access. -/
def unitWriteList (p : Nat) (ag : Agent) (cm : CacheMode) (fi : Nat) (xs : List (Nat × Byte)) (d : Dev) (n : Nat) : Dev × Nat × Option MemErr :=
  let a := (xs.head?.map (fun x => x.1)).getD 0
  unitWriteBytes p ag cm (accName fi a) a a xs d n

/-- Bytes written by a unit that first translates all of them, so that an error leaves nothing written (the frame stores of
15 R430, the spills of 02 R49). -/
def unitWriteWhole (d : Dev) (p : Nat) (ag : Agent) (cm : CacheMode) (va : Nat) (bs : List Byte) (fi : Nat) : Except MemErr Dev :=
  let units := (List.range (bs.length / 8 + 2)).filterMap (fun i =>
    let a := if i = 0 then va else (va / 8 + i) * 8
    if a < va + bs.length then some a else none)
  match units.findSome? (fun a => match xlUnit d p ag a .write (accName fi va) with
      | .error e => some e
      | .ok _ => none) with
  | some e => .error e
  | none =>
    match unitWrite d p ag cm va bs fi with
    | (d', _, none) => .ok d'
    | (_, _, some e) => .error e

end Sys2Proof.Machine
end

