-- ==== Sys2Proof/Machine/Ops.lean ====
section
/-! DEFINITION. The named operations over packets, groups and units: results of a word, control transfer, faults and their
reports, taking a user trap and returning from it, window slides, and operations in flight. -/

namespace Sys2Proof.Machine

/-- What a step answers. -/
abbrev Out := Host.Outcome State Fault Refusal

/-- The state with the device changed; nothing else of the machine changes. -/
def withDev (s : State) (d : Dev) : Out := .next { s with dev := d }

/-! ## Results of a word of the packet in progress -/

/-- The state with the packet in progress changed; nothing else of the machine changes. -/
def withCur (s : State) (c : Packet) : Out := .next { s with cur := c }

/-- A word that computes one result per lane, or one uniform result, and raises no flag (06 R184). -/
def compute (s : State) (h : AHdr) (d : Operand) (wide : Bool) (f : Packet → Nat → DWord) : Out :=
  withCur s (putResult s.cur d h.w wide (f s.cur))

/-- A word that computes one result per lane with its flags (06 R184). DESIGN CHOICE for the lane of a uniform result: log 75. -/
def computeF (s : State) (h : AHdr) (d : Operand) (wide : Bool) (f : Packet → Nat → DWord × Flags) : Out :=
  let c := s.cur
  let g := fun l => if d.isS then f c (lf c) else f c l
  withCur s (raiseFlags (putResult c d h.w wide (fun l => (f c l).1)) d.code (lanesOf c.act) (fun l => (g l).2))

/-- A word whose result is uniform: the s register, or every lane of the active set (06 R184). -/
def computeU (s : State) (h : AHdr) (d : Operand) (wide : Bool) (f : Packet → DWord) : Out :=
  withCur s (putUniform s.cur d h.w wide (f s.cur))

/-- A word that writes bits of a mask in the lanes of the active set (06 R199): bits of other lanes stay. -/
def maskResult (c : Packet) (k : BitVec 3) (p : Nat → Bool) : Packet :=
  let m := (readK c.g k.toNat &&& ~~~c.act) ||| maskOf 64 (fun l => mbit c.act l && p l)
  { c with g := writeK c.g k.toNat m }

/-- A word that writes a whole mask (06 R220). -/
def setMask (s : State) (k : BitVec 3) (f : Packet → Mask) : Out :=
  withCur s { s.cur with g := writeK s.cur.g k.toNat (f s.cur) }

/-- The packet with the lanes of a mask sent to their targets (02 R41). -/
def jumpLanes (c : Packet) (m : Mask) (t : Nat → Word) : Packet :=
  { c with nxt := (List.range c.g0.width).map (fun l => if mbit m l then t l else c.nxt.getD l 0#32) }

/-- target of R166: (pc + sext(disp)) mod 2^32. -/
def target {n : Nat} (c : Packet) (disp : BitVec n) : Word := c.pc + disp.signExtend 32

/-- A control transfer of the lanes a mask names to one target; the other lanes go on at pc + 1 (06 R189). -/
def branch (s : State) (m : Packet → Mask) (t : Packet → Nat → Word) : Out :=
  withCur s (jumpLanes s.cur (m s.cur) (t s.cur))

/-- The lanes that act in a guarded word: the active set narrowed by K, and, for the forms of 10 R354, without helper lanes. -/
def guardSet (c : Packet) (k : BitVec 3) (noHelper : Bool) : Mask :=
  let m := c.act &&& readK c.g0 k.toNat
  if noHelper then m &&& ~~~c.g0.helper else m

/-! ## Groups -/

/-- The device with a group's record changed. -/
def modGroup (d : Dev) (gid : Nat) (f : Group → Group) : Dev := { d with groups := tmod d.groups gid f }
/-- The device with a team's record changed. -/
def modTeam (d : Dev) (tid : Nat) (f : Team → Team) : Dev := { d with teams := tmod d.teams tid f }
/-- The device with a partition's record changed. -/
def modPart (d : Dev) (p : Nat) (f : Part → Part) : Dev := { d with parts := tmod d.parts p f }
/-- The device with an operation changed. -/
def modOp (d : Dev) (id : Nat) (f : Op → Op) : Dev := { d with ops := tmod d.ops id f }
/-- The device without an operation. -/
def delOp (d : Dev) (id : Nat) : Dev := { d with ops := tdel d.ops id }

/-- A partition's record when it is assigned: empty queues, ptr 0, its first credit and its bucket (09 R323, R333). DESIGN CHOICE: its last
placement counts as octant 7, so that the lowest octant is tried first (log 98). -/
def newPart (octs : List Nat) (credit bucket : Nat) : Part :=
  { octs := octs, queues := [], ptr := 0, credit := credit, lastOct := 7, galleys := [], runs := [],
    bucket := bucket, window := [], mxhold := false, haltAt := 0, haltSeq := 0, haltDet := 0, haltGrp := none, stopped := [], written := [],
    causes := [], failed := [], left := [], releasing := false, clearing := none, comps := [] }

/-- A unit makes an internal step: its watchdog begins again (14 R404). -/
def stepped (d : Dev) (unit : Nat) : Dev := { d with progress := tdel d.progress unit }
/-- A check of the unit's storage or datapaths has failed, or of another unit's of its core, whose registers, scratchpad and AM it reads. -/
def coreBad (d : Dev) (u : Nat) : Bool := d.links.badUnits.any (fun b => b == u || (decide (u < 960) && b / 5 == u / 5))
/-- A unit of a partition has not stopped, no halt is older than its bound (14 R407), and no check of its storage or datapaths has
failed, after which it makes no step that could carry the value on (14 R403, log 69). -/
def unitRuns (d : Dev) (p u : Nat) : Bool :=
  match tget d.parts p with
  | some q => (tget q.stopped u).isNone && !coreBad d u && (!halted d p || decide (d.cyc < q.haltAt + stopBound u))
  | none => false

/-- The partition of a team. -/
def teamPart (d : Dev) (tid : Nat) : Nat := ((tget d.teams tid).map (fun t => t.part)).getD 0
/-- The task of a team's grid. -/
def teamTask (d : Dev) (tid : Nat) : Option Task :=
  (tget d.teams tid).bind (fun t => (tget d.grids t.grid).map (fun g => g.task))

/-- GRPID (02 R59). -/
def grpid (g : Group) : DWord := BitVec.ofNat 64 (g.gintm * 2 ^ 60 + g.gidx)
/-- TEAMID (02 R60). -/
def teamid (d : Dev) (g : Group) : DWord :=
  match tget d.teams g.tid with
  | some t => BitVec.ofNat 64 (t.slot * 2 ^ 56 + t.core * 2 ^ 48 + t.tidx)
  | none => 0
/-- CLPOS (02 R61). -/
def clpos (d : Dev) (g : Group) : DWord :=
  match tget d.teams g.tid with
  | some t =>
    let k := teamTask d g.tid
    let cl := ((tget d.clusters t.cid).map (fun c => c.clidx)).getD 0
    BitVec.ofNat 64 ((k.map (fun k => k.chm)).getD 0 * 2 ^ 40 + (k.map (fun k => k.cwm)).getD 0 * 2 ^ 38 +
      t.row * 2 ^ 32 + t.col * 2 ^ 30 + cl)
  | none => 0
/-- WBASE (02 R62). -/
def wbase (g : Group) : DWord := BitVec.ofNat 64 (g.depth * 2 ^ 16 + g.wb % 2 ^ 16)
/-- STRC (02 R68). -/
def strc (g : Group) : DWord :=
  BitVec.ofNat 64 (g.cnt.getD 3 0 * 2 ^ 24 + g.cnt.getD 2 0 * 2 ^ 16 + g.cnt.getD 1 0 * 2 ^ 8 + g.cnt.getD 0 0)

/-- A lane is live: it has not exited and no call record holds it (02 R41). -/
def liveLane (g : Group) (l : Nat) : Bool := g.lpc.getD l 0xFFFFFFFF#32 != 0xFFFFFFFF#32 && !mbit g.held l
/-- The live lanes of a group. -/
def liveSet (g : Group) : Mask := maskOf g.width (liveLane g)
/-- The least PC among the live lanes (02 R41). -/
def minPc (g : Group) : Option Word :=
  ((List.range g.width).filter (liveLane g)).foldl (fun acc l =>
    let x := g.lpc.getD l 0#32
    match acc with
    | none => some x
    | some y => some (if x.toNat < y.toNat then x else y)) none

/-! ## Context-fatal faults and reports (14 R406, 15 R439, 16 R454) -/

/-- The cause of a reason code (16 R455). -/
def causeOf (reason : Nat) : Nat :=
  if reason < 0x20 then 2 else if reason < 0x30 then 1 else if reason < 0x40 then 3 else if reason < 0x50 then 6
  else if reason < 0x60 then 7 else if reason < 0x70 then 9 else 0x0A

/-- The fault detail word (16 R454). -/
def fdet (rslot reason lane slot : Nat) (pcx : Word) : DWord :=
  BitVec.ofNat 64 (rslot * 2 ^ 48 + reason * 2 ^ 40 + lane * 2 ^ 34 + slot * 2 ^ 32 + pcx.toNat)

/-- A source's event put at the end of an arbiter's line (14 R416): queue 0 to 7 a partition's, 8 the device's. -/
def postEvent (d : Dev) (q : Nat) (e : Event) : Dev :=
  { d with events := tput d.events q (tgetD d.events q [] ++ [e]) }

/-- A halting cause raised by a unit of partition p (14 R406), for a packet of a group of a core. -/
def raiseHaltBy (d : Dev) (p unit cause : Nat) (detail : DWord) (grp : Option (Nat × DWord)) : Dev :=
  postEvent d p { held := false, unit := unit, kind := 3, cause := cause, detail := detail, cyc := d.cyc, grp := grp }
/-- A halting cause that no packet of a group raised. -/
def raiseHalt (d : Dev) (p unit cause : Nat) (detail : DWord) : Dev := raiseHaltBy d p unit cause detail none

/-- A group's context-fatal fault: the event of its core, and the group issues nothing more. -/
def groupFatal (d : Dev) (gid reason lane slot : Nat) (pcx : Word) : Dev :=
  match tget d.groups gid with
  | some g =>
    modGroup (raiseHaltBy d (teamPart d g.tid) (unitCore g.core) (causeOf reason) (fdet g.rslot reason lane slot pcx) (some (g.core, grpid g))) gid
      (fun g => { g with bound := { g.bound with dead := true } })
  | none => d

/-- The adapter raises an MSI-X vector (11 R369). -/
def raiseMsix (d : Dev) (v : Nat) : Dev := { d with msix := tput d.msix v (tgetD d.msix v 0 + 1) }

/-- ACC of a fault record (15 R438). -/
def accCode : AccKind → Nat
  | .read => 0 | .write => 1 | .atomic => 2 | .fetch => 3

/-- A record of a page of a partition is unretired in an octant's buffer (15 R439). -/
def recordOf (d : Dev) (p oct page : Nat) : Option Nat :=
  d.reports.findSome? (fun r =>
    match r.2.st with
    | .record o n => if r.2.part == p && o == oct && r.2.page == page then some n else none
    | _ => none)

/-- The fault buffer of an octant accepts a record: EN = 1 and it is not full (15 R437). -/
def fltqRoom (d : Dev) (o : Nat) : Bool :=
  let x := (regGet d (offFltq o + 8)).toNat
  bit x 48 && (bits x 16 11 + 2048 - bits x 0 11) % 2048 != 1024

/-- FAULT_REPORT (15 R439): a report whose walk has failed merges, writes a record (R438), or is refused and backs off. -/
def reportPass (d : Dev) (r : Report) : Dev × Report :=
  match recordOf d r.part r.oct r.page with
  | some n => (d, { r with st := .record r.oct n })
  | none =>
    if fltqRoom d r.oct then
      let x := (regGet d (offFltq r.oct + 8)).toNat
      let n := bits x 16 11
      let a := regBits d (offFltq r.oct) 15 49 * 32768 + 32 * (n % 1024)
      let w8 := r.part + accCode r.acc * 2 ^ 3 + r.lvl * 2 ^ 5 + r.src * 2 ^ 8 + r.unit * 2 ^ 16
      let bs := leBytes r.va 8 ++ leBytes w8 8 ++ leBytes r.entry.toNat 8 ++ leBytes d.cyc 8
      let d := netAdd (hostWrite d a bs) (96 + r.oct) r.part 2
      let d := regPut d (offFltq r.oct + 8) 16 11 (n + 1)
      (raiseMsix d (17 + r.oct), { r with st := .record r.oct n })
    else
      let k := regBits d (offFltq r.oct + 8) 32 16
      (regPut d (offFltq r.oct + 8) 32 16 (if k < 0xFFFF then k + 1 else k),
        { r with st := .backoff (d.cyc + r.delay) (if 2 * r.delay < 65536 then 2 * r.delay else 65536) })

/-- The report of a page that a unit already makes. -/
def reportAt (d : Dev) (p unit page : Nat) : Option Nat :=
  (d.reports.find? (fun r => r.2.part == p && r.2.unit == unit && r.2.page == page)).map (fun r => r.1)

/-- A unit whose walk failed reports the page, or the access waits on the report that the unit already makes (15 R439). -/
def addReport (d : Dev) (p unit src va lvl e : Nat) (acc : AccKind) (who : Waiter) : Dev :=
  match reportAt d p unit (va / 65536 * 65536) with
  | some i => { d with reports := tmod d.reports i (fun r => if r.who.contains who then r else { r with who := r.who ++ [who] }) }
  | none =>
    let r : Report := { part := p, oct := unitOctant unit, page := va / 65536 * 65536, va := va, acc := acc, lvl := lvl,
                        entry := BitVec.ofNat 64 e, src := src, unit := unit, who := [who], st := .walk, delay := 256 }
    let x := reportPass d r
    { x.1 with reports := tput x.1.reports x.1.fresh x.2, fresh := x.1.fresh + 1 }

/-- Some report is outstanding on which a waiter of a kind waits. -/
def waitingFor (d : Dev) (q : Waiter → Bool) : Bool := d.reports.any (fun r => r.2.who.any q)
/-- Some report of a waiter is outstanding. -/
def waiting (d : Dev) (w : Waiter) : Bool := waitingFor d (fun x => x == w)
/-- A group waits on a page: its fetch, slide or frame, or a load word of its packet. -/
def groupWaits (d : Dev) (gid : Nat) : Bool :=
  waitingFor d (fun x => match x with
    | .group i => i == gid
    | .word i _ => i == gid
    | _ => false)
/-- An operation waits on a page, or a lane of it. -/
def opWaits (d : Dev) (id : Nat) : Bool :=
  waitingFor d (fun x => match x with
    | .op i => i == id
    | .lane i _ => i == id
    | _ => false)

/-- A group waits on the mapping of a page its packet, slide or frame needs (15 R434, R432, R431). -/
def groupWait (d : Dev) (gid core : Nat) (src va lvl e : Nat) (acc : AccKind) : Dev :=
  let p := ((tget d.groups gid).map (fun g => teamPart d g.tid)).getD 0
  modGroup (addReport d p (unitCore core) src va lvl e acc (.group gid)) gid
    (fun g => { g with bound := { g.bound with fault := true } })

/-- A failed access of the core on a group's behalf: it waits, or the fault is context-fatal (15 R431, R432). -/
def groupErr (d : Dev) (gid : Nat) (g : Group) (slot : Nat) (pcx : Word) (e : MemErr) : Dev :=
  match e with
  | .xl va lvl en acc => groupWait d gid g.core 7 va lvl en acc
  | .prot reason _ => groupFatal d gid reason 0 slot pcx
  | .link unit =>
    modGroup (raiseHaltBy d (teamPart d g.tid) unit 0x0B 0 (some (g.core, grpid g))) gid (fun g => { g with bound := { g.bound with dead := true } })
  | .busy => d

/-! ## Operations in flight (03 R91 to R95) -/

/-- The word writes a register when its operation completes (05 R153, 02 R49). -/
def writesReg : Instr → Bool
  | .ld _ _ _ _ _ => true | .ldnc _ _ _ _ _ => true | .lds _ _ _ _ _ => true | .ldu _ _ _ _ _ => true
  | .ldAcq _ _ _ _ _ => true
  | .atom _ d _ _ _ => d.isV | .cas _ d _ _ => d.isV | .atomSwap _ d _ _ => d.isV | .fatom _ d _ _ _ => d.isV
  | .rpop _ _ _ => true | .racq _ _ _ => true | .rstat _ _ _ => true
  | .mxq _ _ => true | .acld _ _ _ => true | .xrndE32 _ _ _ _ => true | .xrndE64 _ _ _ _ => true
  | .trace _ _ _ => true | .vmarch _ _ _ => true | .ovq _ _ _ => true | .attr _ _ _ => true | .dsc _ _ _ => true
  | .tex _ _ _ => true | .slg _ _ _ => true
  | _ => false

/-- The word holds its group until its operation completes (07 R244, R250; 08 R285). -/
def holdsGroup : Instr → Bool
  | .racq _ _ _ => true | .rpop _ _ _ => true | .barw _ _ => true | .cbarw _ => true
  | .xrndE32 _ _ _ _ => true | .xrndE64 _ _ _ _ => true
  | _ => false

/-- The word is a store kind: what a tret waits for (07 R259). -/
def storeKind : Instr → Bool
  | .st _ _ _ _ _ => true | .stm _ _ _ _ => true | .stRel _ _ _ _ _ => true
  | .atom _ _ _ _ _ => true | .cas _ _ _ _ => true | .atomSwap _ _ _ _ => true | .fatom _ _ _ _ _ => true
  | .xaddS _ _ _ => true | .xaddD _ _ _ => true | .vbt _ _ _ => true
  | _ => false

/-- The word is an engine command (03 R91, R99): what a team's retirement waits for (02 R37). -/
def isEngine : Instr → Bool
  | .mxd _ _ => true | .mxb _ _ => true | .mxg _ _ => true | .mxq _ _ => true
  | .acld _ _ _ => true | .acst _ _ _ => true | .aczr _ _ _ => true | .xaccE32 _ _ _ => true | .xaccE64 _ _ _ => true
  | .xrndE32 _ _ _ _ => true | .xrndE64 _ _ _ _ => true | .xmovSt _ _ _ => true | .xmovLd _ _ _ => true
  | .trace _ _ _ => true | .vmarch _ _ _ => true | .ovq _ _ _ => true | .refit _ _ => true
  | .attr _ _ _ => true | .dsc _ _ _ => true | .rbin _ _ _ => true | .tex _ _ _ => true | .slg _ _ _ => true
  | _ => false

/-- A predicate holds of some operation of a group. -/
def anyOp (d : Dev) (gid : Nat) (q : Op → Bool) : Bool := d.ops.any (fun o => o.2.gid == gid && q o.2)

/-- The group awaits a load or engine result (02 R49). -/
def regPending (d : Dev) (gid : Nat) : Bool := anyOp d gid (fun o => writesReg o.word && !o.gather)

/-- The stream counts with one count changed. -/
def cntMod (c : List Nat) (s : Nat) (f : Nat → Nat) : List Nat :=
  (List.range 4).map (fun i => if i = s then f (c.getD i 0) else c.getD i 0)

/-- The completion of an operation (03 R91, R94): it leaves, and its stream's count falls by one, in the group or in the
core's eviction table (15 R446). -/
def completeOp (d : Dev) (id : Nat) : Dev :=
  match tget d.ops id with
  | none => d
  | some o =>
    let d := delOp d id
    if o.gather then d
    else
      match tget d.groups o.gid with
      | some g =>
        if g.place == .evicted then
          modCore d o.core (fun k => { k with evict := tmod k.evict o.gid (fun c => cntMod c o.stream (· - 1)) })
        else modGroup d o.gid (fun g => { g with cnt := cntMod g.cnt o.stream (· - 1) })
      | none => d

/-! ## Taking a user trap and returning from it (15 R429 to R431, 07 R259) -/

/-- The group's side-log entries in a stream, in log order: their slots (15 R431). -/
def sideLogOf (d : Dev) (gid s : Nat) : List Nat :=
  match tget d.groups gid with
  | none => []
  | some g =>
    let xs := (tgetD d.cores g.core default).slog.filter (fun e =>
      match tget d.ops e.2.1 with
      | some o => o.gid == gid && o.stream == s
      | none => false)
    let key := fun (e : Nat × Nat × Nat) =>
      ((tget d.ops e.2.1).bind (fun o => (o.accs.find? (fun a => a.lane == e.2.2)).bind (fun a => a.log.map (fun x => x.2)))).getD 0
    match xs with
    | [] => []
    | x :: t => (t.foldl (fun a e => if key e < key a then e else a) x).1 :: (t.map (fun e => e.1))

/-- The trap frame of R431. -/
def trapFrame (d : Dev) (gid : Nat) (g : Group) (t : TrapReq) : List Byte :=
  let w0 := 1 + g.width * 2 ^ 8 + t.cause.toNat * 2 ^ 16 + t.code.toNat * 2 ^ 24 + t.slot * 2 ^ 40 + t.dest.toNat * 2 ^ 42
  let stream := fun s =>
    let sl := sideLogOf d gid s
    leBytes (g.cnt.getD s 0 + sl.length * 2 ^ 8 + sl.headD 0 * 2 ^ 24) 8
  leBytes w0 8 ++ leBytes t.mask.toNat 8 ++ leBytes (wbase g).toNat 8 ++ leBytes (bits g.fps.toNat 0 5) 8 ++
    stream 0 ++ stream 1 ++ stream 2 ++ stream 3 ++
    (List.range g.width).flatMap (fun l => leBytes (g.lpc.getD l 0xFFFFFFFF#32).toNat 4) ++
    (List.range 8).flatMap (fun j => (List.range g.width).flatMap (fun l => leBytes (readV g j l).toNat 4))

/-- The address in TFRAME (02 R63). -/
def frameAddr (g : Group) : Nat := bits g.tframe.toNat 6 50 * 64

/-- A group whose minimum PC has changed notes the cycle (09 R332). -/
def pcMoved (cyc : Nat) (old new : Group) : Group := if minPc new = minPc old then new else { new with pcSince := cyc }

/-- The group after trap entry: the trap registers, the saved lane PCs and the handler's PC (15 R430 steps 2 and 3). -/
def enterHandler (g : Group) (t : TrapReq) : Group :=
  { g with
    tcause := BitVec.ofNat 64 (t.code.toNat * 2 ^ 16 + t.cause.toNat)
    tmask := t.mask
    tslot := BitVec.ofNat 64 (t.dest.toNat * 4 + t.slot)
    handler := some { saved := g.lpc, depth := g.depth }
    lpc := (List.range g.width).map (fun l =>
      if mbit g.held l then g.lpc.getD l 0xFFFFFFFF#32 else g.tvec.setWidth 32)
    bound := { g.bound with trap := none, xtrap := none, timer := false, fault := false } }

/-- TRAP_ENTRY (15 R430): the one way every user trap is taken. The frame is stored at TFRAME by the core's own stores; a
translation fault holds the group, a protection fault is context-fatal. -/
def takeTrap (d : Dev) (gid : Nat) (t : TrapReq) (fi : Nat) : Dev :=
  match tget d.groups gid with
  | none => d
  | some g =>
    if bit g.tvec.toNat 32 = false then groupFatal d gid 0x30 0 t.slot g.bound.pcx
    else
      match unitWriteWhole d (teamPart d g.tid) (.team g.tid) (.update g.core) (frameAddr g) (trapFrame d gid g t) fi with
      | .error e => groupErr d gid g t.slot g.bound.pcx e
      | .ok d1 => modGroup d1 gid (fun g => pcMoved d.cyc g (enterHandler g t))

/-- The group with no trap of its packet due. -/
def clearTrap (g : Group) : Group := { g with bound := { g.bound with trap := none, xtrap := none, timer := false } }

/-- A trap of the packet just committed falls due (15 R429): in a handler an enabled exception only leaves its flags, and a
trap instruction or an xrnd trap is context-fatal. -/
def dueTrap (d : Dev) (gid : Nat) (t : TrapReq) (xrnd : Bool) (fi : Nat) : Dev :=
  match tget d.groups gid with
  | none => d
  | some g =>
    if bit g.tvec.toNat 32 = false then groupFatal (modGroup d gid clearTrap) gid 0x30 0 t.slot g.bound.pcx
    else if g.handler.isSome then
      (if t.cause = 8#8 || xrnd then groupFatal (modGroup d gid clearTrap) gid 0x31 0 t.slot g.bound.pcx
       else modGroup d gid clearTrap)
    else takeTrap d gid t fi

/-- The timer has fallen due (02 R66). -/
def timerDue (g : Group) : Bool := bit g.tmcmp.toNat 63 && decide (bits g.tmcmp.toNat 0 63 ≤ g.gcyc.toNat)

/-- The request of a timer trap: cause 9 for the live lanes (15 R429). -/
def timerReq (g : Group) : TrapReq := { cause := 9, code := 0, mask := liveSet g, slot := 0, dest := 0 }

/-- The group with TMCMP.EN cleared. -/
def disarm (g : Group) : Group := { g with tmcmp := g.tmcmp &&& 0x7FFFFFFFFFFFFFFF#64 }

/-- The group after a tret: v0 to v7 from the frame, the saved lane PCs, and no trap registers (07 R259). -/
def leaveHandler (g : Group) (h : Handler) (frame : List Byte) : Group :=
  let base := 64 + 4 * g.width
  let word := fun i => BitVec.ofNat 32 (leNat ((frame.drop i).take 4))
  let g := (List.range 8).foldl (fun g j =>
    (List.range g.width).foldl (fun g l => writeV g j l (word (base + 4 * g.width * j + 4 * l))) g) g
  { g with tcause := 0, tmask := 0, tslot := 0, handler := none, lpc := h.saved, bound := { g.bound with tret := false, fault := false } }

/-- The return from a trap (07 R259): once every committed store of the group is complete, the frame is read at TFRAME. -/
def returnTrap (d : Dev) (gid : Nat) (fi : Nat) : Dev :=
  match tget d.groups gid with
  | none => d
  | some g =>
    match g.handler with
    | none => d
    | some h =>
      match unitRead d (teamPart d g.tid) (.team g.tid) (frameAddr g) (64 + 36 * g.width) fi with
      | .error e => groupErr d gid g g.bound.ctl g.bound.pcx e
      | .ok (bs, d1) => modGroup d1 gid (fun g => pcMoved d.cyc g (leaveHandler g h bs))

/-! ## Window slides (02 R45 to R49) -/

/-- The address of the spill area (02 R68). -/
def spillBase (g : Group) : Nat := bits g.spill.toNat 12 44 * 4096
/-- The size of the spill area in bytes (02 R68). -/
def spillSize (g : Group) : Nat := (bits g.spill.toNat 56 8 + 1) * 65536
/-- The bytes of absolute register a (R48). -/
def absBytes (g : Group) (a : Nat) : List Byte :=
  (List.range g.width).flatMap (fun l => leBytes (tgetD g.v (a % g.pool * 64 + l) 0#32).toNat 4)
/-- The pool with absolute register a set from bytes, or to zero when there are none. -/
def absPut (g : Group) (a : Nat) (bs : List Byte) : Group :=
  (List.range g.width).foldl (fun g l =>
    { g with v := tputD g.v (a % g.pool * 64 + l) (BitVec.ofNat 32 (leNat ((bs.drop (4 * l)).take 4))) 0#32 }) g
/-- The 16 bytes of a link record (R48). -/
def linkBytes (r : Link) : List Byte := leBytes (r.ret.toNat + r.frame * 2 ^ 32) 8 ++ leBytes r.held.toNat 8
/-- The link record of 16 bytes (R48). -/
def linkOf (bs : List Byte) : Link :=
  let a := leNat (bs.take 8)
  { ret := BitVec.ofNat 32 a, frame := bits a 32 6, held := BitVec.ofNat 64 (leNat (bs.drop 8)) }

/-- How many runs of eight registers a call spills: the least n with newtop − (L + 8 n) at most P (R46). -/
def spillRuns (g : Group) (newtop : Nat) : Nat := (newtop - g.wl - g.pool + 7) / 8

/-- The group after a call's slide (R46). -/
def callSlide (g : Group) (f : Nat) (ret : Word) (held : Mask) : Group :=
  let newtop := g.wb + f + 40
  let n := spillRuns g newtop
  let g := (List.range (newtop - (g.wb + 40))).foldl (fun g i => absPut g (g.wb + 40 + i) []) g
  { g with
    links := ({ ret := ret, frame := f, held := held } :: g.links).take 4
    depth := g.depth + 1
    held := g.held ||| held
    wl := g.wl + 8 * n
    wb := g.wb + f
    bound := { g.bound with slide := none, fault := false } }

/-- A call's slide on the device: the depth and spill checks of 15 R432, the spills, then the slide. -/
def doCall (d : Dev) (gid : Nat) (g : Group) (f : Nat) (ret : Word) (held : Mask) (fi : Nat) : Dev :=
  let newtop := g.wb + f + 40
  let n := spillRuns g newtop
  let top := 0x1000 + (g.wl + 8 * n) * 4 * g.width
  if 256 ≤ g.depth then groupFatal d gid 0x70 0 0 g.bound.pcx
  else if 0 < n ∧ spillSize g < top then groupFatal d gid 0x71 0 0 g.bound.pcx
  else
    let p := teamPart d g.tid
    let regs := (List.range (8 * n)).flatMap (fun i => absBytes g (g.wl + i))
    let a := spillBase g + 0x1000 + g.wl * 4 * g.width
    match unitWriteWhole d p (.team g.tid) (.update g.core) a regs fi with
    | .error e => groupErr d gid g g.bound.ctl g.bound.pcx e
    | .ok d1 =>
      let link := if g.links.length < 4 then [] else linkBytes (g.links.getD 3 default)
      match unitWriteWhole d1 p (.team g.tid) (.update g.core) (spillBase g + 16 * (g.depth - 4)) link fi with
      | .error e => groupErr d1 gid g g.bound.ctl g.bound.pcx e
      | .ok d2 => modGroup d2 gid (fun g => pcMoved d.cyc g (callSlide g f ret held))

/-- How many runs of eight registers a return refills (R47). -/
def refillRuns (g : Group) (nb : Nat) : Nat := (g.wl - nb + 7) / 8

/-- The group after a return's slide (R47), with the refilled registers and the link record that comes back on the core. -/
def retSlide (g : Group) (r : Link) (regs : List Byte) (below : List Link) : Group :=
  let nb := g.wb - r.frame
  let n := refillRuns g nb
  let lo := g.wl - 8 * n
  let g := (List.range (8 * n)).foldl (fun g i => absPut g (lo + i) (regs.drop (4 * g.width * i))) g
  { g with
    links := g.links.drop 1 ++ below
    depth := g.depth - 1
    wb := nb
    wl := lo
    lpc := (List.range g.width).map (fun l => if liveLane g l then r.ret else g.lpc.getD l 0xFFFFFFFF#32)
    held := g.held &&& ~~~r.held
    bound := { g.bound with slide := none, fault := false } }

/-- A return's slide on the device (R47), with its refills. -/
def doRet (d : Dev) (gid : Nat) (g : Group) (fi : Nat) : Dev :=
  match g.links with
  | [] => modGroup d gid (fun g => { g with bound := { g.bound with slide := none } })
  | r :: _ =>
    let n := refillRuns g (g.wb - r.frame)
    let lo := g.wl - 8 * n
    let p := teamPart d g.tid
    match unitRead d p (.team g.tid) (spillBase g + 0x1000 + lo * 4 * g.width) (8 * n * 4 * g.width) fi with
    | .error e => groupErr d gid g g.bound.ctl g.bound.pcx e
    | .ok (regs, d1) =>
      if 4 < g.depth then
        match unitRead d1 p (.team g.tid) (spillBase g + 16 * (g.depth - 5)) 16 fi with
        | .error e => groupErr d1 gid g g.bound.ctl g.bound.pcx e
        | .ok (bs, d2) => modGroup d2 gid (fun g => pcMoved d.cyc g (retSlide g r regs [linkOf bs]))
      else modGroup d1 gid (fun g => pcMoved d.cyc g (retSlide g r regs []))

/-- A window slide that is due, once no load or engine result of the group is awaited (R49). -/
def doSlide (d : Dev) (gid : Nat) (fi : Nat) : Dev :=
  match tget d.groups gid with
  | none => d
  | some g =>
    match g.bound.slide with
    | none => d
    | some (.call f ret held) => doCall d gid g f ret held fi
    | some .ret => doRet d gid g fi

end Sys2Proof.Machine
end

