-- ==== Sys2Proof/Machine/Control.lean ====
section
/-! DEFINITION. Majors 0x00 to 0x05: control transfer, traps, service calls, timers and special registers (06 R188 to R193,
07 R256 to R263). -/

namespace Sys2Proof.Machine

/-! ## Uses that depend on state (16 R458) -/

/-- The reason for which a word is illegal in the state in force when its packet is chosen; none where it is legal. -/
def illegalUse (g : Group) : Instr → Option Nat
  | .ret _ => if g.depth = 0 then some 0x10 else none
  | .pbar _ _ => if 0 < g.depth then some 0x11 else none
  | .tret _ =>
    (match g.handler with
     | none => some 0x12
     | some h => if h.depth = g.depth then none else some 0x12)
  | .lpcw _ _ => if g.handler.isSome then none else some 0x13
  | _ => none

/-- A word of the packet in progress, or the context-fatal fault of its illegal use. -/
def unlessIllegal (s : State) (i : Instr) (f : Packet → Packet) : Out :=
  let c := s.cur
  match illegalUse c.g0 i with
  | some r => withCur s { c with fatal := c.fatal ++ [{ cause := 2, reason := r, lane := 0, slot := c.slot }] }
  | none => withCur s (f c)

/-! ## Control transfer (06 R188 to R193) -/

/-- nop takes no pipe and changes no state (05 R146). -/
def execNop (_ : Bool) (s : State) : Out := withCur s s.cur

/-- exit: every lane of the active set takes the PC 0xFFFF_FFFF (R192). -/
def execExit (_ : Bool) (s : State) : Out := branch s (fun c => c.act) (fun _ _ => 0xFFFFFFFF#32)

/-- yield: no port chooses the group again for a while (R193). -/
def execYield (_ : Bool) (s : State) : Out := withCur s { s.cur with yield := true }

/-- ret performs R47 at the packet boundary: its lanes take the return index of the most recent link record. -/
def execRet (c : Bool) (s : State) : Out :=
  unlessIllegal s (.ret c) (fun p =>
    { jumpLanes p p.act (fun _ => (p.g0.links.headD default).ret) with slide := some .ret, ctl := p.slot })

/-- jmpi: each lane takes its own A value (R192). -/
def execJmpi (_ : Bool) (a : Operand) (s : State) : Out :=
  branch s (fun c => c.act) (fun c l => (readOp c false a l).setWidth 32)

/-- The packet with the call of R46 due at its boundary. -/
def calling (c : Packet) (f : BitVec 6) : Packet :=
  { c with slide := some (.call f.toNat (c.pc + 1#32) (liveSet c.g0 &&& ~~~c.act)), ctl := c.slot }

/-- calli: each lane takes its own A value, and the window slides by f (R191). -/
def execCalli (_ : Bool) (a : Operand) (f : BitVec 6) (s : State) : Out :=
  let c := s.cur
  withCur s (calling (jumpLanes c c.act (fun l => (readOp c false a l).setWidth 32)) f)

/-- call: every lane of the active set takes the target, and the window slides by f (R191). -/
def execCall (_ : Bool) (f : BitVec 6) (disp : BitVec 19) (s : State) : Out :=
  let c := s.cur
  withCur s (calling (jumpLanes c c.act (fun _ => target c disp)) f)

/-- The lanes of the active set whose bit in kN is 1. -/
def kLanes (c : Packet) (k : BitVec 3) : Mask := c.act &&& readK c.g0 k.toNat

/-- bra: the lanes whose bit of kN is 1 (R189). -/
def execBra (_ : Bool) (k : BitVec 3) (disp : BitVec 22) (s : State) : Out :=
  branch s (fun c => kLanes c k) (fun c _ => target c disp)

/-- brm: all of act when some lane's bit is 1 (R189). -/
def execBrm (_ : Bool) (k : BitVec 3) (disp : BitVec 21) (s : State) : Out :=
  branch s (fun c => if kLanes c k = 0#64 then 0#64 else c.act) (fun c _ => target c disp)

/-- bru: all of act when every lane's bit is 1 (R189). -/
def execBru (_ : Bool) (k : BitVec 3) (disp : BitVec 21) (s : State) : Out :=
  branch s (fun c => if kLanes c k = c.act then c.act else 0#64) (fun c _ => target c disp)

/-- The lanes of the active set whose A value, as 32 bits, is 0. -/
def zeroLanes (c : Packet) (a : Operand) : Mask := maskOf 64 (fun l => mbit c.act l && (readOp c false a l == 0#64))

/-- brz (R190). -/
def execBrz (_ : Bool) (a : Operand) (disp : BitVec 19) (s : State) : Out :=
  branch s (fun c => zeroLanes c a) (fun c _ => target c disp)

/-- brnz (R190). -/
def execBrnz (_ : Bool) (a : Operand) (disp : BitVec 19) (s : State) : Out :=
  branch s (fun c => c.act &&& ~~~zeroLanes c a) (fun c _ => target c disp)

/-! ## Traps and service calls (07 R257 to R259) -/

/-- trap: user-trap cause 0x08 for the active set, taken at the packet boundary; of two in one
packet the lower slot's is reported (R257, 02 R65). -/
def execTrap (_ : Bool) (code : BitVec 16) (s : State) : Out :=
  let c := s.cur
  withCur s { c with trap := some (c.trap.getD { cause := 8, code := code, mask := c.act, slot := c.slot, dest := 0 }) }

/-- tret: once the group's committed stores are complete, the trapped state returns (R259). -/
def execTret (c : Bool) (s : State) : Out := unlessIllegal s (.tret c) (fun p => { p with tret := true, ctl := p.slot })

/-- svc: the group holds for a reply of the host (R258); of two in one packet, one after the other in slot order. -/
def execSvc (_ : Bool) (code : BitVec 16) (s : State) : Out := withCur s { s.cur with svc := s.cur.svc ++ [code] }

/-! ## Special registers (07 R260 to R263, 02 R58 to R69) -/

/-- clk: the device cycle count (R262). -/
def execClk (h : AHdr) (d : Operand) (s : State) : Out := compute s h d true (fun _ _ => BitVec.ofNat 64 s.dev.cyc)

/-- The value of a special register as it stood before the packet (02 R59 to R68). A number of no register reads 0. -/
def srRead (d : Dev) (g : Group) (n : Nat) : DWord :=
  match n with
  | 0x00 => grpid g
  | 0x01 => teamid d g
  | 0x02 => clpos d g
  | 0x03 => BitVec.ofNat 64 g.width
  | 0x04 => wbase g
  | 0x05 => BitVec.ofNat 64 g.pool
  | 0x06 => g.tvec
  | 0x07 => g.tcause
  | 0x08 => g.tmask
  | 0x09 => g.tslot
  | 0x0A => g.tframe
  | 0x0B => g.tmcmp
  | 0x0C => g.gcyc
  | 0x0D => g.fps
  | 0x0E => g.fpe
  | 0x0F => g.rndkey
  | 0x10 => g.spill
  | 0x11 => strc g
  | _ => 0

/-- rdsr (R263, 02 R69). -/
def execRdsr (h : AHdr) (d : Operand) (n : BitVec 6) (s : State) : Out :=
  compute s h d true (fun c _ => srRead s.dev c.g0 n.toNat)

/-- The group with a special register written: reserved fields keep their reading of 0 (02 R58, R63, R67). -/
def srWrite (g : Group) (n : Nat) (x : DWord) : Group :=
  match n with
  | 0x06 => { g with tvec := x &&& 0x1FFFFFFFF#64 }
  | 0x0A => { g with tframe := x &&& 0x00FFFFFFFFFFFFC0#64 }
  | 0x0B => { g with tmcmp := x }
  | 0x0D => { g with fps := x &&& 0x1F#64 }
  | 0x0E => { g with fpe := x &&& 0x1F#64 }
  | 0x0F => { g with rndkey := x }
  | _ => g

/-- wrsr (R263): it takes effect at commit. -/
def execWrsr (_ : Bool) (n : BitVec 6) (a : Operand) (s : State) : Out :=
  let c := s.cur
  withCur s { c with g := srWrite c.g n.toNat (readUni c true a) }

/-- lpcr: the saved lane PC in a handler, the packet's own index outside (R260). -/
def execLpcr (h : AHdr) (d : Operand) (s : State) : Out :=
  compute s h d false (fun c l =>
    match c.g0.handler with
    | some x => (x.saved.getD l 0xFFFFFFFF#32).setWidth 64
    | none => c.pc.setWidth 64)

/-- lpcw: the saved lane PC of each lane of the active set (R260). -/
def execLpcw (c : Bool) (a : Operand) (s : State) : Out :=
  unlessIllegal s (.lpcw c a) (fun p =>
    match p.g.handler with
    | some x =>
      { p with g := { p.g with handler := some { x with saved := (List.range p.g0.width).map (fun l =>
          if mbit p.act l then (readOp p false a l).setWidth 32 else x.saved.getD l 0xFFFFFFFF#32) } } }
    | none => p)

/-- TMCMP after tmcmp with a value at a cycle count (R261). -/
def tmcmpVal (old gcyc a : DWord) : DWord :=
  if a = 0 then old &&& 0x7FFFFFFFFFFFFFFF#64 else (gcyc + a) ||| 0x8000000000000000#64

/-- tmcmp (R261). DESIGN CHOICE beside a wrsr TMCMP of the packet: log 78. -/
def execTmcmp (_ : Bool) (a : Operand) (s : State) : Out :=
  let c := s.cur
  withCur s { c with g := { c.g with tmcmp := tmcmpVal c.g0.tmcmp c.g0.gcyc (readUni c true a) } }

end Sys2Proof.Machine
end

