-- ==== Sys2Proof/Machine/IntOps.lean ====
section
/-! DEFINITION. The integer forms, majors 0x06 to 0x17 (06 R194 to R199). -/

namespace Sys2Proof.Machine

/-! ## Shared arithmetic -/

/-- A one-source function taken at the word's width; a 32-bit result is zero-extended (R185). -/
def onW1 (wide : Bool) (f : (w : Nat) → BitVec w → BitVec w) (a : DWord) : DWord :=
  if wide then f 64 a else (f 32 (a.setWidth 32)).setWidth 64
/-- A two-source function taken at the word's width. -/
def onW2 (wide : Bool) (f : (w : Nat) → BitVec w → BitVec w → BitVec w) (a b : DWord) : DWord :=
  if wide then f 64 a b else (f 32 (a.setWidth 32) (b.setWidth 32)).setWidth 64
/-- A three-source function taken at the word's width. -/
def onW3 (wide : Bool) (f : (w : Nat) → BitVec w → BitVec w → BitVec w → BitVec w) (a b x : DWord) : DWord :=
  if wide then f 64 a b x else (f 32 (a.setWidth 32) (b.setWidth 32) (x.setWidth 32)).setWidth 64

/-- A word of major 0x06 with two sources (R195). -/
def intWord (f : (w : Nat) → BitVec w → BitVec w → BitVec w) (h : AHdr) (wide : Bool) (d a b : Operand) (s : State) : Out :=
  compute s h d wide (fun c l => onW2 wide f (readOp c wide a l) (readOp c wide b l))
/-- A unary word of major 0x06 (R195). -/
def intWord1 (f : (w : Nat) → BitVec w → BitVec w) (h : AHdr) (wide : Bool) (d a : Operand) (s : State) : Out :=
  compute s h d wide (fun c l => onW1 wide f (readOp c wide a l))
/-- An immediate word: 64 bits wide with an s destination, 32 otherwise (R171, R197). -/
def immWord (f : (w : Nat) → BitVec w → BitVec w → BitVec w) (h : AHdr) (d a : Operand) (imm : DWord) (s : State) : Out :=
  compute s h d d.isS (fun c l => onW2 d.isS f (readOp c d.isS a l) imm)
/-- A three-source word (R171, R198). -/
def triWord (f : (w : Nat) → BitVec w → BitVec w → BitVec w → BitVec w) (h : AHdr) (d a b x : Operand) (s : State) : Out :=
  compute s h d d.isS (fun c l => onW3 d.isS f (readOp c d.isS a l) (readOp c d.isS b l) (readOp c d.isS x l))

/-- Bits [2w−1:w] of the signed product (R195). -/
def mulHigh (w : Nat) (a b : BitVec w) : BitVec w := BitVec.ofInt w (a.toInt * b.toInt / (2 ^ w : Nat))
/-- Bits [2w−1:w] of the unsigned product (R195). -/
def mulHighU (w : Nat) (a b : BitVec w) : BitVec w := BitVec.ofNat w (a.toNat * b.toNat / 2 ^ w)
/-- The lesser of two signed values, the first where they are equal (R195). -/
def smin (w : Nat) (a b : BitVec w) : BitVec w := if a.sle b then a else b
/-- The greater of two signed values (R195). -/
def smax (w : Nat) (a b : BitVec w) : BitVec w := if b.sle a then a else b
/-- The lesser of two unsigned values (R195). -/
def umin (w : Nat) (a b : BitVec w) : BitVec w := if a ≤ b then a else b
/-- The greater of two unsigned values (R195). -/
def umax (w : Nat) (a b : BitVec w) : BitVec w := if b ≤ a then a else b
/-- |sa| mod 2^w: the least value is its own magnitude (R195). -/
def sabs (w : Nat) (a : BitVec w) : BitVec w := if a.msb then -a else a
/-- A shift count taken modulo w (R195). -/
def shiftCount (w : Nat) (b : BitVec w) : Nat := b.toNat % w
def shlW (w : Nat) (a b : BitVec w) : BitVec w := a <<< shiftCount w b
def shrW (w : Nat) (a b : BitVec w) : BitVec w := a >>> shiftCount w b
def sraW (w : Nat) (a b : BitVec w) : BitVec w := a.sshiftRight (shiftCount w b)
/-- The count of leading zero bits; w when the value is 0 (R195). -/
def clzW (w : Nat) (a : BitVec w) : BitVec w :=
  BitVec.ofNat w (if a = 0#w then w else w - 1 - Nat.log2 a.toNat)
/-- The count of one bits (R195). -/
def popcW (w : Nat) (a : BitVec w) : BitVec w :=
  BitVec.ofNat w ((List.range w).foldl (fun n i => if a.getLsbD i then n + 1 else n) 0)
/-- Bit i of the result is bit w − 1 − i of the source (R195). -/
def brevW (w : Nat) (a : BitVec w) : BitVec w :=
  BitVec.ofNat w ((List.range w).foldl (fun n i => if a.getLsbD i then n + 2 ^ (w - 1 - i) else n) 0)

/-! ## Major 0x06 -/

def execAdd (h : AHdr) (wide : Bool) (d a b : Operand) (s : State) : Out := intWord (fun _ x y => x + y) h wide d a b s
def execSub (h : AHdr) (wide : Bool) (d a b : Operand) (s : State) : Out := intWord (fun _ x y => x - y) h wide d a b s
def execMul (h : AHdr) (wide : Bool) (d a b : Operand) (s : State) : Out := intWord (fun _ x y => x * y) h wide d a b s
def execMulh (h : AHdr) (wide : Bool) (d a b : Operand) (s : State) : Out := intWord mulHigh h wide d a b s
def execMulhu (h : AHdr) (wide : Bool) (d a b : Operand) (s : State) : Out := intWord mulHighU h wide d a b s
def execMin (h : AHdr) (wide : Bool) (d a b : Operand) (s : State) : Out := intWord smin h wide d a b s
def execMax (h : AHdr) (wide : Bool) (d a b : Operand) (s : State) : Out := intWord smax h wide d a b s
def execMinu (h : AHdr) (wide : Bool) (d a b : Operand) (s : State) : Out := intWord umin h wide d a b s
def execMaxu (h : AHdr) (wide : Bool) (d a b : Operand) (s : State) : Out := intWord umax h wide d a b s
def execAbs (h : AHdr) (wide : Bool) (d a : Operand) (s : State) : Out := intWord1 sabs h wide d a s
def execAnd (h : AHdr) (wide : Bool) (d a b : Operand) (s : State) : Out := intWord (fun _ x y => x &&& y) h wide d a b s
def execOr (h : AHdr) (wide : Bool) (d a b : Operand) (s : State) : Out := intWord (fun _ x y => x ||| y) h wide d a b s
def execXor (h : AHdr) (wide : Bool) (d a b : Operand) (s : State) : Out := intWord (fun _ x y => x ^^^ y) h wide d a b s
def execAndn (h : AHdr) (wide : Bool) (d a b : Operand) (s : State) : Out := intWord (fun _ x y => x &&& ~~~y) h wide d a b s
def execShl (h : AHdr) (wide : Bool) (d a b : Operand) (s : State) : Out := intWord shlW h wide d a b s
def execShr (h : AHdr) (wide : Bool) (d a b : Operand) (s : State) : Out := intWord shrW h wide d a b s
def execSra (h : AHdr) (wide : Bool) (d a b : Operand) (s : State) : Out := intWord sraW h wide d a b s
def execClz (h : AHdr) (wide : Bool) (d a : Operand) (s : State) : Out := intWord1 clzW h wide d a s
def execPopc (h : AHdr) (wide : Bool) (d a : Operand) (s : State) : Out := intWord1 popcW h wide d a s
def execBrev (h : AHdr) (wide : Bool) (d a : Operand) (s : State) : Out := intWord1 brevW h wide d a s
def execMov (h : AHdr) (wide : Bool) (d a : Operand) (s : State) : Out := intWord1 (fun _ x => x) h wide d a s

/-- The carry in of a lane: its bit of k7, or bit lf with an s destination (R196). -/
def carryIn (c : Packet) (d : Operand) (l : Nat) : Nat :=
  if mbit (readK c.g0 7) (if d.isS then lf c else l) then 1 else 0

/-- A carry form: the result, and the carry out to k7 in the lanes it stands for, whatever W is (R196). -/
def carryWord (r : (w : Nat) → BitVec w → BitVec w → Nat → BitVec w) (co : Nat → Nat → Nat → Nat → Bool)
    (h : AHdr) (wide : Bool) (d a b : Operand) (s : State) : Out :=
  let c := s.cur
  let w := if wide then 64 else 32
  let val := fun l => onW2 wide (fun n x y => r n x y (carryIn c d l)) (readOp c wide a l) (readOp c wide b l)
  let out := fun l => co w (readOp c wide a l).toNat (readOp c wide b l).toNat (carryIn c d l)
  let c1 := putResult c d h.w wide val
  let lanes := if d.isS then BitVec.ofNat 64 (2 ^ lf c) else c.act
  let k := (readK c1.g 7 &&& ~~~lanes) ||| maskOf 64 (fun l => mbit lanes l && out l)
  withCur s { c1 with g := writeK c1.g 7 k }

def execAddc (h : AHdr) (wide : Bool) (d a b : Operand) (s : State) : Out :=
  carryWord (fun n x y ci => x + y + BitVec.ofNat n ci) (fun w x y ci => decide (2 ^ w ≤ x + y + ci)) h wide d a b s
def execSubb (h : AHdr) (wide : Bool) (d a b : Operand) (s : State) : Out :=
  carryWord (fun n x y ci => x - y - BitVec.ofNat n ci) (fun _ x y ci => decide (x < y + ci)) h wide d a b s

/-! ## Immediates (R197) -/

def execAddi (h : AHdr) (d a : Operand) (imm : BitVec 12) (s : State) : Out :=
  immWord (fun _ x y => x + y) h d a (imm.signExtend 64) s
def execAndi (h : AHdr) (d a : Operand) (imm : BitVec 12) (s : State) : Out :=
  immWord (fun _ x y => x &&& y) h d a (imm.setWidth 64) s
def execOri (h : AHdr) (d a : Operand) (imm : BitVec 12) (s : State) : Out :=
  immWord (fun _ x y => x ||| y) h d a (imm.setWidth 64) s
def execXori (h : AHdr) (d a : Operand) (imm : BitVec 12) (s : State) : Out :=
  immWord (fun _ x y => x ^^^ y) h d a (imm.setWidth 64) s
def execShli (h : AHdr) (d a : Operand) (imm : BitVec 6) (s : State) : Out := immWord shlW h d a (imm.setWidth 64) s
def execShri (h : AHdr) (d a : Operand) (imm : BitVec 6) (s : State) : Out := immWord shrW h d a (imm.setWidth 64) s
def execSrai (h : AHdr) (d a : Operand) (imm : BitVec 6) (s : State) : Out := immWord sraW h d a (imm.setWidth 64) s

/-- li and lui carry no W bit (R194). -/
def liHdr (c : Bool) : AHdr := { c := c, w := false }
/-- The value of lui: cat(imm19, 13 zero bits) as 32 bits, sign-extended for an s destination (R197). -/
def luiVal (imm : BitVec 19) : Word := imm ++ 0#13
def execLi (c : Bool) (d : Operand) (imm : BitVec 19) (s : State) : Out :=
  compute s (liHdr c) d d.isS (fun _ _ => imm.signExtend 64)
def execLui (c : Bool) (d : Operand) (imm : BitVec 19) (s : State) : Out :=
  compute s (liHdr c) d d.isS (fun _ _ => (luiVal imm).signExtend 64)

/-! ## Three sources (R198) -/

def madW (w : Nat) (a b x : BitVec w) : BitVec w := a * b + x
/-- Bits [2w−1:w] of cat(a, b) × 2^n. -/
def fshlW (w : Nat) (a b x : BitVec w) : BitVec w :=
  BitVec.ofNat w ((a.toNat * 2 ^ w + b.toNat) * 2 ^ (x.toNat % w) / 2 ^ w)
/-- Bits [w−1:0] of cat(a, b) >> n. -/
def fshrW (w : Nat) (a b x : BitVec w) : BitVec w :=
  BitVec.ofNat w ((a.toNat * 2 ^ w + b.toNat) / 2 ^ (x.toNat % w))
/-- The length of a field that is cut at bit w − 1 (R198). -/
def fieldLen (w len pos : Nat) : Nat := if len < w - pos then len else w - pos
def bfxW (w : Nat) (a b x : BitVec w) : BitVec w :=
  let pos := b.toNat % w
  BitVec.ofNat w (bits a.toNat pos (fieldLen w (bits x.toNat 0 7) pos))
def bfxsW (w : Nat) (a b x : BitVec w) : BitVec w :=
  let pos := b.toNat % w
  let len := fieldLen w (bits x.toNat 0 7) pos
  let r := bits a.toNat pos len
  if 0 < len ∧ bit r (len - 1) then BitVec.ofInt w ((r : Int) - (2 ^ len : Nat)) else BitVec.ofNat w r
def bfiW (w : Nat) (a b x : BitVec w) : BitVec w :=
  let pos := bits x.toNat 0 6 % w
  let len := fieldLen w (bits x.toNat 8 7) pos
  let m := BitVec.ofNat w ((2 ^ len - 1) * 2 ^ pos)
  (a &&& ~~~m) ||| (BitVec.ofNat w (b.toNat * 2 ^ pos) &&& m)

def execMad (h : AHdr) (d a b x : Operand) (s : State) : Out := triWord madW h d a b x s
def execFshl (h : AHdr) (d a b x : Operand) (s : State) : Out := triWord fshlW h d a b x s
def execFshr (h : AHdr) (d a b x : Operand) (s : State) : Out := triWord fshrW h d a b x s
def execBfx (h : AHdr) (d a b x : Operand) (s : State) : Out := triWord bfxW h d a b x s
def execBfxs (h : AHdr) (d a b x : Operand) (s : State) : Out := triWord bfxsW h d a b x s
def execBfi (h : AHdr) (d a b x : Operand) (s : State) : Out := triWord bfiW h d a b x s
/-- sel takes a where the lane's bit of kN is 1, bit lf with an s destination (R198). -/
def execSel (h : AHdr) (d a b : Operand) (k : BitVec 3) (s : State) : Out :=
  compute s h d d.isS (fun c l =>
    if mbit (readK c.g0 k.toNat) (if d.isS then lf c else l) then readOp c d.isS a l else readOp c d.isS b l)

/-! ## icmp (R199) -/

/-- The predicate of icmp on two values of width w. -/
def ipredW (p : IPred) (w : Nat) (a b : BitVec w) : Bool :=
  match p with
  | .eq => a == b
  | .ne => a != b
  | .lt => a.slt b
  | .le => a.sle b
  | .gt => b.slt a
  | .ge => b.sle a
  | .ltu => a.ult b
  | .leu => a.ule b
  | .gtu => b.ult a
  | .geu => b.ule a

def execIcmp (_ : Bool) (k : BitVec 3) (wide : Bool) (p : IPred) (a b : Operand) (s : State) : Out :=
  let c := s.cur
  withCur s (maskResult c k (fun l =>
    let x := readOp c wide a l
    let y := readOp c wide b l
    if wide then ipredW p 64 x y else ipredW p 32 (x.setWidth 32) (y.setWidth 32)))

end Sys2Proof.Machine
end

