-- ==== Sys2Proof/Machine/FloatOps.lean ====
section
/-! DEFINITION. The floating-point forms, majors 0x18 to 0x21, and the special functions, major 0x26 (06 R200 to R205, R212). -/

namespace Sys2Proof.Machine

/-! ## Elements -/

/-- A function of one element taken over the elements of a value: the whole value for .s and .d, each half for .h2 and .b2,
whose flags are combined by OR (06 R185, 04 R124). -/
def elem1 (fs : FS) (f : FC → Nat → Nat × Flags) (a : DWord) : DWord × Flags :=
  match fs with
  | .s => (let r := f .fp32 (bits a.toNat 0 32); (BitVec.ofNat 64 r.1, r.2))
  | .d => (let r := f .fp64 a.toNat; (BitVec.ofNat 64 r.1, r.2))
  | fs =>
    let lo := f fs.fc (bits a.toNat 0 16)
    let hi := f fs.fc (bits a.toNat 16 16)
    (BitVec.ofNat 64 (lo.1 + hi.1 * 2 ^ 16), lo.2 ||| hi.2)

/-- A function of two elements taken over the elements of two values. -/
def elem2 (fs : FS) (f : FC → Nat → Nat → Nat × Flags) (a b : DWord) : DWord × Flags :=
  match fs with
  | .s => (let r := f .fp32 (bits a.toNat 0 32) (bits b.toNat 0 32); (BitVec.ofNat 64 r.1, r.2))
  | .d => (let r := f .fp64 a.toNat b.toNat; (BitVec.ofNat 64 r.1, r.2))
  | fs =>
    let lo := f fs.fc (bits a.toNat 0 16) (bits b.toNat 0 16)
    let hi := f fs.fc (bits a.toNat 16 16) (bits b.toNat 16 16)
    (BitVec.ofNat 64 (lo.1 + hi.1 * 2 ^ 16), lo.2 ||| hi.2)

/-- fadd of one element (R201). -/
def addElem (rm : RM) (f : FC) (a b : Nat) : Nat × Flags := rndFl (xAdd rm (unpack f a) (unpack f b)) f rm
/-- fsub of one element (R201). -/
def subElem (rm : RM) (f : FC) (a b : Nat) : Nat × Flags := rndFl (xAdd rm (unpack f a) (unpack f b).neg) f rm
/-- fmul of one element (R201). -/
def mulElem (rm : RM) (f : FC) (a b : Nat) : Nat × Flags := rndFl (xMul (unpack f a) (unpack f b)) f rm
/-- fdiv of one element (R201). -/
def divElem (rm : RM) (f : FC) (a b : Nat) : Nat × Flags := rndFl (xDiv (unpack f a) (unpack f b)) f rm
/-- fsqrt of one element (R201). -/
def sqrtElem (rm : RM) (f : FC) (a : Nat) : Nat × Flags := rndFl (xSqrt (unpack f a)) f rm

/-- ffma of one element: the exact a × b + c, rounded once; 0 × ∞ is invalid whatever c is (R201, 04 R126). -/
def fmaElem (f : FC) (a b x : Nat) : Nat × Flags :=
  let c := unpack f x
  let p := xMul (unpack f a) (unpack f b)
  let r := xAdd .rne p.1 c
  let q := rnd r.1 f .rne 0
  (q.1, q.2 ||| p.2 ||| r.2)

/-- ffma over the elements of three values. -/
def fmaVal (fs : FS) (a b x : DWord) : DWord × Flags :=
  match fs with
  | .s => (let r := fmaElem .fp32 (bits a.toNat 0 32) (bits b.toNat 0 32) (bits x.toNat 0 32); (BitVec.ofNat 64 r.1, r.2))
  | .d => (let r := fmaElem .fp64 a.toNat b.toNat x.toNat; (BitVec.ofNat 64 r.1, r.2))
  | fs =>
    let lo := fmaElem fs.fc (bits a.toNat 0 16) (bits b.toNat 0 16) (bits x.toNat 0 16)
    let hi := fmaElem fs.fc (bits a.toNat 16 16) (bits b.toNat 16 16) (bits x.toNat 16 16)
    (BitVec.ofNat 64 (lo.1 + hi.1 * 2 ^ 16), lo.2 ||| hi.2)

/-- frnd of one element: an integral value of its own format; no NX (R202). -/
def rndElem (rm : RM) (f : FC) (a : Nat) : Nat × Flags :=
  match unpack f a with
  | .nan b => (nanPat f, if b then fNV else 0)
  | .inf _ => (a, 0)
  | .zero _ => (a, 0)
  | .fin n d e =>
    let k := (roundInt n d e rm).1
    ((rnd (mkFin k 1 0 (decide (n < 0))) f .rne 0).1, 0)

/-- The class bit of one element (R203). -/
def classElem (f : FC) (a : Nat) : Nat :=
  match unpack f a with
  | .nan b => if b then 2 ^ 8 else 2 ^ 9
  | .inf neg => if neg then 1 else 2 ^ 7
  | .zero neg => if neg then 2 ^ 3 else 2 ^ 4
  | .fin n _ _ =>
    let p := fmtOf f
    let sub := a % 2 ^ (p.w - 1) / 2 ^ p.m = 0
    if n < 0 then (if sub then 2 ^ 2 else 2) else (if sub then 2 ^ 5 else 2 ^ 6)

/-- fclass over the elements of a value (R203). -/
def classVal (fs : FS) (a : DWord) : DWord :=
  match fs with
  | .s => BitVec.ofNat 64 (classElem .fp32 (bits a.toNat 0 32))
  | .d => BitVec.ofNat 64 (classElem .fp64 a.toNat)
  | fs => BitVec.ofNat 64 (classElem fs.fc (bits a.toNat 0 16) + classElem fs.fc (bits a.toNat 16 16) * 2 ^ 16)

/-- The predicate of fcmp and whether it raises NV (R205). -/
def fpredOf (p : FPred) (a b : XVal) : Bool × Flags :=
  let n := a.isNan || b.isNan
  let sn := snanFlag [a, b]
  let ord := if n then fNV else 0
  match p with
  | .eq => (!n && !xLt a b && !xLt b a, sn)
  | .ne => (n || xLt a b || xLt b a, sn)
  | .lt => (!n && xLt a b, ord)
  | .le => (!n && !xLt b a, ord)
  | .gt => (!n && xLt b a, ord)
  | .ge => (!n && !xLt a b, ord)
  | .uno => (n, sn)
  | .ord => (!n, sn)

/-! ## The words -/

/-- A float word with two sources (R201). -/
def fltWord (f : FC → Nat → Nat → Nat × Flags) (h : AHdr) (d a b : Operand) (fs : FS) (s : State) : Out :=
  computeF s h d fs.isWide (fun c l => elem2 fs f (readOp c fs.isWide a l) (readOp c fs.isWide b l))
/-- A float word with one source. -/
def fltWord1 (f : FC → Nat → Nat × Flags) (h : AHdr) (d a : Operand) (fs : FS) (s : State) : Out :=
  computeF s h d fs.isWide (fun c l => elem1 fs f (readOp c fs.isWide a l))
/-- An ffma word. -/
def fmaWord (fs : FS) (h : AHdr) (d a b x : Operand) (s : State) : Out :=
  computeF s h d fs.isWide (fun c l =>
    fmaVal fs (readOp c fs.isWide a l) (readOp c fs.isWide b l) (readOp c fs.isWide x l))

def execFadd (h : AHdr) (d a b : Operand) (fs : FS) (rm : RM) (s : State) : Out := fltWord (addElem rm) h d a b fs s
def execFsub (h : AHdr) (d a b : Operand) (fs : FS) (rm : RM) (s : State) : Out := fltWord (subElem rm) h d a b fs s
def execFmul (h : AHdr) (d a b : Operand) (fs : FS) (rm : RM) (s : State) : Out := fltWord (mulElem rm) h d a b fs s
def execFdiv (h : AHdr) (d a b : Operand) (fs : FS) (rm : RM) (s : State) : Out := fltWord (divElem rm) h d a b fs s
def execFfmaS (h : AHdr) (d a b x : Operand) (s : State) : Out := fmaWord .s h d a b x s
def execFfmaD (h : AHdr) (d a b x : Operand) (s : State) : Out := fmaWord .d h d a b x s
def execFfmaH2 (h : AHdr) (d a b x : Operand) (s : State) : Out := fmaWord .h2 h d a b x s
def execFfmaB2 (h : AHdr) (d a b x : Operand) (s : State) : Out := fmaWord .b2 h d a b x s
def execFsqrt (h : AHdr) (d a : Operand) (fs : FS) (rm : RM) (s : State) : Out := fltWord1 (sqrtElem rm) h d a fs s
def execFrnd (h : AHdr) (d a : Operand) (fs : FS) (rm : RM) (s : State) : Out := fltWord1 (rndElem rm) h d a fs s
def execFmin (h : AHdr) (d a b : Operand) (fs : FS) (s : State) : Out := fltWord (fun f => fminmax f false) h d a b fs s
def execFmax (h : AHdr) (d a b : Operand) (fs : FS) (s : State) : Out := fltWord (fun f => fminmax f true) h d a b fs s
/-- fclass writes one 32-bit register, also for .d, and raises no flag (R203). -/
def execFclass (h : AHdr) (d a : Operand) (fs : FS) (s : State) : Out :=
  compute s h d false (fun c l => classVal fs (readOp c fs.isWide a l))

/-- fcmp writes its mask as icmp does, with the flags of R205. -/
def execFcmp (_ : Bool) (k : BitVec 3) (p : FPred) (fs : FS) (a b : Operand) (s : State) : Out :=
  let c := s.cur
  let r := fun l => fpredOf p (unpack fs.fc (readOp c fs.isWide a l).toNat) (unpack fs.fc (readOp c fs.isWide b l).toNat)
  withCur s (raiseFlags (maskResult c k (fun l => (r l).1)) (maskCode k) (lanesOf c.act) (fun l => (r l).2))

/-- sf.fn rounds to nearest even in its element's format (04 R127, R128). -/
def execSfFn (h : AHdr) (d a : Operand) (fn : SFn) (fs : FS) (s : State) : Out :=
  fltWord1 (fun f x => sfn f fn (unpack f x)) h d a fs s

end Sys2Proof.Machine
end

