-- ==== Sys2Proof/Machine/Convert.lean ====
section
/-! DEFINITION. The conversions, majors 0x22 to 0x25 (06 R206 to R211). -/

namespace Sys2Proof.Machine

/-- The counter of a cvt or mxpk draw (R207). -/
def cvtCounter (g : Group) (l : Nat) (pattern : DWord) : DWord :=
  (BitVec.ofNat 64 (g.gidx * 2 ^ 40 + l * 2 ^ 32)) ^^^ pattern
/-- The draw of SR in a cvt or mxpk: none is read in another mode (R207). -/
def cvtDraw (g : Group) (l : Nat) (pattern : Nat) : Nat := draw16 g.rndkey (cvtCounter g l (BitVec.ofNat 64 pattern))

/-- A float pattern converted to another format (R207): NV of a signalling NaN besides the flags of rnd. -/
def cvtVal (fd fsrc : FC) (rm : RM) (d : Nat) (a : Nat) : Nat × Flags :=
  let x := unpack fsrc (a % 2 ^ (fmtOf fsrc).w)
  let r := rnd x fd rm d
  (r.1, r.2 ||| snanFlag [x])

def execCvt (h : AHdr) (d a : Operand) (fd fsrc : FC) (rm : RM) (s : State) : Out :=
  computeF s h d fd.isWide (fun c l =>
    let x := (readOp c fsrc.isWide a l).toNat % 2 ^ (fmtOf fsrc).w
    let r := cvtVal fd fsrc rm (if rm == .sr then cvtDraw c.g0 l x else 0) x
    (BitVec.ofNat 64 r.1, r.2))

/-- cvtsr draws with the counter its B operand gives (R208). -/
def execCvtsr (h : AHdr) (d a b : Operand) (fd fsrc : FC) (s : State) : Out :=
  computeF s h d false (fun c l =>
    let x := (readOp c fsrc.isWide a l).toNat % 2 ^ (fmtOf fsrc).w
    let r := cvtVal fd fsrc .sr (draw16 c.g0.rndkey (readOp c true b l)) x
    (BitVec.ofNat 64 r.1, r.2))

end Sys2Proof.Machine

namespace Sys2Proof

/-- The width of an integer type. -/
def IT.width : IT → Nat
  | .i8 => 8 | .i16 => 16 | .i32 => 32 | .i64 => 64 | .n8 => 8 | .n16 => 16 | .n32 => 32 | .n64 => 64
/-- An .in type is signed (04 R115). -/
def IT.signed : IT → Bool
  | .i8 => true | .i16 => true | .i32 => true | .i64 => true | _ => false
/-- The least value of an integer type. -/
def IT.lo (t : IT) : Int := if t.signed then -(2 ^ (t.width - 1) : Nat) else 0
/-- The greatest value of an integer type. -/
def IT.hi (t : IT) : Int := if t.signed then (2 ^ (t.width - 1) : Nat) - 1 else (2 ^ t.width : Nat) - 1

end Sys2Proof

namespace Sys2Proof.Machine

/-- A float to an integer of a type (04 R122). -/
def toIntVal (t : IT) (rm : RM) (x : XVal) : Int × Flags :=
  match x with
  | .nan _ => (0, fNV)
  | .inf neg => (if neg then t.lo else t.hi, fNV)
  | .zero _ => (0, 0)
  | .fin n d e =>
    let r := roundInt n d e rm
    if r.1 < t.lo then (t.lo, fNV) else if t.hi < r.1 then (t.hi, fNV) else (r.1, if r.2 then fNX else 0)

/-- An integer as its destination holds it: 8 and 16 bits extended to 32 by their sign or with zeros (R209). -/
def intPattern (t : IT) (x : Int) : DWord :=
  if t.isWide then BitVec.ofInt 64 x else (BitVec.ofInt 32 x).setWidth 64

def execCvti (h : AHdr) (d a : Operand) (it : IT) (fsrc : FC) (rm : RM) (s : State) : Out :=
  computeF s h d it.isWide (fun c l =>
    let r := toIntVal it rm (unpack fsrc ((readOp c fsrc.isWide a l).toNat % 2 ^ (fmtOf fsrc).w))
    (intPattern it r.1, r.2))

/-- The value of an integer operand read under its type (R209). -/
def intValue (t : IT) (a : DWord) : Int :=
  let x := a.toNat % 2 ^ t.width
  if t.signed && bit x (t.width - 1) then (x : Int) - (2 ^ t.width : Nat) else x

def execCvtf (h : AHdr) (d a : Operand) (fd : FC) (it : IT) (rm : RM) (s : State) : Out :=
  computeF s h d fd.isWide (fun c l =>
    let r := rnd (ofInt (intValue it (readOp c it.isWide a l))) fd rm 0
    (BitVec.ofNat 64 r.1, r.2))

/-! ## Microscaling (R210, R211, 04 R131, R132) -/

end Sys2Proof.Machine

namespace Sys2Proof

/-- The format of a Microscaling element. -/
def MF.fc : MF → FC
  | .e4m3 => .e4m3 | .e5m2 => .e5m2 | .e2m1 => .e2m1
/-- emax of mx_scale (04 R132). -/
def MF.emax : MF → Int
  | .e4m3 => 8 | .e5m2 => 15 | .e2m1 => 2

end Sys2Proof

namespace Sys2Proof.Machine

/-- A value times 2^k. -/
def scaleBy (x : XVal) (k : Int) : XVal :=
  match x with
  | .fin n d e => .fin n d (e + k)
  | y => y

/-- floor(log2 |x|) of a finite non-zero value, none for zero. -/
def log2Of : XVal → Option Int
  | .fin n d e => some (floorLog2 n.natAbs d + e)
  | _ => none

/-- mx_scale of 04 R132. -/
def mxScale (block : List XVal) (mf : MF) : Nat :=
  if block.any (fun x => !x.isFin) then 0xFF
  else
    match block.filterMap log2Of with
    | [] => 0
    | t :: ts =>
      let m := ts.foldl (fun a b => if a < b then b else a) t
      let x := m - mf.emax + 127
      if x < 0 then 0 else if 254 < x then 254 else x.toNat

/-- mxpk of one lane (R210): its element, with the scale of its block of 32 lanes; inactive lanes count as +0. -/
def mxpkLane (c : Packet) (a : Operand) (mf : MF) (rm : RM) (l : Nat) : DWord × Flags :=
  let e := fun i => if mbit c.act i then unpack .fp32 (readOp c false a i).toNat else .zero false
  let x := mxScale ((List.range 32).map (fun i => e (l / 32 * 32 + i))) mf
  let v := (readOp c false a l).toNat
  if x = 0xFF then
    (let q := match mf with
        | .e4m3 => 0x7F
        | .e5m2 => 0x7E
        | .e2m1 => 0
     (BitVec.ofNat 64 (x * 2 ^ 8 + q), if (e l).isSnan then fNV else 0))
  else
    let r := rnd (scaleBy (e l) (127 - (x : Int))) mf.fc rm (if rm == .sr then cvtDraw c.g0 l v else 0)
    (BitVec.ofNat 64 (x * 2 ^ 8 + r.1), r.2)

def execMxpk (h : AHdr) (d a : Operand) (mf : MF) (rm : RM) (s : State) : Out :=
  computeF s h d false (fun c l => mxpkLane c a mf rm l)

/-- mxup of one value (R211). -/
def mxupVal (mf : MF) (a : Nat) : Nat × Flags :=
  let x := bits a 8 8
  let q := unpack mf.fc (bits a 0 (fmtOf mf.fc).w)
  let fl := snanFlag [q]
  if x = 0xFF || q.isNan then (0x7FC00000, fl)
  else
    let r := rnd (scaleBy q ((x : Int) - 127)) .fp32 .rne 0
    (r.1, r.2 ||| fl)

def execMxup (h : AHdr) (d a : Operand) (mf : MF) (s : State) : Out :=
  computeF s h d false (fun c l =>
    let r := mxupVal mf (readOp c false a l).toNat
    (BitVec.ofNat 64 r.1, r.2))

end Sys2Proof.Machine
end

