-- ==== Sys2Proof/Machine/Cross.lean ====
section
/-! DEFINITION. The cross-lane, mask, raster and draw forms, majors 0x28 to 0x2D (06 R213 to R223). -/

namespace Sys2Proof.Machine

/-! ## Ballots and permutations (R214 to R217) -/

/-- The lanes of the active set whose 32-bit A value is not 0. -/
def nonZero (c : Packet) (a : Operand) : Mask := maskOf 64 (fun l => mbit c.act l && (readOp c false a l != 0#64))

/-- ballot: 64 bits, of which a v destination takes bits [31:0], and its latch with it (R214, R184). -/
def execBallot (h : AHdr) (d a : Operand) (s : State) : Out := computeU s h d (!d.isV) (fun c => nonZero c a)
/-- vany (R214). -/
def execVany (h : AHdr) (d a : Operand) (s : State) : Out :=
  computeU s h d false (fun c => if nonZero c a = 0#64 then 0 else 1)
/-- vall (R214). -/
def execVall (h : AHdr) (d a : Operand) (s : State) : Out :=
  computeU s h d false (fun c => if nonZero c a = c.act then 1 else 0)

/-- A lane index taken modulo the width (R215). -/
def laneIndex (c : Packet) (x : DWord) : Nat := (x.setWidth 32).toNat % c.g0.width

/-- shfl: lane B(l) mod W's value of A, active or not (R215). -/
def execShfl (h : AHdr) (wide : Bool) (d a b : Operand) (s : State) : Out :=
  compute s h d wide (fun c l => readOp c wide a (laneIndex c (readOp c false b l)))

/-- bcast (R215). -/
def execBcast (h : AHdr) (wide : Bool) (d a b : Operand) (s : State) : Out :=
  computeU s h d wide (fun c => readOp c wide a (laneIndex c (readUni c false b)))

/-- The highest lane of the active set that aims at lane t (R216). -/
def pusher (c : Packet) (b : Operand) (t : Nat) : Option Nat :=
  ((lanesOf c.act).filter (fun l => laneIndex c (readOp c false b l) == t)).getLast?

/-- push: a lane that no source names keeps its register, and its latch holds what the register holds (R216, R151). -/
def execPush (h : AHdr) (wide : Bool) (d a b : Operand) (s : State) : Out :=
  let c := s.cur
  let val := fun t => match pusher c b t with
    | some l => readOp c wide a l
    | none => readOp c wide d t
  let c1 := putLanes c d true wide (lanesOf c.act) val
  let named := (lanesOf c.act).filter (fun t => (pusher c b t).isSome)
  withCur s (match h.w, d with
    | false, .v n => { c1 with g := writeLanes c1.g wide n.val val named }
    | _, _ => c1)

/-- kfirst: the lowest lane of act whose bit of kN is 1; all ones in the destination's width when there is none (R217). The spec gives
a destination of zero no width: its latch takes 64 bits (DESIGN CHOICE, log 64). -/
def execKfirst (h : AHdr) (d : Operand) (k : BitVec 3) (s : State) : Out :=
  computeU s h d (!d.isV) (fun c =>
    match (lanesOf (c.act &&& readK c.g0 k.toNat)).head? with
    | some l => BitVec.ofNat 64 l
    | none => 0xFFFFFFFFFFFFFFFF#64)

/-! ## Reductions (R218, R219, 04 R133, R134) -/

/-- An integer reduction step at width w. -/
def redStep (op : RedOp) (sgn : Bool) (w : Nat) (x y : BitVec w) : BitVec w :=
  match op with
  | .add => x + y
  | .min => if sgn then smin w x y else umin w x y
  | .max => if sgn then smax w x y else umax w x y
  | .and => x &&& y
  | .or => x ||| y
  | .xor => x ^^^ y

/-- An integer type of redu and scan is signed. -/
def redSigned : RedTy → Bool
  | .i32 => true | .i64 => true | _ => false

/-- The format of a float type of redu and scan. -/
def redFc : RedTy → FC
  | .d => .fp64 | _ => .fp32

/-- One level of tree_sum: neighbours added, an absent value passed over (04 R133). -/
def treeLevel (f : FC) (rm : RM) : List (Option Nat) → List (Option Nat) × Flags
  | p :: q :: t =>
    let r := treeLevel f rm t
    match p, q with
    | none, y => (y :: r.1, r.2)
    | x, none => (x :: r.1, r.2)
    | some x, some y => (let z := addElem rm f x y; (some z.1 :: r.1, z.2 ||| r.2))
  | [x] => ([x], 0)
  | [] => ([], 0)

/-- tree_sum of 04 R133 over n levels. -/
def treeSum (f : FC) (rm : RM) : Nat → List (Option Nat) → Nat × Flags
  | 0, xs => ((xs.headD none).getD 0, 0)
  | n + 1, xs =>
    let a := treeLevel f rm xs
    let r := treeSum f rm n a.1
    (r.1, a.2 ||| r.2)

/-- A NaN result is the canonical NaN (R218). -/
def canonNan (f : FC) (x : Nat) : Nat := if (unpack f x).isNan then nanPat f else x

/-- A float reduction of two values: the rounded sum, or fmin or fmax (R218). -/
def redFloat (op : RedOp) (f : FC) (rm : RM) (x y : Nat) : Nat × Flags :=
  match op with
  | .add => addElem rm f x y
  | .min => fminmax f false x y
  | _ => fminmax f true x y

/-- The inclusive running values of a float scan with the flags of each (R219, 04 R134). DESIGN CHOICE: a first lane's signalling NaN is
canonical before it enters the next step (log 91). -/
def scanFloat (op : RedOp) (f : FC) (rm : RM) : List Nat → Option Nat → List (Nat × Flags)
  | [], _ => []
  | x :: t, run =>
    let sn := snanFlag [unpack f x]
    let r := match run with
      | none => (canonNan f x, sn)
      | some y => (let z := redFloat op f rm y x; (canonNan f z.1, z.2 ||| sn))
    r :: scanFloat op f rm t (some r.1)

/-- The values of A in the lanes of the active set. -/
def actVals (c : Packet) (wide : Bool) (a : Operand) : List Nat :=
  (lanesOf c.act).map (fun l => (readOp c wide a l).toNat)

/-- The value and flags of a redu (R218). -/
def reduVal (c : Packet) (a : Operand) (op : RedOp) (ty : RedTy) (rm : RM) : DWord × Flags :=
  if ty.isFloat then
    let f := redFc ty
    let xs := actVals c ty.isWide a
    let sn := snanFlag (xs.map (unpack f))
    let r := match op with
      | .add => treeSum f rm (Nat.log2 c.g0.width) ((List.range c.g0.width).map (fun l =>
          if mbit c.act l then some (readOp c ty.isWide a l).toNat else none))
      | _ => (((scanFloat op f rm xs none).getLast?).getD (0, 0))
    (BitVec.ofNat 64 (canonNan f r.1), r.2 ||| sn)
  else
    match lanesOf c.act with
    | [] => (0, 0)
    | l :: t => (t.foldl (fun x i => onW2 ty.isWide (redStep op (redSigned ty)) x (readOp c ty.isWide a i))
        (readOp c ty.isWide a l), 0)

/-- redu: a uniform result, whose flags every lane of the active set raises (R218). -/
def execRedu (h : AHdr) (d a : Operand) (op : RedOp) (ty : RedTy) (rm : RM) (s : State) : Out :=
  let c := s.cur
  let r := reduVal c a op ty rm
  withCur s (raiseFlags (putUniform c d h.w ty.isWide r.1) d.code (lanesOf c.act) (fun _ => r.2))

/-- The running values of a scan, one per lane of the active set in ascending order (R219). -/
def scanVals (c : Packet) (a : Operand) (op : RedOp) (ty : RedTy) (rm : RM) : List (Nat × Flags) :=
  let xs := actVals c ty.isWide a
  if ty.isFloat then scanFloat op (redFc ty) rm xs none
  else
    (xs.foldl (fun (acc : List (Nat × Flags)) x =>
      match acc with
      | [] => [(x, 0)]
      | y :: _ => ((onW2 ty.isWide (redStep op (redSigned ty)) (BitVec.ofNat 64 y.1) (BitVec.ofNat 64 x)).toNat, 0) :: acc)
      []).reverse

/-- scan (R219). -/
def execScan (h : AHdr) (d a : Operand) (op : RedOp) (ty : RedTy) (rm : RM) (s : State) : Out :=
  let c := s.cur
  let rs := (lanesOf c.act).zip (scanVals c a op ty rm)
  let at_ := fun l => ((rs.find? (fun x => x.1 == l)).map (fun x => x.2)).getD (0, 0)
  withCur s (raiseFlags (putResult c d h.w ty.isWide (fun l => BitVec.ofNat 64 (at_ l).1)) d.code (lanesOf c.act)
    (fun l => (at_ l).2))

/-! ## Masks (R220) -/

def execKand (_ : Bool) (d a b : BitVec 3) (s : State) : Out :=
  setMask s d (fun c => readK c.g0 a.toNat &&& readK c.g0 b.toNat)
def execKor (_ : Bool) (d a b : BitVec 3) (s : State) : Out :=
  setMask s d (fun c => readK c.g0 a.toNat ||| readK c.g0 b.toNat)
def execKxor (_ : Bool) (d a b : BitVec 3) (s : State) : Out :=
  setMask s d (fun c => readK c.g0 a.toNat ^^^ readK c.g0 b.toNat)
def execKnot (_ : Bool) (d a : BitVec 3) (s : State) : Out := setMask s d (fun c => ~~~readK c.g0 a.toNat)
def execKmovMask (_ : Bool) (d a : BitVec 3) (s : State) : Out := setMask s d (fun c => readK c.g0 a.toNat)
def execKmovToMask (_ : Bool) (d : BitVec 3) (a : Operand) (s : State) : Out := setMask s d (fun c => readUni c true a)
def execKmovToS (h : AHdr) (d : Operand) (a : BitVec 3) (s : State) : Out :=
  computeU s h d true (fun c => readK c.g0 a.toNat)
def execKact (_ : Bool) (d : BitVec 3) (s : State) : Out := setMask s d (fun c => c.act)

/-! ## Raster assist and draws (R221 to R223) -/

/-- The edge function of lane l (R221). -/
def edgeVal (ab e0 : DWord) (l : Nat) : DWord :=
  e0 + (ab.setWidth 32).signExtend 64 * BitVec.ofNat 64 (l % 8) +
    (ab.extractLsb' 32 32).signExtend 64 * BitVec.ofNat 64 (l / 8)

def execEdge (h : AHdr) (d a b : Operand) (s : State) : Out :=
  compute s h d true (fun c l => edgeVal (readUni c true a) (readOp c true b l) l)

/-- The difference across a quad: the lanes l with bit m set and cleared (R222). -/
def quadWord (m : Nat) (h : AHdr) (d a : Operand) (s : State) : Out :=
  computeF s h d false (fun c l =>
    let lo := if bit l m then l - 2 ^ m else l
    let r := subElem .rne .fp32 (readOp c false a (lo + 2 ^ m)).toNat (readOp c false a lo).toNat
    (BitVec.ofNat 64 r.1, r.2))

def execQdx (h : AHdr) (d a : Operand) (s : State) : Out := quadWord 0 h d a s
def execQdy (h : AHdr) (d a : Operand) (s : State) : Out := quadWord 1 h d a s

/-- rng: draw(RNDKEY, A) in each lane (R223, 04 R142). -/
def execRng (h : AHdr) (d a : Operand) (s : State) : Out :=
  compute s h d false (fun c l => (draw c.g0.rndkey (readOp c true a l)).setWidth 64)
/-- rng.u: the FP32 pattern of draw_u (R223, 04 R142). -/
def execRngU (h : AHdr) (d a : Operand) (s : State) : Out :=
  compute s h d false (fun c l => BitVec.ofNat 64 (rnd (drawU c.g0.rndkey (readOp c true a l)) .fp32 .rne 0).1)

end Sys2Proof.Machine
end

