-- ==== Sys2Proof/Machine/MemOps.lean ====
section
/-! DEFINITION. The memory words, majors 0x2E to 0x35, as a packet issues them: addresses, the checks and translations of stage
T lane by lane, and the operations they hand off (07 R226 to R240, 16 R452 and R453). -/

namespace Sys2Proof.Machine

/-! ## Addresses and stage T -/

/-- The address of an M word in a lane (05 R165): A, or sY + A read as a 32-bit unsigned value. -/
def addrOf (c : Packet) (a : Operand) (y : BitVec 2) (l : Nat) : DWord :=
  if y = 0#2 then readOp c true a l else readS c.g0 y.toNat + readOp c false a l

/-- The index of the free choices of one lane of the word in hand. -/
def laneFree (c : Packet) (l : Nat) : Nat := (c.seed * 4 + c.slot) * 64 + l

/-- What stage T finds for one lane (16 R453): a context-fatal reason, a translation fault, or the target of each part. -/
inductive LaneRes where
  | bad (reason : Nat)
  | fault (va lvl e : Nat)
  | ok (ts : List Target)
  deriving DecidableEq, Repr, Inhabited

/-- The least of a list of reasons. -/
def leastReason (xs : List Nat) : Option Nat :=
  match xs with
  | [] => none
  | x :: t => some (t.foldl (fun a b => if b < a then b else a) x)

/-- The parts of an access that lie in 8-byte units (03 R106): address and length of each, for an access of at most 8 bytes. -/
def laneParts (va n : Nat) : List (Nat × Nat) :=
  let m := unitLen va n
  if m = n then [(va, n)] else [(va, m), (va + m, n - m)]

/-- The context-fatal reason of a translated access, if any. -/
def protOf : Xl → Option Nat
  | .prot r => some r
  | _ => none

/-- The two parts of one record differ in KIND or in DEV (03 R105). -/
def kindsDiffer : List Target → Bool
  | [.dev _ _, .dev _ _] => false
  | [.host _, .host _] => false
  | [.remote a _, .remote b _] => a != b
  | [.spad _ _, .spad _ _] => false
  | [_, _] => true
  | _ => false

/-- The checks and the translation of one lane, with the TLB entries it used. The addresses are those of the parts' first
bytes; alignment 1 checks nothing. -/
def laneXl (d : Dev) (p tid fi : Nat) (va : DWord) (align : Nat) (acc : AccKind) (isCas : Bool) (parts : List Nat) :
    LaneRes × List Touch :=
  if 2 ^ 56 ≤ va.toNat then (.bad 0x20, [])
  else
    let rs := parts.map (fun a => (a, xlate d p (.team tid) a fi))
    let fills := rs.flatMap (fun r => r.2.2)
    if rs.any (fun r => r.2.1 == .prot 0x21) then (.bad 0x21, [])
    else if va.toNat % align ≠ 0 then (.bad 0x27, [])
    else
      match rs.findSome? (fun r => match r.2.1 with
          | .fault lvl e => some (LaneRes.fault r.1 lvl e)
          | _ => none) with
      | some f => (f, fills)
      | none =>
        let cs := rs.map (fun r => checkAcc r.2.1 acc isCas)
        let ts := cs.filterMap (fun x => match x with
          | .ok t _ _ => some t
          | _ => none)
        match leastReason (cs.filterMap protOf ++ (if kindsDiffer ts && acc == .atomic then [0x28] else [])) with
        | some r => (.bad r, fills)
        | none => (.ok ts, fills)

/-! ## Operations handed off by the word in hand -/

/-- The operation of a word, before commit: after holds the slots of the packet's earlier words that it is ordered after
(03 R94). -/
def newOp (s : State) (i : Instr) (act : Mask) (o : BitVec 2) (p : BitVec 4) : Op :=
  let c := s.cur
  { gid := c.gid, tid := c.g0.tid, core := c.g0.core, part := teamPart s.dev c.g0.tid, rslot := c.g0.rslot, slot := c.slot, pcx := c.pc, word := i,
    act := act, stream := o.toNat,
    after := (c.ops.filter (fun q => p.getLsbD q.stream)).map (fun q => q.slot),
    gather := false, applied := false, a := 0, d := 0, lanes := [], accs := [], prog := 0, fin := 0, resv := [],
    wait := false, grp := grpid c.g0 }

/-- The packet with an operation to hand off. -/
def withOp (c : Packet) (o : Op) : Packet := { c with ops := c.ops ++ [o] }

/-- One lane's outcome joined to the packet and the operation being built. -/
structure Build where
  c : Packet
  accs : List Acc
  deriving DecidableEq, Repr, Inhabited

/-- The packet with a lane's context-fatal fault. -/
def addFatal (c : Packet) (reason l : Nat) : Packet :=
  { c with fatal := c.fatal ++ [{ cause := causeOf reason, reason := reason, lane := l, slot := c.slot }] }
/-- The packet with a lane's translation fault. -/
def addXf (c : Packet) (l va lvl e : Nat) (acc : AccKind) : Packet :=
  { c with xfaults := c.xfaults ++ [{ slot := c.slot, lane := l, va := va, acc := acc, lvl := lvl, entry := BitVec.ofNat 64 e }] }

/-- A part with no bytes yet. -/
def newAcc (l va len off : Nat) (t : Option Target) (t2 : Option (Nat × Target)) (data : List (Nat × Byte)) : Acc :=
  { lane := l, va := va, tgt := t, tgt2 := t2, len := len, data := data, got := [], flits := 0, done := false, off := off, log := none }

/-- The packet with the operation of a word, unless its guard is false in every lane (03 R95). -/
def handOff (s : State) (i : Instr) (act : Mask) (m : MHdr) (b : Build) (lanes : List LaneIn) : Out :=
  if act = 0#64 then withCur s b.c
  else withCur s (withOp b.c { newOp s i act m.o m.p with accs := b.accs, lanes := lanes })

/-! ## Loads (07 R231) -/

/-- One lane of a load: a held value (15 R433), a fault, or a part for each 8-byte unit. A word that acts once for the group names lane 0
in a fault (16 R454). -/
def loadLane (s : State) (a : Operand) (y : BitVec 2) (n align : Nat) (once : Bool) (b : Build) (l : Nat) : Build :=
  let c := b.c
  match c.g0.gather.find? (fun h => h.slot == c.slot && h.lane == l) with
  | some h => { b with accs := b.accs ++ [{ newAcc l 0 n 0 none none [] with got := h.bytes, done := true }] }
  | none =>
    let va := addrOf c a y l
    let ps := laneParts va.toNat n
    let r := laneXl s.dev (teamPart s.dev c.g0.tid) c.g0.tid (laneFree c l) va align .read false (ps.map (fun q => q.1))
    let c := { c with fills := c.fills ++ r.2 }
    match r.1 with
    | .bad x => { b with c := addFatal c x (if once then 0 else l) }
    | .fault x lvl e => { b with c := addXf c l x lvl e .read }
    | .ok ts =>
      { b with
        c := c
        accs := b.accs ++ (ps.zip ts).map (fun q => newAcc l q.1.1 q.1.2 (q.1.1 - va.toNat) (some q.2) none []) }

/-- A load word (R231): its lanes in ascending order. -/
def loadWord (s : State) (i : Instr) (m : MHdr) (act : Mask) (lanes : List Nat) (a : Operand) (y : BitVec 2) (n align : Nat) (once : Bool) : Out :=
  handOff s i act m (lanes.foldl (loadLane s a y n align once) { c := s.cur, accs := [] }) []

/-- Bytes of an access size (R230). -/
def sizeBytes : Size → Nat
  | .n8 => 1 | .n16 => 2 | .n32 => 4 | .n64 => 8
/-- Bytes of a 32- or 64-bit datum. -/
def wideBytes (wide : Bool) : Nat := if wide then 8 else 4

def execLd (m : MHdr) (d a : Operand) (y : BitVec 2) (z : Size) (s : State) : Out :=
  let g := guardSet s.cur m.k false
  loadWord s (.ld m d a y z) m g (lanesOf g) a y (sizeBytes z) (sizeBytes z) false
def execLdnc (m : MHdr) (d a : Operand) (y : BitVec 2) (z : Size) (s : State) : Out :=
  let g := guardSet s.cur m.k false
  loadWord s (.ldnc m d a y z) m g (lanesOf g) a y (sizeBytes z) (sizeBytes z) false
/-- ldu accepts any byte address (R227). -/
def execLdu (m : MHdr) (d a : Operand) (y : BitVec 2) (wide : Bool) (s : State) : Out :=
  let g := guardSet s.cur m.k false
  loadWord s (.ldu m d a y wide) m g (lanesOf g) a y (wideBytes wide) 1 false
/-- ld.acq acts in every lane of the active set: K is its scope (R230, R231). -/
def execLdAcq (m : MHdr) (d a : Operand) (y : BitVec 2) (wide : Bool) (s : State) : Out :=
  loadWord s (.ldAcq m d a y wide) m s.cur.act (lanesOf s.cur.act) a y (wideBytes wide) (wideBytes wide) false
/-- lds reads once, at the uniform address, when some lane of the active set has its guard bit set (R228, R231). -/
def execLds (m : MHdr) (d a : Operand) (y : BitVec 2) (wide : Bool) (s : State) : Out :=
  let c := s.cur
  let act := if guardSet c m.k false = 0#64 then 0#64 else c.act
  loadWord s (.lds m d a y wide) m act (if act = 0#64 then [] else [lf c]) a y (wideBytes wide) (wideBytes wide) true

/-! ## Stores (R232, R233) -/

/-- The cells of a store that lie in the 8-byte unit of a part, from the part's own address. -/
def partCells (va : Nat) (bs : List Byte) (q : Nat × Nat) : List (Nat × Byte) :=
  cellsOf ((bs.drop (q.1 - va)).take q.2)

/-- One lane's access with its parts: on a translation fault the whole access keeps no target (15 R435). -/
def storeParts (b : Build) (l : Nat) (r : LaneRes) (acc : AccKind) (ps : List (Nat × List (Nat × Byte))) (va : Nat) : Build :=
  match r with
  | .bad x => { b with c := addFatal b.c x l }
  | .fault x lvl e =>
    { b with
      c := addXf b.c l x lvl e acc
      accs := b.accs ++ ps.map (fun q => newAcc l q.1 0 (q.1 - va) none none q.2) }
  | .ok ts => { b with accs := b.accs ++ (ps.zip ts).map (fun q => newAcc l q.1.1 0 (q.1.1 - va) (some q.2) none q.1.2) }

/-- One lane of a store of n bytes. -/
def storeLane (s : State) (d a : Operand) (y : BitVec 2) (n align : Nat) (b : Build) (l : Nat) : Build :=
  let c := b.c
  let va := addrOf c a y l
  let bs := leBytes (readOp c (n == 8) d l).toNat n
  let ps := laneParts va.toNat n
  let r := laneXl s.dev (teamPart s.dev c.g0.tid) c.g0.tid (laneFree c l) va align .write false (ps.map (fun q => q.1))
  storeParts { b with c := { c with fills := c.fills ++ r.2 } } l r.1 .write
    (ps.map (fun q => (q.1, partCells va.toNat bs q))) va.toNat

/-- A store word (R232). -/
def storeWord (s : State) (i : Instr) (m : MHdr) (act : Mask) (d a : Operand) (y : BitVec 2) (n : Nat) : Out :=
  handOff s i act m ((lanesOf act).foldl (storeLane s d a y n n) { c := s.cur, accs := [] }) []

def execSt (m : MHdr) (d a : Operand) (y : BitVec 2) (z : Size) (s : State) : Out :=
  storeWord s (.st m d a y z) m (guardSet s.cur m.k true) d a y (sizeBytes z)
/-- st.rel acts in every lane of the active set but helper lanes (R232, 10 R354). -/
def execStRel (m : MHdr) (d a : Operand) (y : BitVec 2) (wide : Bool) (s : State) : Out :=
  storeWord s (.stRel m d a y wide) m (guardSet s.cur 0 true) d a y (wideBytes wide)

/-- The register after one operand's: the second value of cas, the byte mask of stm. -/
def nextReg (o : Operand) (k : Nat) : Operand :=
  match o with
  | .v n => .v (Fin.ofNat 40 (n.val + k))
  | .s n => .s (Fin.ofNat 16 (n.val + 1))
  | x => x

/-- One lane of an stm (R233): only the selected bytes are translated, checked and written. -/
def stmLane (s : State) (d a : Operand) (y : BitVec 2) (b : Build) (l : Nat) : Build :=
  let c := b.c
  let mk := (readOp c false (nextReg d 2) l).toNat
  let x := (readOp c true d l).toNat
  let va := addrOf c a y l
  let cells := (List.range 8).filterMap (fun j => if bit mk j then some (va.toNat + j, BitVec.ofNat 8 (bits x (8 * j) 8)) else none)
  match cells with
  | [] => b
  | (a0, _) :: _ =>
    let unit := fun u => cells.filter (fun q => q.1 / 8 == u)
    let ps := ((List.range 2).map (fun i => unit (va.toNat / 8 + i))).filterMap (fun us =>
      match us with
      | [] => none
      | (x0, _) :: _ => some (x0, us.map (fun q => (q.1 - x0, q.2))))
    let r := laneXl s.dev (teamPart s.dev c.g0.tid) c.g0.tid (laneFree c l) va 1 .write false (ps.map (fun q => q.1))
    storeParts { b with c := { c with fills := c.fills ++ r.2 } } l r.1 .write ps a0

/-- A lane whose byte mask is 0 is treated as one with a false guard (R233, 16 R459). -/
def execStm (m : MHdr) (d a : Operand) (y : BitVec 2) (s : State) : Out :=
  let act := maskOf 64 (fun l => mbit (guardSet s.cur m.k true) l && bits (readOp s.cur false (nextReg d 2) l).toNat 0 8 != 0)
  handOff s (.stm m d a y) act m ((lanesOf act).foldl (stmLane s d a y) { c := s.cur, accs := [] }) []

/-! ## Read-modify-write (R234 to R238) -/

/-- The operands of a read-modify-write form in a lane: x, or for cas the compare value in a and the new value in d (R236). -/
def rmwIn (c : Packet) (f : RmwForm) (d : Operand) (l : Nat) : LaneIn :=
  let one := fun (w : Bool) => ({ lane := l, a := readOp c w d l, d := 0, run := [] } : LaneIn)
  match f with
  | .atom _ w => one w
  | .swap w => one w
  | .fatom _ w => one w
  | .xaddS => one false
  | .xaddD => one true
  | .cas w =>
    { lane := l, a := readOp c w d l, d := (readOp c w (nextReg d (if w then 2 else 1)) l).setWidth 128, run := [] }
  | .vbt =>
    { lane := l, a := 0, d := readOp c true (nextReg d 2) l ++ readOp c true d l, run := [] }

/-- The bytes of a form's location. -/
def rmwLen : RmwForm → Nat
  | .atom _ w => wideBytes w
  | .cas w => wideBytes w
  | .swap w => wideBytes w
  | .fatom _ w => wideBytes w
  | .xaddS => 64
  | .xaddD => 288
  | .vbt => 16

/-- The first byte of the page after an address. -/
def nextPage (va : Nat) : Nat := (va / 65536 + 1) * 65536

/-- One lane of a read-modify-write form (R235): one part, translated whole. -/
def rmwLane (s : State) (f : RmwForm) (a : Operand) (b : Build) (l : Nat) : Build :=
  let c := b.c
  let va := addrOf c a 0 l
  let n := rmwLen f
  let isCas := match f with
    | .cas _ => true
    | _ => false
  let cross := decide (nextPage va.toNat < va.toNat + n)
  let ps := if cross then [va.toNat, nextPage va.toNat] else [va.toNat]
  let last := va.toNat + n - 1
  let p := teamPart s.dev c.g0.tid
  let r := laneXl s.dev p c.g0.tid (laneFree c l) va n .atomic isCas ps
  let past := isLocal va.toNat && (xlate s.dev p (.team c.g0.tid) last 0).1 == .prot 0x21
  let c := { c with fills := c.fills ++ r.2 }
  match (if past && r.1 != .bad 0x20 then LaneRes.bad 0x21 else r.1) with
  | .bad x => { b with c := addFatal c x l }
  | .fault x lvl e =>
    { c := addXf c l x lvl e .atomic, accs := b.accs ++ [newAcc l va.toNat n 0 none none []] }
  | .ok ts =>
    { c := c,
      accs := b.accs ++ [newAcc l va.toNat n 0 ts.head?
        ((ts.drop 1).head?.map (fun t => (nextPage va.toNat - va.toNat, t))) []] }

/-- A read-modify-write word. -/
def rmwWord (s : State) (i : Instr) (f : RmwForm) (m : MHdr) (d a : Operand) : Out :=
  let act := guardSet s.cur m.k true
  handOff s i act m ((lanesOf act).foldl (rmwLane s f a) { c := s.cur, accs := [] })
    ((lanesOf act).map (rmwIn s.cur f d))

def execAtom (m : MHdr) (d a : Operand) (op : AtomOp) (wide : Bool) (s : State) : Out :=
  rmwWord s (.atom m d a op wide) (.atom op wide) m d a
def execCas (m : MHdr) (d a : Operand) (wide : Bool) (s : State) : Out := rmwWord s (.cas m d a wide) (.cas wide) m d a
def execAtomSwap (m : MHdr) (d a : Operand) (wide : Bool) (s : State) : Out :=
  rmwWord s (.atomSwap m d a wide) (.swap wide) m d a
def execFatom (m : MHdr) (d a : Operand) (op : FatomOp) (dbl : Bool) (s : State) : Out :=
  rmwWord s (.fatom m d a op dbl) (.fatom op dbl) m d a
def execXaddS (m : MHdr) (d a : Operand) (s : State) : Out := rmwWord s (.xaddS m d a) .xaddS m d a
def execXaddD (m : MHdr) (d a : Operand) (s : State) : Out := rmwWord s (.xaddD m d a) .xaddD m d a
def execVbt (m : MHdr) (d a : Operand) (s : State) : Out := rmwWord s (.vbt m d a) .vbt m d a

/-! ## Prefetch and the stream-only word (R239, R240) -/

/-- One lane of a prf (R239): an address that cannot be translated, of another KIND, or of a scratchpad is dropped. -/
def prfLane (s : State) (a : Operand) (b : Build) (l : Nat) : Build :=
  let c := b.c
  let va := addrOf c a 0 l
  let r := laneXl s.dev (teamPart s.dev c.g0.tid) c.g0.tid (laneFree c l) va 1 .read false [va.toNat]
  match r.1 with
  | .ok [t] =>
    (match t with
     | .spad _ _ => b
     | .host _ => b
     | t => { c := { c with fills := c.fills ++ r.2 }, accs := b.accs ++ [newAcc l va.toNat 0 0 (some t) none []] })
  | _ => b

/-- prf: the lines it fills are taken into the cache at commit; it takes no clause and counts in no stream. -/
def execPrf (c : Bool) (llc : Bool) (a : Operand) (k : BitVec 3) (s : State) : Out :=
  let act := guardSet s.cur k false
  handOff s (.prf c llc a k) act { c := c, k := k, o := 0, p := 0 }
    ((lanesOf act).foldl (prfLane s a) { c := s.cur, accs := [] }) []

/-- snop completes when the operations of its predecessor streams have (R240, 03 R95). -/
def execSnop (c : Bool) (sc : Option Scope) (o : BitVec 2) (p : BitVec 4) (s : State) : Out :=
  handOff s (.snop c sc o p) s.cur.act { c := c, k := 0, o := o, p := p } { c := s.cur, accs := [] } []

end Sys2Proof.Machine
end

