-- ==== Sys2Proof/Machine/SyncOps.lean ====
section
/-! DEFINITION. The ring, barrier and notice words, majors 0x36 to 0x38, as a packet issues them: the checks of stage H and the
operations they hand off (07 R243 to R255, 16 R452 and R459). -/

namespace Sys2Proof.Machine

/-- A group-once word acts: some lane of the active set has its guard bit set (R228, 08 R268). -/
def acts (c : Packet) (m : MHdr) : Bool := guardSet c m.k false != 0#64

/-- The ring n of the packet's team. -/
def ringOf (d : Dev) (tid n : Nat) : Option Ring := (tget d.teams tid).bind (fun t => tget t.rings n)

/-- The reason for which a ring word does not suit its ring (R246, stage H): 0x43 a ring not declared, 0x42 the wrong kind. -/
def ringReason (d : Dev) (tid n : Nat) (asProducer asConsumer : Bool) : Option Nat :=
  match ringOf d tid n with
  | none => some 0x43
  | some r => if (asProducer && r.cfg.prod != 1) || (asConsumer && r.cfg.cons != 0) then some 0x42 else none

/-- The packet after a check of stage H, which is made whatever the guard is (16 R459). -/
def stageH (c : Packet) (r : Option Nat) : Packet :=
  match r with
  | some x => addFatal c x 0
  | none => c

/-- A group-once word: its check of stage H, and its operation when it acts. -/
def onceWord (s : State) (i : Instr) (m : MHdr) (check : Option Nat) (f : Op → Op) : Out :=
  let c := stageH s.cur check
  if acts s.cur m then withCur s (withOp c (f (newOp s i s.cur.act m.o m.p))) else withCur s c

/-! ## Rings -/

def execRpop (m : MHdr) (d : Operand) (n : BitVec 6) (s : State) : Out :=
  onceWord s (.rpop m d n) m (ringReason s.dev s.cur.g0.tid n.toNat false true) id
def execRacq (m : MHdr) (d : Operand) (n : BitVec 6) (s : State) : Out :=
  onceWord s (.racq m d n) m (ringReason s.dev s.cur.g0.tid n.toNat true false) id
/-- A word that gives a handle back to a ring. -/
def handleWord (s : State) (i : Instr) (m : MHdr) (d : Operand) (check : Option Nat) : Out :=
  onceWord s i m check (fun o => { o with d := readUni s.cur true d })
def execRcom (m : MHdr) (d : Operand) (n : BitVec 6) (s : State) : Out :=
  handleWord s (.rcom m d n) m d (ringReason s.dev s.cur.g0.tid n.toNat true false)
def execRcomEos (m : MHdr) (d : Operand) (n : BitVec 6) (s : State) : Out :=
  handleWord s (.rcomEos m d n) m d (ringReason s.dev s.cur.g0.tid n.toNat true false)
def execRcomErr (m : MHdr) (d : Operand) (n : BitVec 6) (s : State) : Out :=
  handleWord s (.rcomErr m d n) m d (ringReason s.dev s.cur.g0.tid n.toNat true false)
def execRrel (m : MHdr) (d : Operand) (n : BitVec 6) (s : State) : Out :=
  handleWord s (.rrel m d n) m d (ringReason s.dev s.cur.g0.tid n.toNat false true)
def execRstat (m : MHdr) (d : Operand) (n : BitVec 6) (s : State) : Out :=
  onceWord s (.rstat m d n) m (ringReason s.dev s.cur.g0.tid n.toNat false false) id

/-! ## Barriers -/

def execBarr (m : MHdr) (n : BitVec 6) (s : State) : Out := onceWord s (.barr m n) m none id
def execBarw (m : MHdr) (n : BitVec 6) (s : State) : Out := onceWord s (.barw m n) m none id
def execBarx (m : MHdr) (d : Operand) (n : BitVec 6) (s : State) : Out :=
  onceWord s (.barx m d n) m none (fun o => { o with d := readUni s.cur true d })
/-- pbar arrives as barr and parks the group at the packet boundary (R250, 02 R51). -/
def execPbar (m : MHdr) (n : BitVec 6) (s : State) : Out :=
  let c := s.cur
  match illegalUse c.g0 (.pbar m n) with
  | some r => withCur s { c with fatal := c.fatal ++ [{ cause := 2, reason := r, lane := 0, slot := c.slot }] }
  | none =>
    if acts c m then withCur s { withOp c (newOp s (.pbar m n) c.act m.o m.p) with park := some n.toNat, parkSlot := c.slot }
    else withCur s c
def execCbarr (m : MHdr) (s : State) : Out := onceWord s (.cbarr m) m none id
def execCbarw (m : MHdr) (s : State) : Out := onceWord s (.cbarw m) m none id

/-! ## Notices -/

/-- A handle that fails canon or its alignment: reason 0x29 (08 R270, R254). -/
def handleReason (a : DWord) (align : Nat) : Option Nat :=
  if 2 ^ 56 ≤ a.toNat ∨ a.toNat % align ≠ 0 then some 0x29 else none

/-- ntc: the block is read, and the notice delivered, by events (R254). -/
def execNtc (m : MHdr) (b : BitVec 6) (a : Operand) (s : State) : Out :=
  let x := readUni s.cur true a
  onceWord s (.ntc m b a) m (handleReason x 32) (fun o => { o with a := x, d := b.setWidth 64 })

end Sys2Proof.Machine
end

