-- ==== Sys2Proof/Machine/EngineOps.lean ====
section
/-! DEFINITION. The engine words, majors 0x3A to 0x3E, as a packet issues them: handles, the values they read, and the commands
they hand off (08 R267 to R306). -/

namespace Sys2Proof.Machine

/-! ## The matrix array -/

/-- A matrix command (R272): its parameter block's handle. -/
def mxWord (s : State) (i : Instr) (m : MHdr) (a : Operand) : Out :=
  let x := readUni s.cur true a
  onceWord s i m (handleReason x 64) (fun o => { o with a := x })
def execMxd (m : MHdr) (a : Operand) (s : State) : Out := mxWord s (.mxd m a) m a
def execMxb (m : MHdr) (a : Operand) (s : State) : Out := mxWord s (.mxb m a) m a
def execMxg (m : MHdr) (a : Operand) (s : State) : Out := mxWord s (.mxg m a) m a

/-- A queue entry holds a command of a team. -/
def mxOfTeam (d : Dev) (tid : Nat) (q : MxCmd) : Bool :=
  match tget d.ops q.op with
  | some o => o.tid == tid
  | none => false

/-- The value of mxq (R282). DESIGN CHOICE: RPROG of a command that has not started is 0 (log 94). -/
def mxqVal (d : Dev) (core tid : Nat) : DWord :=
  let q := (tgetD d.cores core default).mq
  let mine := q.filter (mxOfTeam d tid)
  let rprog := match mine with
    | x :: _ => x.rprog
    | [] => 0
  let run := match q with
    | x :: _ => if x.started && mxOfTeam d tid x then 1 else 0
    | [] => 0
  BitVec.ofNat 64 (rprog * 2 ^ 32 + run * 2 ^ 13 + (16 - q.length) * 2 ^ 8 + mine.length)

/-- mxq writes its register at commit and is complete at issue (R282). -/
def execMxq (m : MHdr) (d : Operand) (s : State) : Out :=
  let c := s.cur
  match d with
  | .s n => if acts c m then withCur s { c with g := writeS c.g n.val (mxqVal s.dev c.g0.core c.g0.tid) } else withCur s c
  | _ => withCur s c

/-! ## Accumulator memory -/

/-- A word that acts per lane on AM: each lane's offset in A and its data in D (R268). -/
def amWord (s : State) (i : Instr) (m : MHdr) (noHelper : Bool) (a : Operand) (data : Packet → Nat → BitVec 128)
    (f : Packet → Packet) : Out :=
  let c := s.cur
  let act := guardSet c m.k noHelper
  if act = 0#64 then withCur s c
  else withCur s (withOp (f c) { newOp s i act m.o m.p with
    lanes := (lanesOf act).map (fun l => { lane := l, a := readOp c false a l, d := data c l, run := [] }) })

def execAcld (m : MHdr) (d a : Operand) (s : State) : Out := amWord s (.acld m d a) m false a (fun _ _ => 0) id
def execAcst (m : MHdr) (d a : Operand) (s : State) : Out :=
  amWord s (.acst m d a) m true a (fun c l => (readOp c false d l).setWidth 128) id
def execXaccE32 (m : MHdr) (d a : Operand) (s : State) : Out :=
  amWord s (.xaccE32 m d a) m true a (fun c l => (readOp c false d l).setWidth 128) id
def execXaccE64 (m : MHdr) (d a : Operand) (s : State) : Out :=
  amWord s (.xaccE64 m d a) m true a (fun c l => (readOp c true d l).setWidth 128) id
/-- xrnd keeps FPE as it stood when its packet issued (R285). -/
def keepFpe (c : Packet) : Packet := { c with g := { c.g with fpeAtIssue := c.g0.fpe } }
def execXrndE32 (m : MHdr) (fd : XFc) (d a : Operand) (s : State) : Out :=
  amWord s (.xrndE32 m fd d a) m false a (fun _ _ => 0) keepFpe
def execXrndE64 (m : MHdr) (fd : XFc) (d a : Operand) (s : State) : Out :=
  amWord s (.xrndE64 m fd d a) m false a (fun _ _ => 0) keepFpe

/-- aczr: the AM offset, 32 bits (R268), and the byte count, 64 bits (R148, R283). -/
def execAczr (m : MHdr) (d a : Operand) (s : State) : Out :=
  onceWord s (.aczr m d a) m none (fun o => { o with a := readUni s.cur false a, d := readUni s.cur true d })
/-- xmov: the memory address and the move word (R286). -/
def execXmovSt (m : MHdr) (d a : Operand) (s : State) : Out :=
  onceWord s (.xmovSt m d a) m none (fun o => { o with a := readUni s.cur true a, d := readUni s.cur true d })
def execXmovLd (m : MHdr) (d a : Operand) (s : State) : Out :=
  onceWord s (.xmovLd m d a) m none (fun o => { o with a := readUni s.cur true a, d := readUni s.cur true d })

/-! ## Block forms (R269) -/

/-- The registers of a run that starts at vD, as the packet found them. -/
def runOf (c : Packet) (d : Operand) (n l : Nat) : List Word :=
  match d with
  | .v k => (List.range n).map (fun i => readV c.g0 (k.val + i) l)
  | _ => []

/-- A block form: the handle's check, made whatever the guard is, the run of each lane that acts, and GIDX, which an rbin's records
name (R302). -/
def blockWord (s : State) (i : Instr) (m : MHdr) (noHelper : Bool) (a : Operand) (align : Nat)
    (run : Packet → Nat → List Word) (f : Packet → Mask → Packet) : Out :=
  let x := readUni s.cur true a
  let c := stageH s.cur (handleReason x align)
  let act := guardSet c m.k noHelper
  if act = 0#64 then withCur s c
  else withCur s (withOp (f c act) { newOp s i act m.o m.p with
    a := x, d := BitVec.ofNat 64 c.g0.gidx, lanes := (lanesOf act).map (fun l => { lane := l, a := 0, d := 0, run := run c l }) })

def execTrace (m : MHdr) (d a : Operand) (s : State) : Out :=
  blockWord s (.trace m d a) m false a 64 (fun c l => runOf c d 8 l) (fun c _ => c)
/-- vmarch reads D to D+9 and D+11 (R269). -/
def execVmarch (m : MHdr) (d a : Operand) (s : State) : Out :=
  blockWord s (.vmarch m d a) m false a 64 (fun c l => runOf c d 12 l) (fun c _ => c)
def execOvq (m : MHdr) (d a : Operand) (s : State) : Out :=
  blockWord s (.ovq m d a) m false a 64 (fun c l => runOf c d 8 l) (fun c _ => c)
def execRefit (m : MHdr) (a : Operand) (s : State) : Out :=
  let x := readUni s.cur true a
  onceWord s (.refit m a) m (handleReason x 64) (fun o => { o with a := x })
def execAttr (m : MHdr) (d a : Operand) (s : State) : Out :=
  blockWord s (.attr m d a) m false a 32 (fun c l => runOf c d 4 l) (fun c _ => c)
def execDsc (m : MHdr) (d a : Operand) (s : State) : Out :=
  blockWord s (.dsc m d a) m true a 32 (fun c l => runOf c d 5 l) (fun c _ => c)
def execTex (m : MHdr) (d a : Operand) (s : State) : Out :=
  blockWord s (.tex m d a) m false a 32 (fun c l => runOf c d 3 l) (fun c _ => c)

/-- The window registers of a carry set, in ascending number (09 R310, 02 R50). -/
def carryV (carry : DWord) : List Nat := (List.range 40).filter (fun n => bit carry.toNat n)

/-- rbin: each lane's block and carried registers, and its end (R303, 02 R54). -/
def execRbin (m : MHdr) (d a : Operand) (s : State) : Out :=
  let carry := ((teamTask s.dev s.cur.g0.tid).map (fun k => k.carry)).getD 0
  blockWord s (.rbin m d a) m true a 32 (fun c l => runOf c d 6 l ++ (carryV carry).map (fun n => readV c.g0 n l))
    (fun c act => jumpLanes c act (fun _ => 0xFFFFFFFF#32))

/-- slg: the record index of each lane (R304). -/
def execSlg (m : MHdr) (d a : Operand) (s : State) : Out := amWord s (.slg m d a) m false a (fun _ _ => 0) id

end Sys2Proof.Machine
end

