-- ==== Sys2Proof/Machine/Access.lean ====
section
/-! DEFINITION. Memory operations in flight: which parts may be applied next, a load's part bound, a store's part applied, a
read-modify-write performed at the home, and the registers written at completion (03 R87 to R109, 07 R231 to R237). -/

namespace Sys2Proof.Machine

/-! ## Order among operations (03 R88, R92, R93, R108) -/

/-- Every operation that this one is ordered after is complete (03 R92, R94). -/
def opReady (d : Dev) (o : Op) : Bool := o.after.all (fun i => (tget d.ops i).isNone)

/-- A load word. -/
def isLoad : Instr → Bool
  | .ld _ _ _ _ _ => true | .ldnc _ _ _ _ _ => true | .lds _ _ _ _ _ => true | .ldu _ _ _ _ _ => true
  | .ldAcq _ _ _ _ _ => true | _ => false
/-- A store word. -/
def isStore : Instr → Bool
  | .st _ _ _ _ _ => true | .stm _ _ _ _ => true | .stRel _ _ _ _ _ => true | _ => false
/-- The form of a read-modify-write word. -/
def rmwForm : Instr → Option RmwForm
  | .atom _ _ _ op w => some (.atom op w)
  | .cas _ _ _ w => some (.cas w)
  | .atomSwap _ _ _ w => some (.swap w)
  | .fatom _ _ _ op w => some (.fatom op w)
  | .xaddS _ _ _ => some .xaddS
  | .xaddD _ _ _ => some .xaddD
  | .vbt _ _ _ => some .vbt
  | _ => none

/-- SC of an ld.acq. -/
def acqScope (m : MHdr) : Nat := m.k.toNat
/-- An ld.acq at cluster scope or wider (03 R97). -/
def isWideAcq : Instr → Bool
  | .ldAcq m _ _ _ _ => decide (2 ≤ acqScope m)
  | _ => false
/-- A load whose bytes come from the home whatever the page (07 R231). -/
def isHomeLoad : Instr → Bool
  | .ldnc _ _ _ _ _ => true
  | i => isWideAcq i

/-- The lanes a part belongs to: every active lane for a word that acts once (03 R92). -/
def accLanes (o : Op) (a : Acc) : Mask :=
  match o.word with
  | .lds _ _ _ _ _ => o.act
  | _ => BitVec.ofNat 64 (2 ^ a.lane)
/-- Two parts belong to one lane of one group. -/
def sameLane (o : Op) (a : Acc) (q : Op) (b : Acc) : Bool := o.gid == q.gid && (accLanes o a &&& accLanes q b) != 0#64

/-- The bytes a part spans from its first. -/
def accSpan (a : Acc) : Nat := a.data.foldl (fun n x => if n < x.1 + 1 then x.1 + 1 else n) a.len

/-- The stretches of memory a part touches. -/
def accRanges (a : Acc) : List (Target × Nat) :=
  match a.tgt, a.tgt2 with
  | some t, none => [(t, accSpan a)]
  | some t, some (n, u) => [(t, n), (u, accSpan a - n)]
  | none, _ => []

/-- Two stretches share a byte. -/
def rangesMeet (d : Dev) (x y : Target × Nat) : Bool := !placesApart (tgtKey d x.1) x.2 (tgtKey d y.1) y.2

/-- Flits of the request packet of a part (11 R357): a header and its data. A scratchpad of the cluster is reached over the links
between neighbours, not through the network (01 R19). -/
def partFlits (o : Op) (a : Acc) : Nat :=
  match a.tgt with
  | none => 0
  | some (.spad _ _) => 0
  | some _ => if isLoad o.word then 1 else if a.data.isEmpty then 2 else 1 + (a.data.length + 31) / 32

/-- Flits of the response to a part's request (11 R357): a header, and the bytes it returns. -/
def respFlits (o : Op) (a : Acc) : Nat :=
  if partFlits o a = 0 then 0 else if isLoad o.word then 1 + (a.len + 31) / 32 else if (rmwForm o.word).isSome then 2 else 1

/-- A part that its core did not hand off before it stopped is never applied (14 R407, 17 R471). -/
def neverGoes (d : Dev) (o : Op) (a : Acc) : Bool :=
  !unitRuns d o.part (unitCore o.core) && (a.tgt.isNone || a.flits != 0 || partFlits o a == 0)

/-- A part has still to be applied. -/
def pending (d : Dev) (o : Op) (a : Acc) : Bool := !a.done && !neverGoes d o a

/-- Two parts touch a common byte; a part with no translation yet is compared by virtual address. -/
def overlap (d : Dev) (a b : Acc) : Bool :=
  if a.tgt.isSome && b.tgt.isSome then (accRanges a).any (fun x => (accRanges b).any (rangesMeet d x))
  else decide (a.va < b.va + accSpan b) && decide (b.va < a.va + accSpan a)

/-- The operations of the same core that issued before one, oldest first. -/
def earlier (d : Dev) (id : Nat) (o : Op) : List Op :=
  (d.ops.filter (fun q => decide (q.1 < id) && q.2.core == o.core)).map (fun q => q.2)

/-- A part of a cacheable page. -/
def cacheable (a : Acc) : Bool := (a.tgt.bind lineOf).isSome

/-- An earlier part's bytes are read through: a store of a cacheable page that a plain read on the core sees before it is
applied (03 R88). -/
def forwards (d : Dev) (o : Op) (a : Acc) (q : Op) (b : Acc) : Bool :=
  isStore q.word && b.tgt.isSome && cacheable a && !isHomeLoad o.word && isLoad o.word && opReady d q && pending d q b && overlap d a b

/-- A word that reads or writes memory lane by lane. -/
def isAccess (i : Instr) : Bool := isLoad i || isStore i || (rmwForm i).isSome

/-- An earlier part keeps a load's part from being bound (03 R88, R93). -/
def blocksLoad (d : Dev) (o : Op) (a : Acc) (q : Op) (b : Acc) : Bool :=
  pending d q b && overlap d a b && !forwards d o a q b && (sameLane o a q b || (cacheable a && opReady d q && isAccess q.word))

/-- An earlier part keeps a store's part from being applied: the same lane's bytes, in program order (03 R93); and a store of the core
to a cacheable location that reads already see, since they never go backward (03 R88). -/
def blocksStore (d : Dev) (o : Op) (a : Acc) (q : Op) (b : Acc) : Bool :=
  pending d q b && overlap d a b && (sameLane o a q b || (cacheable a && opReady d q && isStore q.word && b.tgt.isSome))

/-- An earlier part keeps a read-modify-write from being performed: the same lane's bytes, and the core's other accesses to a
cacheable location, so that no read goes backward (03 R88, R93). -/
def blocksRmw (d : Dev) (o : Op) (a : Acc) (q : Op) (b : Acc) : Bool :=
  pending d q b && overlap d a b && (sameLane o a q b || (cacheable a && opReady d q && isAccess q.word))

/-- A part of a lower lane of the same word keeps this one back (03 R108). -/
def laneOrder (d : Dev) (o : Op) (a : Acc) : Bool := o.accs.any (fun b => pending d o b && decide (b.lane < a.lane) && overlap d a b)

/-- The targets of a part. -/
def accTargets (a : Acc) : List Target := (accRanges a).map (fun x => x.1)

/-- A part may be taken up: its predecessors are complete, its packet is injected, and its home can be reached (03 R92, 17 R471). -/
def partOpen (d : Dev) (o : Op) (a : Acc) : Bool :=
  pending d o a && a.tgt.isSome && a.flits == 0 && opReady d o && (accTargets a).all (fun t => inPlace d t && !held d t)

/-- Part j of an operation. -/
def partOf (o : Op) (j : Nat) : Option Acc := o.accs[j]?

/-! ## Completion (03 R91) -/

/-- Context-fatal fault of an operation at its unit (stage U of 16 R452): the event, and the operation goes no further. -/
def opFatal (d : Dev) (id unit reason lane : Nat) : Dev :=
  match tget d.ops id with
  | some o =>
    modOp (raiseHaltBy d o.part unit (causeOf reason) (fdet o.rslot reason lane o.slot o.pcx) (some (o.core, o.grp))) id (fun o => { o with wait := true })
  | none => d

/-- A home of the part refuses it. -/
def refused (d : Dev) (o : Op) (a : Acc) : Bool := partOpen d o a && (accTargets a).any (fun t => (homeRead d o.part t 1).isNone)

/-- The operations of the packet of an operation, in slot order: they have consecutive names. -/
def packetOps (d : Dev) (id : Nat) (o : Op) : List (Nat × Op) :=
  (List.range 3).filterMap (fun j => match tget d.ops (id - o.slot + j) with
    | some q => if q.gid = o.gid ∧ q.pcx = o.pcx ∧ q.slot = j then some (id - o.slot + j, q) else none
    | none => none)

/-- The lane that a fault of a part names: 0 for a word that acts once. -/
def faultLane (o : Op) (a : Acc) : Nat :=
  match o.word with
  | .lds _ _ _ _ _ => 0
  | _ => a.lane

/-- Homes refuse parts of a packet: of those refused now, the one of the lowest slot, then of the lowest lane, is reported (16 R453):
reason 0x26 at the core (03 R83, R364), or a lost link where no Tvedli port works (14 R425). A refused part is never applied. The refusal of a request whose core has
stopped is discarded with the response (17 R471). -/
def opRefused (d : Dev) (id : Nat) (o : Op) : Dev :=
  let qs := packetOps d id o
  let bad := qs.flatMap (fun q => (q.2.accs.filter (refused d q.2)).map (fun a => (q.2.slot * 64 + faultLane q.2 a, q.2, a)))
  match bad with
  | [] => d
  | x :: t =>
    let w := t.foldl (fun a b => if b.1 < a.1 then b else a) x
    let d1 := qs.foldl (fun d q =>
      if q.2.accs.any (refused d q.2) then
        modOp d q.1 (fun o => { o with wait := true, accs := q.2.accs.map (fun a => if refused d q.2 a then { a with tgt := none, tgt2 := none } else a) })
      else d) d
    if !unitRuns d o.part (unitCore o.core) then d1
    else match (accTargets w.2.2).findSome? (portLost d) with
    | some u => raiseHaltBy d1 o.part u 0x0B 0 (some (o.core, o.grp))
    | none => raiseHaltBy d1 o.part (unitCore o.core) (causeOf 0x26) (fdet o.rslot 0x26 (faultLane w.2.1 w.2.2) w.2.1.slot o.pcx) (some (o.core, o.grp))

/-- The bytes of a lane's datum, in the order of its parts. -/
def laneBytes (o : Op) (l : Nat) : List Byte :=
  let ps := o.accs.filter (fun a => a.lane == l)
  (List.range 2).flatMap (fun i => match ps[i]? with
    | some a => a.got
    | none => [])

/-- The lanes of an operation's parts, each once. -/
def opLanes (o : Op) : List Nat := (List.range 64).filter (fun l => o.accs.any (fun a => a.lane == l))

/-- The group with a destination written in one lane (R231). -/
def putDest (g : Group) (dst : Operand) (wide : Bool) (l : Nat) (x : DWord) : Group :=
  match dst with
  | .v n => writeLane g wide n.val l x
  | .s n => writeS g n.val (atWidth wide x)
  | _ => g

/-- The destination and width of a word that returns a value from memory. -/
def memDest : Instr → Option (Operand × Bool)
  | .ld _ d _ _ z => some (d, z.isWide)
  | .ldnc _ d _ _ z => some (d, z.isWide)
  | .lds _ d _ _ w => some (d, w)
  | .ldu _ d _ _ w => some (d, w)
  | .ldAcq _ d _ _ w => some (d, w)
  | .atom _ d _ _ w => if d.isV then some (d, w) else none
  | .cas _ d _ w => if d.isV then some (d, w) else none
  | .atomSwap _ d _ w => if d.isV then some (d, w) else none
  | .fatom _ d _ _ w => if d.isV then some (d, w) else none
  | _ => none

/-- The registers of an operand of a form's width: window registers as n, uniform registers as 64 + n. -/
def regsOf (o : Operand) (vn sn : Nat) : List Nat :=
  match o with
  | .v n => (List.range vn).map (fun i => n.val + i)
  | .s n => (List.range sn).map (fun i => 64 + (n.val + i) % 16)
  | _ => []
/-- The registers a destination field names. -/
def dstRegs (o : Operand) : Dst → List Nat
  | .none => []
  | .any w => regsOf o (if w then 2 else 1) 1
  | .vec w => regsOf o (if w then 2 else 1) 1
  | .sOnly => regsOf o 0 1
  | .block _ len => regsOf o len 0
/-- The registers an operation in flight will write. -/
def awaited (i : Instr) : List Nat :=
  match memDest i with
  | some (o, w) => regsOf o (if w then 2 else 1) 1
  | none => dstRegs (desc i).d (desc i).dst

/-- An earlier word of the same packet has still to write a register that this one writes at its completion: their writes are made
in slot order (05 R153). The operations of a packet have consecutive names by slot. -/
def slotBehind (d : Dev) (id : Nat) (o : Op) : Bool :=
  (List.range o.slot).any (fun j => match tget d.ops (id - o.slot + j) with
    | some q => q.gid == o.gid && q.pcx == o.pcx && q.slot == j && !q.gather && writesReg q.word && (awaited q.word).any (fun r => (awaited o.word).contains r)
    | none => false)

/-- The registers an operation returns, written in every lane at once (R231, R235). -/
def returnRegs (o : Op) (g : Group) : Group :=
  match memDest o.word with
  | none => g
  | some (dst, w) => (opLanes o).foldl (fun g l => putDest g dst w l (BitVec.ofNat 64 (leNat (laneBytes o l)))) g

/-- The end of the interval in which an emptying acquire keeps the cache from installing lines (03 R88). -/
def endInstall (d : Dev) (id : Nat) (o : Op) : Dev :=
  if isWideAcq o.word then modCore d o.core (fun k => { k with noInstall := k.noInstall.filter (fun i => i != id) }) else d

/-- The operation when every part is done, in slot order among the words of its packet that write one register: its registers, or
the group's gather hold, and its completion. What returns to a core that has stopped is discarded (17 R471). -/
def finishMem (d : Dev) (id : Nat) : Dev :=
  match tget d.ops id with
  | none => d
  | some o =>
    if o.accs.all (fun a => a.done) && (o.gather || !slotBehind d id o) then
      (if unitRuns d o.part (unitCore o.core) then
        let d := endInstall d id o
        let d := modGroup d o.gid (fun g =>
          if o.gather then { g with gather := g.gather ++ (opLanes o).map (fun l => { slot := o.slot, lane := l, bytes := laneBytes o l }) }
          else returnRegs o g)
        completeOp d id
       else delOp d id)
    else d

/-- A partition's request channel of a core's network leaf (11 R357, R359), as one number: channels 0 to 7 of a leaf are request, 8 to 15
response, 16 management. -/
def channelOf (core p : Nat) : Nat := 32 * coreLeaf core + p

/-- A part's packet holds credits of its channel: it is injected, at least in part, and its receiver has not taken it. -/
def creditOut (o : Op) (a : Acc) : Bool := !a.done && !a.taken && a.tgt.isSome && decide (a.flits < partFlits o a)

/-- Credits of a channel of a leaf are out: of a part's packet, of another packet of the device, or of an aborted one (11 R359,
17 R471). -/
def creditsOut (d : Dev) (chan : Nat) : Bool :=
  d.ops.any (fun q => channelOf q.2.core q.2.part == chan && q.2.accs.any (creditOut q.2)) || (tget d.links.flight chan).isSome ||
    d.links.aborts.any (fun a => 32 * a.leaf + a.part == chan)

/-- A channel returns credits, so that its watchdog begins anew while more are out, and ends with the last (14 R404). -/
def creditBack (d : Dev) (chan : Nat) : Dev :=
  { d with links := { d.links with credit := if creditsOut d chan then tput d.links.credit chan d.cyc else tdel d.links.credit chan } }

/-- Flits injected into a channel take its credits, and its watchdog counts from the first that are out. -/
def creditTaken (d : Dev) (chan : Nat) : Dev :=
  { d with links := { d.links with credit := if (tget d.links.credit chan).isSome then d.links.credit else tput d.links.credit chan d.cyc } }

/-- The side-log slots an operation no longer needs: those of lanes whose every part is done (15 R435). -/
def logGone (o : Op) (slot : Nat) : Bool := !o.accs.any (fun a => !a.done && ((a.log.map (fun x => x.1 == slot)).getD false))

/-- The side log of an operation's core without the slots of its lanes that are done. -/
def freeLog (d : Dev) (id : Nat) : Dev :=
  match tget d.ops id with
  | none => d
  | some o =>
    if o.accs.any (fun a => a.log.isSome) then modCore d o.core (fun k => { k with slog := k.slog.filter (fun e => e.2.1 != id || !logGone o e.1) })
    else d

/-- The operation with part j done, and the response on its way back to its core. -/
def markDone (d : Dev) (id j : Nat) (got : List Byte) : Dev :=
  match tget d.ops id with
  | none => d
  | some o =>
    match o.accs[j]? with
    | none => d
    | some a =>
      let d1 := modOp d id (fun o => { o with accs := lset o.accs j { a with got := got, done := true } })
      let d2 := match a.tgt with
        | some t => netAdd (if creditOut o a then creditBack d1 (channelOf o.core o.part) else d1) (homeLeaf d1 t) (8 + o.part) (respFlits o a)
        | none => d1
      freeLog d2 id

/-! ## Loads -/

/-- The bytes of a part with the core's unapplied stores read through (03 R88). -/
def overlay (d : Dev) (o : Op) (a : Acc) (qs : List Op) (bs : List Byte) : List Byte :=
  match a.tgt with
  | none => bs
  | some t =>
    let base := (tgtKey d t).2.2
    qs.foldl (fun bs q => q.accs.foldl (fun bs b =>
      if forwards d o a q b then
        (match b.tgt with
         | some u => b.data.foldl (fun bs x =>
             let addr := (tgtKey d u).2.2 + x.1
             if base ≤ addr then lset bs (addr - base) x.2 else bs) bs
         | none => bs)
      else bs) bs) bs

/-- A load's part may be bound. -/
def loadOpen (d : Dev) (id : Nat) (o : Op) (a : Acc) : Bool :=
  isLoad o.word && partOpen d o a && !(earlier d id o).any (fun q => q.accs.any (fun b => blocksLoad d o a q b))

/-- The agent that made a release is one of the scope's, as seen from a group (R96), with the group's team, cluster and partition. -/
def inScope (sc : Nat) (r : RelMark) (gid tid cid part : Nat) : Bool :=
  match sc with
  | 0 => r.gid == gid
  | 1 => r.tid == tid
  | 2 => r.cid == cid
  | 3 => r.part == part
  | _ => true

/-- The cluster of a team. -/
def teamCid (d : Dev) (tid : Nat) : Nat := ((tget d.teams tid).map (fun t => t.cid)).getD 0

/-- An acquire's part may act as a plain load (R98): the bytes it reads are those of a release, wherever they lie, and one of the two
names a scope that does not include the other. -/
def acqPlain (d : Dev) (o : Op) (a : Acc) : Bool :=
  match a.tgt, o.word with
  | some t, .ldAcq m _ _ _ _ =>
    d.rels.any (fun r => !placesApart (placeOf d o.part t) a.len r.place r.len &&
      (!inScope (acqScope m) r o.gid o.tid (teamCid d o.tid) o.part || !inScope r.scope r o.gid o.tid (teamCid d o.tid) o.part))
  | _, _ => false

/-- The bytes a load's part reads (R231), and the device after the read; none where the home refuses. An acquire that was not to
empty the cache when it issued does so now, unless it may act as a plain load (R98, log 67). -/
def loadRead (d : Dev) (id : Nat) (o : Op) (a : Acc) : Option (List Byte × Dev) :=
  match a.tgt with
  | none => none
  | some t =>
    let d1 := homeTouch d o.part t a.len
    let atHome := fun (d2 : Dev) => (homeRead d1 o.part t a.len).map (fun bs => (bs, d2))
    if isWideAcq o.word && Config.narrow id then
      (if acqPlain d o a then cacheRead d o.part o.core t a.len else atHome (dcEmpty d1 o.core))
    else if isHomeLoad o.word then atHome (dcDrop d1 o.core t a.len)
    else cacheRead d o.part o.core t a.len

/-- The core of an operation still runs: what returns to one that has stopped is discarded at its leaf (17 R471, R478). -/
def coreGoes (d : Dev) (o : Op) : Bool := unitRuns d o.part (unitCore o.core)

/-- A request of a stopped core is served at its home, and its response is discarded: no line, no register and no event of the core comes
of it (17 R471). -/
def discardPart (d : Dev) (id j : Nat) (o : Op) (a : Acc) : Dev :=
  finishMem (markDone (match a.tgt with
    | some t => homeTouch d o.part t a.len
    | none => d) id j []) id

/-- LOAD_COMPLETE of one part. -/
def bindPart (d : Dev) (id j : Nat) : Dev :=
  match tget d.ops id with
  | none => d
  | some o =>
    match partOf o j with
    | none => d
    | some a =>
      if loadOpen d id o a then
        if coreGoes d o then
          match loadRead d id o a with
          | none => opRefused d id o
          | some (bs, d1) => finishMem (markDone d1 id j (overlay d o a (earlier d id o) bs)) id
        else discardPart d id j o a
      else d

/-! ## Stores -/

/-- A word is a release at system scope (R97). -/
def sysScope : Instr → Bool
  | .stRel m _ _ _ _ => acqScope m == 6
  | .snop _ (some .sys) _ _ => true
  | _ => false

/-- A store's part may be applied; that of a system-scope release once what the adapter has accepted can reach the host. -/
def storeOpen (d : Dev) (id : Nat) (o : Op) (a : Acc) : Bool :=
  isStore o.word && partOpen d o a && !laneOrder d o a && (!sysScope o.word || releaseOpen d) &&
  !(earlier d id o).any (fun q => q.accs.any (fun b => blocksStore d o a q b))

/-- The last write of n bytes at a target was a release (R98): by an st.rel, or after a scoped snop of the group. -/
def markRel (d : Dev) (o : Op) (t : Target) (n : Nat) : Dev :=
  match o.rel with
  | some sc =>
    { d with rels := { place := placeOf d o.part t, len := n, scope := sc, gid := o.gid, tid := o.tid, cid := teamCid d o.tid, part := o.part } :: d.rels }
  | none => d

/-- A system-scope release: what the adapter has accepted is visible to the host first (R97). -/
def sysRelease (d : Dev) (i : Instr) : Dev := if sysScope i then landHost d else d

/-- A store's part written: at its home, or, for host memory, accepted by the adapter (R91). -/
def storeWrite (d : Dev) (o : Op) (a : Acc) (t : Target) : Option Dev :=
  (homeWrite d o.part t a.data).map (fun d1 => markRel d1 o t (cellsLen a.data))

/-- A store's part at its home and in the core's copy of the line (R232, 03 R88). -/
def applyCells (d : Dev) (id j : Nat) (o : Op) (a : Acc) (t : Target) : Dev :=
  match storeWrite (sysRelease d o.word) o a t with
  | none => opRefused d id o
  | some d1 => finishMem (markDone (if coreGoes d o then cacheUpdate d1 o.core t a.data else d1) id j []) id

/-- STORE_APPLIED of one part. -/
def applyPart (d : Dev) (id j : Nat) : Dev :=
  match tget d.ops id with
  | none => d
  | some o =>
    match partOf o j with
    | none => d
    | some a =>
      match a.tgt with
      | none => d
      | some t => if storeOpen d id o a then applyCells d id j o a t else d

/-! ## Read-modify-write (07 R234 to R237) -/

/-- The new value of atom (R235). -/
def atomNew (op : AtomOp) (w : Nat) (old x : BitVec w) : BitVec w :=
  match op with
  | .add => old + x
  | .min => smin w old x
  | .max => smax w old x
  | .minu => umin w old x
  | .maxu => umax w old x
  | .and => old &&& x
  | .or => old ||| x
  | .xor => old ^^^ x

/-- The new pattern of fatom: rnd(old + x, RNE), or fmin or fmax; flags dropped (R235). -/
def fatomNew (op : FatomOp) (f : FC) (old x : Nat) : Nat :=
  match op with
  | .add => (addElem .rne f old x).1
  | .min => (fminmax f false old x).1
  | .max => (fminmax f true old x).1

/-- vbt_wins of R237 on two 128-bit samples. -/
def vbtWins (new old : Nat) : Bool :=
  let kind := bits new 0 4
  let dn := unpack .fp32 (bits new 64 32)
  let dO := unpack .fp32 (bits old 64 32)
  let key := fun (x : Nat) => bits x 0 64 * 2 ^ 64 + bits x 96 32 * 2 ^ 32 + bits x 64 32
  if kind ≠ 1 ∧ kind ≠ 2 then false
  else if dn.isNan then false
  else if dO.isNan then true
  else if xLt dO dn then true
  else if xLt dn dO then false
  else decide (key old < key new)

/-- The new bytes of a form's location, none where it writes nothing (R235). -/
def rmwNew (f : RmwForm) (old : List Byte) (x : LaneIn) : Option (List Byte) :=
  let v := leNat old
  match f with
  | .atom op false => some (leBytes (atomNew op 32 (BitVec.ofNat 32 v) (x.a.setWidth 32)).toNat 4)
  | .atom op true => some (leBytes (atomNew op 64 (BitVec.ofNat 64 v) x.a).toNat 8)
  | .swap w => some (leBytes x.a.toNat (wideBytes w))
  | .cas false => if v = (x.a.setWidth 32).toNat then some (leBytes x.d.toNat 4) else none
  | .cas true => if v = x.a.toNat then some (leBytes x.d.toNat 8) else none
  | .fatom op false => some (leBytes (fatomNew op .fp32 v (x.a.setWidth 32).toNat) 4)
  | .fatom op true => some (leBytes (fatomNew op .fp64 v x.a.toNat) 8)
  | .xaddS => some (exaAdd exa32 old (unpack .fp32 (x.a.setWidth 32).toNat))
  | .xaddD => some (exaAdd exa64 old (unpack .fp64 x.a.toNat))
  | .vbt => if vbtWins x.d.toNat v then some (leBytes x.d.toNat 16) else none

/-- A vbt to a tile that is not OPEN writes nothing and counts in LATE of the tile (10 R350). -/
def lateTile (d : Dev) (t : Target) : Option Nat :=
  match t with
  | .dev pa _ => late pa
  | .remote v pa => if selfDev d v then late pa else none
  | _ => none
where
  late (pa : Nat) : Option Nat :=
    match tileAt d pa with
    | some (k, u) => if u.st == .opened then none else some k
    | none => none

/-- LATE of a tile one higher. -/
def bumpLate (d : Dev) (key : Nat) : Dev := { d with tiles := tmod d.tiles key (fun t => { t with late := t.late + 1 }) }

/-- A read-modify-write of host memory is complete once it is applied there (R91, R104). -/
def rmwLand (d : Dev) : Target → Dev
  | .host _ => landHost d
  | _ => d

/-- One read-modify-write at the home (03 R104): the device after it and the old bytes; none where the home refuses. -/
def homeRmw (d : Dev) (p : Nat) (f : RmwForm) (t : Target) (t2 : Option (Nat × Target)) (x : LaneIn) : Option (Dev × List Byte) :=
  let n := rmwLen f
  let n1 := (t2.map (fun q => q.1)).getD n
  match homeRead d p t n1 with
  | none => none
  | some b1 =>
    match (match t2 with
      | none => some []
      | some (_, u) => homeRead d p u (n - n1)) with
    | none => none
    | some b2 =>
      let old := b1 ++ b2
      match (if f == .vbt then lateTile d t else none) with
      | some key => some (bumpLate d key, old)
      | none =>
        match rmwNew f old x with
        | none => some (d, old)
        | some new =>
          match homeWrite d p t (cellsOf (new.take n1)) with
          | none => none
          | some d1 =>
            match t2 with
            | none => some (rmwLand d1 t, old)
            | some (_, u) => (homeWrite d1 p u (cellsOf (new.drop n1))).map (fun d2 => (d2, old))

/-- A read-modify-write's part may be performed. -/
def rmwOpen (d : Dev) (id : Nat) (o : Op) (a : Acc) : Bool :=
  (rmwForm o.word).isSome && partOpen d o a && !laneOrder d o a &&
  !(earlier d id o).any (fun q => q.accs.any (fun b => blocksRmw d o a q b))

/-- The operands of an operation in a lane. -/
def laneIn (o : Op) (l : Nat) : LaneIn := (o.lanes.find? (fun x => x.lane == l)).getD default

/-- What a read-modify-write's homes hold, read (R104, R105). -/
def rmwTouch (d : Dev) (o : Op) (a : Acc) : Dev := (accRanges a).foldl (fun d x => homeTouch d o.part x.1 x.2) d

/-- What a read-modify-write has written is a release where its group's latest scoped snop made it one (R98). -/
def markRmw (d : Dev) (o : Op) (a : Acc) (f : RmwForm) (old : List Byte) : Dev :=
  if (rmwNew f old (laneIn o a.lane)).isSome then (accRanges a).foldl (fun d x => markRel d o x.1 x.2) d else d

/-- A read-modify-write performed: the copies of its lines leave the core's cache (03 R88), and the old value returns. -/
def doRmw (d : Dev) (id j : Nat) (o : Op) (a : Acc) (f : RmwForm) (t : Target) : Dev :=
  match homeRmw (rmwTouch d o a) o.part f t a.tgt2 (laneIn o a.lane) with
  | none => opRefused d id o
  | some (d1, old) => finishMem (markDone ((accRanges a).foldl (fun d x => dcDrop d o.core x.1 x.2) (markRmw d1 o a f old)) id j old) id

/-- RMW_APPLIED of one part. -/
def rmwPart (d : Dev) (id j : Nat) : Dev :=
  match tget d.ops id with
  | none => d
  | some o =>
    match partOf o j, rmwForm o.word with
    | some a, some f =>
      (match a.tgt with
       | none => d
       | some t => if rmwOpen d id o a then doRmw d id j o a f t else d)
    | _, _ => d

end Sys2Proof.Machine
end

