-- ==== Sys2Proof/Machine/Sync.lean ====
section
/-! DEFINITION. The ring unit and the barrier unit: ring words, arrivals, landed bytes and waits applied once their
predecessors are complete (07 R241 to R252). -/

namespace Sys2Proof.Machine

/-! ## A uniform register of a group wherever it is (15 R447, R449) -/

/-- The rank of a core among the cores of its partition, in ascending number (15 R444). -/
def coreRank (d : Dev) (p core : Nat) : Nat := ((List.range core).filter (fun c => octOf d p (coreOct c))).length
/-- The save region of a core (15 R444). -/
def saveRegion (d : Dev) (p core : Nat) : Nat := regBits d (offCtxbase p) 24 28 * 2 ^ 24 + coreRank d p core * 2 ^ 24
/-- The address of a group's image (15 R447). -/
def imageAt (d : Dev) (p : Nat) (g : Group) : Nat := saveRegion d p g.core + 0x11000 * g.rslot

/-- The device with a uniform register of a group written: in the image of an evicted group (15 R449). -/
def putS (d : Dev) (gid n : Nat) (x : DWord) : Dev :=
  match tget d.groups gid with
  | none => d
  | some g =>
    let d := modGroup d gid (fun g => writeS g n x)
    if g.place == .evicted then devWrite d (imageAt d (teamPart d g.tid) g + 128 + 8 * n) (leBytes x.toNat 8) else d

/-! ## Rings (R241, R242, R247) -/

/-- The address of slot i of a ring (R241). -/
def slotAddr (c : RingCfg) (i : Nat) : Nat := 0x00FFFF0000000000 + c.soff + i * c.ssz

/-- The slot whose start a handle's bits [55:4] name (R242). -/
def slotOf (c : RingCfg) (h : DWord) : Option Nat :=
  (List.range c.nslot).find? (fun i => slotAddr c i == bits h.toNat 4 52 * 16)

/-- A ring with one slot changed. -/
def ringSlot (r : Ring) (i : Nat) (f : Slot → Slot) : Ring := { r with slots := lset r.slots i (f (r.slots.getD i default)) }
/-- The state of a slot. -/
def slotSt (r : Ring) (i : Nat) : SlotSt := (r.slots.getD i { st := .free, eos := false, err := false, rcom := none }).st

/-- The device with a ring of a team changed. -/
def modRing (d : Dev) (tid n : Nat) (f : Ring → Ring) : Dev := modTeam d tid (fun t => { t with rings := tmod t.rings n f })

/-- racq on a FREE slot: it becomes RESERVED and rix moves on (R241). -/
def ringReserve (r : Ring) : Ring := { ringSlot r r.rix (fun x => { x with st := .reserved }) with rix := (r.rix + 1) % r.cfg.nslot }
/-- rcom on a RESERVED slot (R241), with the rcom whose stream a drain inherits (03 R101). -/
def ringCommit (r : Ring) (i : Nat) (eos err : Bool) (rcom : Option Nat) : Ring :=
  { ringSlot r i (fun x => { x with st := .committed, eos := eos, err := err, rcom := rcom }) with
    eosSeen := r.eosSeen || eos
    errSeen := r.errSeen || err }
/-- rpop on a COMMITTED slot (R241). -/
def ringPop (r : Ring) : Ring := { ringSlot r r.qix (fun x => { x with st := .popped }) with qix := (r.qix + 1) % r.cfg.nslot }
/-- rrel on a POPPED slot (R241). -/
def ringRelease (r : Ring) (i : Nat) : Ring := ringSlot r i (fun x => { x with st := .free, rcom := none })

/-- How many slots are in a state. -/
def slotCount (r : Ring) (st : SlotSt) : Nat := (r.slots.filter (fun x => x.st == st)).length
/-- The value of rstat (R247). -/
def rstatVal (r : Ring) : DWord :=
  BitVec.ofNat 64 ((if r.errSeen then 2 ^ 49 else 0) + (if r.eosSeen then 2 ^ 48 else 0) + r.qix % 64 * 2 ^ 40 +
    r.rix % 64 * 2 ^ 32 + slotCount r .popped * 2 ^ 24 + slotCount r .committed * 2 ^ 16 + slotCount r .reserved * 2 ^ 8 +
    slotCount r .free)

/-- The number of a named s register. -/
def sNumber (o : Operand) : Nat := (o.sNum?).getD 0

/-- GINTM of an operation's group, by which ring words and arrivals of one cycle are ordered. -/
def opGintm (d : Dev) (o : Op) : Nat := ((tget d.groups o.gid).map (fun g => g.gintm)).getD 0

/-- The ring a ring word names. -/
def ringNum : Instr → Nat
  | .rpop _ _ n => n.toNat | .racq _ _ n => n.toNat | .rcom _ _ n => n.toNat | .rrel _ _ n => n.toNat
  | .rstat _ _ n => n.toNat | .rcomEos _ _ n => n.toNat | .rcomErr _ _ n => n.toNat | _ => 0
def isRacq : Instr → Bool
  | .racq _ _ _ => true | _ => false
def isRcom : Instr → Bool
  | .rcom _ _ _ => true | .rcomEos _ _ _ => true | .rcomErr _ _ _ => true | _ => false
def isRpop : Instr → Bool
  | .rpop _ _ _ => true | _ => false

/-- Another word of the same kind, of a group of lower GINTM, waits on the same ring (R245). -/
def outranked (d : Dev) (id : Nat) (o : Op) (kind : Instr → Bool) : Bool :=
  d.ops.any (fun q => q.1 != id && kind q.2.word && q.2.tid == o.tid && ringNum q.2.word == ringNum o.word && opReady d q.2 &&
    decide (opGintm d q.2 < opGintm d o))

/-- A racq applied: none while it must wait (R241). -/
def tryRacq (d : Dev) (id : Nat) (o : Op) : Option Dev :=
  let n := ringNum o.word
  match ringOf d o.tid n, o.word with
  | some r, .racq _ dst _ =>
    if !opReady d o || o.wait || slotBehind d id o || slotSt r r.rix != .free || outranked d id o isRacq then none
    else some (completeOp (putS (modRing d o.tid n ringReserve) o.gid (sNumber dst) (BitVec.ofNat 64 (slotAddr r.cfg r.rix))) id)
  | _, _ => none

/-- The handle that rpop returns (R242). -/
def popHandle (r : Ring) : DWord :=
  let x := r.slots.getD r.qix default
  BitVec.ofNat 64 (slotAddr r.cfg r.qix + (if x.err then 2 else 0) + (if x.eos then 1 else 0))

/-- An rpop applied: none while it must wait (R241). -/
def tryRpop (d : Dev) (id : Nat) (o : Op) : Option Dev :=
  let n := ringNum o.word
  match ringOf d o.tid n, o.word with
  | some r, .rpop _ dst _ =>
    if !opReady d o || o.wait || slotBehind d id o || slotSt r r.qix != .committed || outranked d id o isRpop then none
    else some (completeOp (putS (modRing d o.tid n ringPop) o.gid (sNumber dst) (popHandle r)) id)
  | _, _ => none

/-- An rcom applied: a ring protocol violation, or the slot COMMITTED; with a drain the word stays in its stream (03 R101). -/
def tryCommit (d : Dev) (id : Nat) (o : Op) (eos err : Bool) : Option Dev :=
  let n := ringNum o.word
  match ringOf d o.tid n with
  | none => none
  | some r =>
    if !opReady d o || o.wait || o.applied then none
    else
      match slotOf r.cfg o.d with
      | none => some (opFatal d id (unitCore o.core) 0x41 0)
      | some i =>
        if slotSt r i != .reserved then some (opFatal d id (unitCore o.core) 0x40 0)
        else if r.cfg.cons = 1 then
          some (modOp (modRing d o.tid n (fun r => ringCommit r i eos err (some id))) id (fun o => { o with applied := true }))
        else some (completeOp (modRing d o.tid n (fun r => ringCommit r i eos err none)) id)

/-- An rrel applied (R241). -/
def tryRelease (d : Dev) (id : Nat) (o : Op) : Option Dev :=
  let n := ringNum o.word
  match ringOf d o.tid n with
  | none => none
  | some r =>
    if !opReady d o || o.wait then none
    else
      match slotOf r.cfg o.d with
      | none => some (opFatal d id (unitCore o.core) 0x41 0)
      | some i =>
        if slotSt r i != .popped then some (opFatal d id (unitCore o.core) 0x40 0)
        else some (completeOp (modRing d o.tid n (fun r => ringRelease r i)) id)

/-- An rstat applied (R247). -/
def tryRstat (d : Dev) (id : Nat) (o : Op) (dst : Operand) : Option Dev :=
  match ringOf d o.tid (ringNum o.word) with
  | none => none
  | some r => if !opReady d o || o.wait || slotBehind d id o then none else some (completeOp (putS d o.gid (sNumber dst) (rstatVal r)) id)

/-! ## Barriers (R248 to R252) -/

/-- A barrier completes when CNT = ARR and PEND = 0 (R248). -/
def barCheck (b : Bar) : Bar :=
  if b.cnt = b.arr ∧ b.pend = 0 then { b with ph := !b.ph, cnt := 0, recs := [], fed := false, gen := b.gen + 1 } else b

/-- An arrival of a group; none when CNT would exceed ARR (R248). -/
def barArrive (b : Bar) (gid : Nat) : Option Bar :=
  if b.arr ≤ b.cnt then none else some (barCheck { b with cnt := b.cnt + 1, recs := b.recs ++ [gid] })
/-- The feeder's arrival (09 R318). -/
def barFeed (b : Bar) : Option Bar :=
  if b.arr ≤ b.cnt then none else some (barCheck { b with cnt := b.cnt + 1, fed := true })

/-- Bytes that land lower PEND (R250). -/
def barLand (b : Bar) (n : Nat) : Bar := barCheck { b with pend := b.pend - BitVec.ofNat 64 n }
/-- barx raises PEND (R250). DESIGN CHOICE for a barrier whose ARR is 0: log 79. -/
def barExpect (b : Bar) (n : DWord) : Bar := barCheck { b with pend := b.pend + n }

/-- A named barrier of a team. -/
def namedBar (d : Dev) (tid n : Nat) : Bar := ((tget d.teams tid).bind (fun t => tget t.bars n)).getD default
/-- The device with a named barrier changed. -/
def modBar (d : Dev) (tid n : Nat) (f : Bar → Bar) : Dev := modTeam d tid (fun t => { t with bars := tmod t.bars n f })
/-- The cluster barrier of a team (R251). -/
def clusterBar (d : Dev) (tid : Nat) : Bar := ((tget d.clusters (teamCid d tid)).map (fun c => c.bar)).getD default
/-- The device with the cluster barrier changed. -/
def modCbar (d : Dev) (tid : Nat) (f : Bar → Bar) : Dev :=
  { d with clusters := tmod d.clusters (teamCid d tid) (fun c => { c with bar := f c.bar }) }

/-- The barrier a barrier word names: none is the cluster barrier. -/
def barNum : Instr → Option Nat
  | .barr _ n => some n.toNat | .barw _ n => some n.toNat | .barx _ _ n => some n.toNat | .pbar _ n => some n.toNat | _ => none
/-- A word of a barrier. -/
def isBarWord : Instr → Bool
  | .barr _ _ => true | .barw _ _ => true | .barx _ _ _ => true | .pbar _ _ => true | .cbarr _ => true | .cbarw _ => true
  | _ => false

/-- An earlier word of the group on the same barrier is still to be applied (R252). -/
def barBehind (d : Dev) (id : Nat) (o : Op) : Bool :=
  d.ops.any (fun q => decide (q.1 < id) && q.2.gid == o.gid && isBarWord q.2.word && barNum q.2.word == barNum o.word)

/-- A barrier word may be applied. -/
def barOpen (d : Dev) (id : Nat) (o : Op) : Bool := opReady d o && !o.wait && !barBehind d id o

/-- The pbar a group parks at has arrived: it parks until its barrier has completed that phase. -/
def parkArrived (d : Dev) (gid n gen : Nat) : Dev :=
  modGroup d gid (fun g => if g.bound.park = some n then { g with bound := { g.bound with parkGen := some gen } } else g)

/-- An arrival applied; one that would exceed ARR is context-fatal (R248). A pbar of a task with PHOFF = 0 is too (16 R455). -/
def tryArrive (d : Dev) (id : Nat) (o : Op) : Option Dev :=
  if !barOpen d id o then none
  else
    match o.word with
    | .cbarr _ =>
      (match barArrive (clusterBar d o.tid) o.gid with
       | none => some (opFatal d id (unitCore o.core) 0x50 0)
       | some b => some (completeOp (modCbar d o.tid (fun _ => b)) id))
    | w =>
      let n := (barNum w).getD 0
      let parks := match w with
        | .pbar _ _ => true
        | _ => false
      if parks && ((teamTask d o.tid).map (fun k => k.phoff)).getD 0 == 0 then some (opFatal d id (unitCore o.core) 0x2D 0)
      else
        match barArrive (namedBar d o.tid n) o.gid with
        | none => some (opFatal d id (unitCore o.core) 0x50 0)
        | some b =>
          let d1 := if parks then parkArrived d o.gid n (namedBar d o.tid n).gen else d
          some (completeOp (modBar d1 o.tid n (fun _ => b)) id)

/-- A barx applied (R250). -/
def tryBarx (d : Dev) (id : Nat) (o : Op) (n : Nat) : Option Dev :=
  if !barOpen d id o then none else some (completeOp (modBar d o.tid n (fun b => barExpect b o.d)) id)

/-- A barw or cbarw applied: it waits while its arrival's phase lasts (R250). prog keeps the phase it waits on, plus one. -/
def tryBarw (d : Dev) (id : Nat) (o : Op) (b : Bar) : Option Dev :=
  let ph := if b.ph then 2 else 1
  if !barOpen d id o then none
  else if o.prog = 0 then
    (if b.recs.contains o.gid then some (modOp d id (fun o => { o with prog := ph })) else some (completeOp d id))
  else if o.prog = ph then none
  else some (completeOp d id)

/-! ## What a settled device has applied -/

/-- The order of the words that are applied within one cycle (R245, R252). -/
def syncClass : Instr → Nat
  | .snop _ _ _ _ => 0 | .rcom _ _ _ => 0 | .rrel _ _ _ => 0 | .rcomEos _ _ _ => 0 | .rcomErr _ _ _ => 0
  | .barx _ _ _ => 1
  | .barr _ _ => 2 | .pbar _ _ => 2 | .cbarr _ => 2
  | .racq _ _ _ => 3 | .rpop _ _ _ => 3 | .rstat _ _ _ => 3
  | .barw _ _ => 4 | .cbarw _ => 4
  | _ => 5

/-- The member index of an operation's team (R252). -/
def opMember (d : Dev) (o : Op) : Nat := ((tget d.teams o.tid).map (fun t => 4 * t.row + t.col)).getD 0

/-- A memory word all of whose parts are done, or that has none, completes once its predecessors have, and in slot order among the
words of its packet that write one register (05 R153). -/
def tryFinish (d : Dev) (id : Nat) (o : Op) : Option Dev :=
  if (isLoad o.word || isStore o.word || (rmwForm o.word).isSome) && !o.wait && opReady d o && o.accs.all (fun a => a.done) &&
      !slotBehind d id o then some (finishMem d id)
  else none

/-- One word applied; none when there is nothing to do for it now. A racq or rpop that finds no slot waits for one, and takes it in
the cycle in which it becomes free or committed (R245). -/
def trySync (d : Dev) (id : Nat) (o : Op) : Option Dev :=
  match o.word with
  | .snop _ _ _ _ => if opReady d o && (!sysScope o.word || releaseOpen d) then some (completeOp (sysRelease d o.word) id) else none
  | .rcom _ _ _ => tryCommit d id o false false
  | .rcomEos _ _ _ => tryCommit d id o true false
  | .rcomErr _ _ _ => tryCommit d id o false true
  | .rrel _ _ _ => tryRelease d id o
  | .barx _ _ n => tryBarx d id o n.toNat
  | .barr _ _ => tryArrive d id o
  | .pbar _ _ => tryArrive d id o
  | .cbarr _ => tryArrive d id o
  | .racq _ _ _ => tryRacq d id o
  | .rpop _ _ _ => tryRpop d id o
  | .rstat _ dst _ => tryRstat d id o dst
  | .barw _ n => tryBarw d id o (namedBar d o.tid n.toNat)
  | .cbarw _ => tryBarw d id o (clusterBar d o.tid)
  | _ => tryFinish d id o

/-- The sort key of a word to be applied: class, member, GINTM. -/
def syncKey (d : Dev) (o : Op) : Nat := (syncClass o.word * 32 + opMember d o) * 16 + opGintm d o

/-- An operation's unit has raised a fault for it. -/
def faulted (d : Dev) (id : Nat) : Bool := ((tget d.ops id).map (fun o => o.wait)).getD false

/-- A word whose application, giving r, is a fault: of the words of its packet that fail now, the one of the lowest slot is reported, and
none of the others (16 R453, log 86). -/
def syncFault (d : Dev) (id : Nat) (o : Op) (r : Dev) : Dev :=
  if !faulted r id then r
  else
    let qs := (packetOps d id o).filterMap (fun q => (trySync d q.1 q.2).bind (fun x => if faulted x q.1 then some (q.1, x) else none))
    match qs with
    | [] => r
    | q :: t => t.foldl (fun d y => modOp d y.1 (fun o => { o with wait := true })) q.2

/-- The first word, in the order of one cycle, that can be applied. -/
def syncNext (d : Dev) : Option Dev :=
  let xs := d.ops.filterMap (fun q => (trySync d q.1 q.2).map (fun r => (syncKey d q.2, syncFault d q.1 q.2 r)))
  match xs with
  | [] => none
  | x :: t => some (t.foldl (fun a b => if b.1 < a.1 then b else a) x).2

/-- A ring whose feeder has committed all its slots (09 R318). -/
def feederDone (r : Ring) : Bool :=
  decide (r.cfg.c0 * r.cfg.c1 * r.cfg.c2 * r.cfg.c3 ≤ r.fed) && (!r.cfg.feos || r.feosDone)

/-- The rings of a team's feeder that name a barrier (09 R318). -/
def fedRings (t : Team) (n : Nat) : List Ring :=
  (t.rings.filter (fun r => r.2.cfg.prod == 0 && r.2.cfg.fben && r.2.cfg.fbar == n)).map (fun r => r.2)

/-- A feeder's arrival that is due (09 R318): after every arrival of groups, one for the feeder in each phase, once all of its slots that
the barrier counts are committed. One that would make CNT exceed ARR is context-fatal (17 R468). -/
def feederNext (d : Dev) : Option Dev :=
  d.teams.findSome? (fun t =>
    if t.2.st == .retired then none
    else
      (List.range 16).findSome? (fun n =>
        let b := namedBar d t.1 n
        if !(fedRings t.2 n).isEmpty && (fedRings t.2 n).all feederDone && !b.fed then
          (match barFeed b with
           | some b1 => some (modBar d t.1 n (fun _ => b1))
           | none => some (modBar (raiseHalt d t.2.part (unitFeed t.2.core) 7 0x5000000000000000#64) t.1 n (fun b => { b with fed := true })))
        else none))

/-- The device with every ring and barrier word applied that can be, within a number of applications. -/
def syncGo : Nat → Dev → Dev
  | 0, d => d
  | n + 1, d =>
    match syncNext d with
    | some d1 => syncGo n d1
    | none =>
      match feederNext d with
      | some d1 => syncGo n d1
      | none => d

/-- Every ring and barrier word that can be applied, applied (log 13). -/
def syncAll (d : Dev) : Dev := syncGo (3 * d.ops.length + 8) d

end Sys2Proof.Machine
end

