-- ==== Sys2Proof/Machine/Fetch.lean ====
section
/-! DEFINITION. Fetching a packet, decoding it and the checks of stage D (02 R41 and R44; 05 R144, R145, R151, R157, R159, R180;
16 R452 to R458), and what a packet waits for before it issues (03 R94, 05 R155, 09 R332 and R333). -/

namespace Sys2Proof.Machine

/-! ## Fetch (stage F) -/

/-- What the fetch of a packet finds: its three words with what the translations used and the lines the instruction cache lacks; a
translation fault; a context-fatal reason; or a failing word, which no fetch gets past (14 R403). -/
inductive Fetched where
  | words (ws : List Word) (fills : List Touch) (ic : List Nat)
  | fault (va lvl e : Nat)
  | bad (reason : Nat)
  | busy
  deriving DecidableEq, Repr, Inhabited

/-- One word of code fetched by a core (03 R89): through its instruction cache. DESIGN CHOICE for an address past 56 bits: log 76. -/
def fetchWord (d : Dev) (p tid core va fi : Nat) : Fetched :=
  let r := xlate d p (.team tid) va fi
  if r.2.any (badTouch d) then .busy
  else match checkAcc r.1 .fetch false with
  | .fault lvl e => .fault va lvl e
  | .prot x => .bad x
  | .ok (.dev pa _) _ _ =>
    (match tget (tgetD d.cores core default).ic (pa / 128) with
     | some bs => .words [BitVec.ofNat 32 (leNat ((bs.drop (pa % 128)).take 4))] r.2 []
     | none => if badLine d (pa / 128) then .busy else .words [BitVec.ofNat 32 (readNat d.mem pa 4)] r.2 [pa / 128])
  | .ok _ _ _ => .bad 0x25

/-- The three words of a packet, or the fault of the first that fails. -/
def fetchAll (d : Dev) (p tid core va fi : Nat) : Fetched :=
  match fetchWord d p tid core va fi, fetchWord d p tid core (va + 4) fi, fetchWord d p tid core (va + 8) fi with
  | .words a fa ia, .words b fb ib, .words c fc ic => .words (a ++ b ++ c) (fa ++ fb ++ fc) (ia ++ ib ++ ic)
  | .words _ _ _, .words _ _ _, r => r
  | .words _ _ _, r, _ => r
  | r, _, _ => r

/-- The packet at index pc of a group's task: an index at or beyond NPKT is not fetched (02 R44). -/
def fetchPacket (d : Dev) (g : Group) (pc : Word) (fi : Nat) : Fetched :=
  match teamTask d g.tid with
  | none => .bad 0x25
  | some k =>
    if k.npkt ≤ pc.toNat then .bad 0x25
    else fetchAll d (teamPart d g.tid) g.tid g.core (k.code + 12 * pc.toNat) fi

/-! ## Decode of a packet (05 R145, R152) -/

/-- What a slot of a packet holds: an instruction; a word that fails a check of its own, with the instruction of its
selectors and every reason; or the packet's literal. -/
inductive SlotWord where
  | instr (i : Instr)
  | bad (i : Option Instr) (reasons : List Nat)
  | lit (x : Word)
  deriving DecidableEq, Repr, Inhabited

/-- A slot that holds an instruction word: its instruction when every check of the word alone passes (16 R453, R456). -/
def slotWord (w : Word) : SlotWord :=
  match shape w with
  | .error r => .bad none [r]
  | .ok i =>
    let rs := wfReasons i ++ spareReasons w i
    if rs.isEmpty then .instr i else .bad (some i) rs

/-- The word names lit, whether or not it is legal. -/
def wordNamesLit (w : Word) : Bool :=
  match shape w with
  | .ok i => namesLit i
  | .error _ => false

/-- The three slots of a packet. -/
def slotsOf (ws : List Word) : List SlotWord :=
  let w0 := ws.getD 0 0#32
  let w1 := ws.getD 1 0#32
  let w2 := ws.getD 2 0#32
  if wordNamesLit w0 then [slotWord w0, .lit w1, slotWord w2]
  else if wordNamesLit w1 then [slotWord w0, slotWord w1, .lit w2]
  else [slotWord w0, slotWord w1, slotWord w2]

/-- The packet's literal; 0 when it has none, which no word reads. -/
def litOf (ss : List SlotWord) : Word :=
  (ss.findSome? (fun x => match x with
    | .lit w => some w
    | _ => none)).getD 0#32

/-- The instruction whose selectors a slot holds. -/
def instrAt (ss : List SlotWord) (j : Nat) : Option Instr :=
  match ss[j]? with
  | some (.instr i) => some i
  | some (.bad i _) => i
  | _ => none

/-! ## Stage D over a packet -/

/-- The chain bit C of a word. -/
def chainBit (w : Word) : Bool := w.getLsbD 31

/-- An executed word: an instruction other than nop (R159). -/
def executed (ss : List SlotWord) (j : Nat) : Bool :=
  match instrAt ss j with
  | some i => (desc i).pipe != .none
  | none => false

/-- The words of slots j and j' stand in one bundle (R159): every executed word from j up to the one before j' is chained. -/
def sameBundle (ws : List Word) (ss : List SlotWord) (j j' : Nat) : Bool :=
  executed ss j && executed ss j' &&
  (List.range 3).all (fun i => !(decide (j ≤ i) && decide (i < j')) || !executed ss i || chainBit (ws.getD i 0#32))

/-- The latch operands of a word. -/
def latchUses (i : Instr) : List (Src × Nat) :=
  (desc i).srcs.filterMap (fun x => match x.op with
    | .b j => some (x, j.val)
    | _ => none)

/-- The reasons a latch read in slot j breaks R151, or needs a uniform latch and reads another (R149, 16 R457). -/
def latchReasons (ws : List Word) (ss : List SlotWord) (j : Nat) (i : Instr) : List Nat :=
  let p := desc i
  let dS := p.d.isS && p.dst != .none
  (latchUses i).flatMap (fun u =>
    let src := instrAt ss u.2
    let legal := decide (u.2 < j) && !sameBundle ws ss u.2 j && ((src.map (fun q => (desc q).latch)).getD false)
    if !legal then [0x07]
    else reasonIf ((u.1.uniform || (dS && !u.1.exempt)) && !((src.map (fun q => (desc q).d.isS)).getD false)) 0x0C)

/-- The word of slot j repeats a class of its bundle (R159); it is reported at the later word. -/
def bundleClash (ws : List Word) (ss : List SlotWord) (j : Nat) (i : Instr) : Bool :=
  (List.range j).any (fun k => sameBundle ws ss k j && ((instrAt ss k).map (fun q => (desc q).pipe == (desc i).pipe)).getD false)

/-- The word of slot j is a second control-transfer word (R157). -/
def secondControl (ss : List SlotWord) (j : Nat) (i : Instr) : Bool :=
  (desc i).ctl && (List.range j).any (fun k => ((instrAt ss k).map (fun q => (desc q).ctl)).getD false)

/-- The reasons for which slot j, a word of i's selectors, fails stage D beside the checks of the word alone. -/
def packetReasons (g : Group) (ws : List Word) (ss : List SlotWord) (j : Nat) (i : Instr) : List Nat :=
  latchReasons ws ss j i ++ reasonIf (j == 2 && namesLit i) 0x08 ++ reasonIf (bundleClash ws ss j i) 0x09 ++
  reasonIf (secondControl ss j i) 0x0A ++ (illegalUse g i).toList

/-- Every reason for which slot j fails stage D. -/
def slotReasons (g : Group) (ws : List Word) (ss : List SlotWord) (j : Nat) : List Nat :=
  match ss[j]? with
  | some (.bad none rs) => rs
  | some (.bad (some i) rs) => rs ++ packetReasons g ws ss j i
  | some (.instr i) => packetReasons g ws ss j i
  | _ => []

/-- Stage D of a packet (16 R453): the lowest slot that fails, with its lowest reason. -/
def stageD (g : Group) (ws : List Word) : Option (Nat × Nat) :=
  let ss := slotsOf ws
  (List.range 3).findSome? (fun j => (leastReason (slotReasons g ws ss j)).map (fun r => (j, r)))

/-! ## What a packet waits for -/

/-- The core still issues packets of a partition (14 R407): it has not stopped, and a halt is at most 8 cycles old. -/
def coreRuns (d : Dev) (p core : Nat) : Bool := unitRuns d p (unitCore core)

/-- A hold keeps the group from issuing (07 R244, R250, R258; 08 R285). DESIGN CHOICE for when a barw begins to hold: log 77. -/
def groupHeld (d : Dev) (gid : Nat) (g : Group) : Bool :=
  !g.bound.svc.isEmpty || anyOp d gid (fun o => holdsGroup o.word && !o.gather)

/-- The group is on its core, with its registers: in place, or chosen by a pre-emption and not yet taken off (02 R70). -/
def onCore (g : Group) : Bool := g.place == .resident || g.place == .evicting

/-- The implicit return is due, which is part of step 3 of R70 (02 R41, R47): no lane is live inside a call. -/
def implicitDue (g : Group) : Bool := g.bound.slide.isNone && !g.bound.tret && (minPc g).isNone && decide (0 < g.depth)

/-- A pbar of the group has still to park it: outside a handler, or when its own packet ran inside one (02 R70, log 63). -/
def parkDue (g : Group) : Bool := g.bound.park.isSome && (g.handler.isNone || g.bound.parkIn)

/-- Nothing of the boundary behind the group is still to be done but a pre-emption (02 R70, steps 1 to 5). -/
def boundDone (g : Group) : Bool :=
  onCore g && !g.bound.dead && g.bound.slide.isNone && g.bound.trap.isNone && g.bound.xtrap.isNone &&
  !g.bound.tret && !g.bound.timer && !parkDue g

/-- Nothing of the boundary behind the group is still to be done, and it is in place (02 R70). -/
def boundClear (g : Group) : Bool := g.place == .resident && boundDone g && !g.bound.fault

/-- The group may issue but for a yield, its interlocks, its gate and its tokens. -/
def baseReady (d : Dev) (gid : Nat) (g : Group) : Bool :=
  boundClear g && !groupHeld d gid g && !anyOp d gid (fun o => o.gather) && coreRuns d (teamPart d g.tid) g.core &&
  (minPc g).isSome

/-- The ordering clause of a word: its stream and predecessors (05 R164). -/
def clauseOf : Instr → Option (BitVec 2 × BitVec 4)
  | .ld m _ _ _ _ => some (m.o, m.p) | .ldnc m _ _ _ _ => some (m.o, m.p) | .lds m _ _ _ _ => some (m.o, m.p)
  | .ldu m _ _ _ _ => some (m.o, m.p) | .ldAcq m _ _ _ _ => some (m.o, m.p) | .st m _ _ _ _ => some (m.o, m.p)
  | .stm m _ _ _ => some (m.o, m.p) | .stRel m _ _ _ _ => some (m.o, m.p) | .atom m _ _ _ _ => some (m.o, m.p)
  | .cas m _ _ _ => some (m.o, m.p) | .atomSwap m _ _ _ => some (m.o, m.p) | .fatom m _ _ _ _ => some (m.o, m.p)
  | .xaddS m _ _ => some (m.o, m.p) | .xaddD m _ _ => some (m.o, m.p) | .vbt m _ _ => some (m.o, m.p)
  | .snop _ _ o p => some (o, p)
  | .rpop m _ _ => some (m.o, m.p) | .racq m _ _ => some (m.o, m.p) | .rcom m _ _ => some (m.o, m.p)
  | .rrel m _ _ => some (m.o, m.p) | .rstat m _ _ => some (m.o, m.p) | .rcomEos m _ _ => some (m.o, m.p)
  | .rcomErr m _ _ => some (m.o, m.p) | .barr m _ => some (m.o, m.p) | .barw m _ => some (m.o, m.p)
  | .barx m _ _ => some (m.o, m.p) | .pbar m _ => some (m.o, m.p) | .cbarr m => some (m.o, m.p) | .cbarw m => some (m.o, m.p)
  | .ntc m _ _ => some (m.o, m.p) | .mxd m _ => some (m.o, m.p) | .mxb m _ => some (m.o, m.p) | .mxg m _ => some (m.o, m.p)
  | .mxq m _ => some (m.o, m.p) | .acld m _ _ => some (m.o, m.p) | .acst m _ _ => some (m.o, m.p)
  | .aczr m _ _ => some (m.o, m.p) | .xaccE32 m _ _ => some (m.o, m.p) | .xaccE64 m _ _ => some (m.o, m.p)
  | .xrndE32 m _ _ _ => some (m.o, m.p) | .xrndE64 m _ _ _ => some (m.o, m.p) | .xmovSt m _ _ => some (m.o, m.p)
  | .xmovLd m _ _ => some (m.o, m.p) | .trace m _ _ => some (m.o, m.p) | .vmarch m _ _ => some (m.o, m.p)
  | .ovq m _ _ => some (m.o, m.p) | .refit m _ => some (m.o, m.p) | .attr m _ _ => some (m.o, m.p)
  | .dsc m _ _ => some (m.o, m.p) | .rbin m _ _ => some (m.o, m.p) | .tex m _ _ => some (m.o, m.p)
  | .slg m _ _ => some (m.o, m.p)
  | _ => none

/-- A matrix command of a packet, with its guard (08 R272). -/
def mxGuard : Instr → Option (BitVec 3)
  | .mxd m _ => some m.k | .mxb m _ => some m.k | .mxg m _ => some m.k | _ => none

/-- Requests that a core has outstanding: the parts of its accesses that are not done. -/
def coreLoad (d : Dev) (core : Nat) : Nat := (d.ops.filter (fun o => o.2.core == core)).foldl (fun n o => n + (o.2.accs.filter (fun a => !a.done)).length) 0

/-- A core holds 4,096 outstanding requests (01 R22): a packet waits while those of its memory words, at most 128 each, might not find
room (log 66). -/
def requestRoom (d : Dev) (core : Nat) (is : List Instr) : Bool :=
  let n := (is.filter isAccess).length
  n == 0 || decide (coreLoad d core + 128 * n ≤ 4096)

/-- The gate of 03 R94, with the wait of a full matrix queue (08 R272) and of a core whose requests are outstanding. -/
def gateOpen (d : Dev) (g : Group) (act : Mask) (is : List Instr) : Bool :=
  let cs := is.filterMap clauseOf
  let room := fun s => decide (g.cnt.getD s 0 + (cs.filter (fun c => c.1.toNat == s)).length ≤ 63)
  let quiet := fun (c : BitVec 2 × BitVec 4) => (List.range 4).all (fun s => !c.2.getLsbD s || g.cnt.getD s 0 == 0)
  let mx := (is.filter (fun i => match mxGuard i with
    | some k => (act &&& readK g k.toNat) != 0#64
    | none => false)).length
  cs.all quiet && (List.range 4).all room && requestRoom d g.core is &&
  (mx == 0 || decide ((tgetD d.cores g.core default).mq.length + mx ≤ 16))

/-! ## Interlocks (05 R155) -/

/-- The registers a source reads. -/
def srcRegs (x : Src) : List Nat :=
  match x.rule with
  | .cas32 => regsOf x.op 2 2
  | .cas64 => regsOf x.op 4 2
  | .stm => regsOf x.op 3 2
  | .vbt => regsOf x.op 4 2
  | _ => regsOf x.op (if x.wide then 2 else 1) 1
/-- Every register a word reads or writes; rbin also reads the carry set (08 R269). -/
def touched (carry : DWord) (i : Instr) : List Nat :=
  let p := desc i
  p.srcs.flatMap srcRegs ++ dstRegs p.d p.dst ++ (match i with
    | .rbin _ _ _ => carryV carry
    | _ => [])
/-- A packet reads or writes a register that still awaits a load or engine result. -/
def interlocked (d : Dev) (gid : Nat) (carry : DWord) (is : List Instr) : Bool :=
  let xs := is.flatMap (touched carry)
  anyOp d gid (fun o => writesReg o.word && !o.gather && (awaited o.word).any (fun r => xs.contains r))

/-- The tokens a packet's words claim (09 R333): a V-class word 1 for each 32 lanes, an M-class word 1. -/
def pktTokens (width : Nat) (is : List Instr) : Nat :=
  is.foldl (fun n i => match (desc i).pipe with
    | .v => n + (width + 31) / 32
    | .m => n + 1
    | _ => n) 0

/-- The instructions of a packet's slots. -/
def instrsOf (ss : List SlotWord) : List Instr :=
  ss.filterMap (fun x => match x with
    | .instr i => some i
    | _ => none)

/-- The carry set of a group's task. -/
def carryOf (d : Dev) (g : Group) : DWord := ((teamTask d g.tid).map (fun k => k.carry)).getD 0

/-- The active set of a group at a packet index (02 R41). -/
def activeSet (g : Group) (pc : Word) : Mask := maskOf g.width (fun l => liveLane g l && g.lpc.getD l 0#32 == pc)

/-! ## Readiness (09 R332) -/

/-- What a packet that is fetched still waits for (09 R332): interlocks, the gate and its tokens.
DEDUCED for a packet with an illegal word: log 80. -/
def packetReady (d : Dev) (gid : Nat) (g : Group) (pc : Word) (ss : List SlotWord) : Bool :=
  let is := instrsOf ss
  !interlocked d gid (carryOf d g) is && gateOpen d g (activeSet g pc) is && (g.tok || pktTokens g.width is == 0)

/-- A group is ready to issue but for a yield: its next packet waits for nothing. -/
def groupReady (d : Dev) (gid : Nat) (g : Group) (fi : Nat) : Bool :=
  baseReady d gid g &&
  (match minPc g with
   | some pc => (match fetchPacket d g pc fi with
     | .words ws _ _ => packetReady d gid g pc (slotsOf ws)
     | .busy => false
     | _ => true)
   | none => false)

/-- A yield holds the group back while some group it yielded to is ready and has not issued (06 R193). -/
def yieldWaits (d : Dev) (fi : Nat) (ready : Nat → Group → Bool) (g : Group) : Bool :=
  match g.yieldEnd with
  | none => false
  | some t => decide (d.cyc < t) && g.yieldLeft.any (fun x => match tget d.groups x with
      | some y => groupReady d x y fi && ready x y
      | none => false)

/-- A yield no longer keeps the group back (06 R193): a group that is itself in the wait of a yield is not ready. -/
def yieldOver (d : Dev) (g : Group) (fi : Nat) : Bool :=
  !yieldWaits d fi (fun _ y => !yieldWaits d fi (fun _ _ => true) y) g

end Sys2Proof.Machine
end

