-- ==== Sys2Proof/Machine/Choice.lean ====
section
/-! DEFINITION. The next packet of a group, and which group an issue port chooses (05 R180, 09 R332). -/

namespace Sys2Proof.Machine

/-! ## The next packet of a group -/

/-- The next packet of a ready group: its index, its three words, the slots decoded from them, and the cache entries the fetch
used; or a fetch or stage D that fails. -/
inductive Next where
  | packet (pc : Word) (ws : List Word) (ss : List SlotWord) (fills : List Touch) (ic : List Nat)
  | fetchFault
  | illegal
  deriving DecidableEq, Repr, Inhabited

/-- The next packet of a group; none while the group is not ready. -/
def nextPacket (d : Dev) (gid : Nat) (g : Group) (fi : Nat) : Option Next :=
  if !baseReady d gid g || !yieldOver d g fi then none
  else
    match minPc g with
    | none => none
    | some pc =>
      match fetchPacket d g pc fi with
      | .fault _ _ _ => some .fetchFault
      | .bad _ => some .fetchFault
      | .busy => none
      | .words ws fills ic =>
        let ss := slotsOf ws
        if !packetReady d gid g pc ss then none
        else
          match stageD g ws with
          | some _ => some .illegal
          | none => some (.packet pc ws ss fills ic)

/-! ## The choice of a port (09 R332) -/

/-- PRIO of a group's task. -/
def groupPrio (d : Dev) (g : Group) : Nat := ((teamTask d g.tid).map (fun k => k.prio)).getD 0

/-- The group holds the port's hint. -/
def hinted (d : Dev) (port gid : Nat) (g : Group) : Bool :=
  match tget (tgetD d.cores g.core default).stay port with
  | some (h, n) => h == gid && decide (n < 8)
  | none => false

/-- The keys of R332 as numbers, the one to choose having the lesser. -/
def issueKey (d : Dev) (port : Nat) (x : Nat × Group) : List Nat :=
  let g := x.2
  [3 - groupPrio d g, if hinted d port x.1 g then 0 else 1, if timerDue g then 0 else 1, g.pcSince, g.rslot]

/-- The lesser of two lists of numbers, the first difference deciding. -/
def keyLt : List Nat → List Nat → Bool
  | a :: x, b :: y => decide (a < b) || (a == b && keyLt x y)
  | _, _ => false

/-- The group a port chooses. -/
def portChoice (d : Dev) (core port fi : Nat) : Option Nat :=
  let xs := d.groups.filter (fun x => x.2.core == core && x.2.rslot % 2 == port && (nextPacket d x.1 x.2 fi).isSome)
  match xs with
  | [] => none
  | x :: t => some (t.foldl (fun a b => if keyLt (issueKey d port b) (issueKey d port a) then b else a) x).1

end Sys2Proof.Machine
end

