-- ==== Sys2Proof/Machine/Completion.lean ====
section
/-! DEFINITION. The events in which accesses reach their homes and caches give up lines: completions of loads, stores and
read-modify-writes, requests of other devices, and evictions (03 R83 to R91, R104; 10 R349). -/

namespace Sys2Proof.Machine

/-- LOAD_COMPLETE (03 R91): a part of a load is bound; the last one writes the registers and lowers the stream's count. -/
def execLoadComplete (op part : Nat) (s : State) : Out := withDev s (bindPart s.dev op part)

/-- STORE_APPLIED (03 R87): a part of a store is applied at its home; the last one completes the store. -/
def execStoreApplied (op part : Nat) (s : State) : Out := withDev s (applyPart s.dev op part)

/-- RMW_APPLIED (03 R104): one read-modify-write is performed at its home. -/
def execRmwApplied (op part : Nat) (s : State) : Out := withDev s (rmwPart s.dev op part)

/-- A request of another device is performed only when its scope is the scope of the partition that holds the octant
(03 R83, 11 R363), and that partition is neither halted nor being released (17 R475). -/
def remoteAllowed (d : Dev) (r : RemoteReq) : Bool :=
  let ok := fun pa => paScope d pa != 0 && paScope d pa == r.scope.toNat
  ok r.pa && ((r.cross.map (fun c => ok c.2)).getD true)

/-- The operands of a remote read-modify-write. -/
def remoteIn (x y : BitVec 128) : LaneIn := { lane := 0, a := x.setWidth 64, d := y, run := [] }

/-- The second part of a request's record, when it lies in another page (03 R105). -/
def remoteCross (r : RemoteReq) : Option (Nat × Target) := r.cross.map (fun c => (c.1, .dev c.2 false))

/-- A request of another device performed at the home slice: the device and its answer. -/
def remoteDo (d : Dev) (r : RemoteReq) : Dev × List Byte :=
  match r.act with
  | .read n => (llcRead d r.pa n, readBytes d.mem r.pa n)
  | .write bs => (devWrite d r.pa bs, [])
  | .rmw f x y =>
    let n1 := (r.cross.map (fun c => c.1)).getD (rmwLen f)
    let d1 := llcRead d r.pa n1
    let d1 := (r.cross.map (fun c => llcRead d1 c.2 (rmwLen f - n1))).getD d1
    (homeRmw d1 0 f (.dev r.pa false) (remoteCross r) (remoteIn x y)).getD (d1, [])

/-- A request's home waits: a failing word holds it (14 R403). -/
def remoteHeld (d : Dev) (r : RemoteReq) : Bool := held d (.dev r.pa false) || ((r.cross.map (fun c => held d (.dev c.2 false))).getD false)

/-- The flits of a request of another device: it enters at the edge leaf of the port that its superblock takes, and the answer leaves at
the home slice, in the channels of the partition that holds the octant (11 R357, log 68). -/
def remoteFlits (d : Dev) (r : RemoteReq) (back : Nat) : Dev :=
  let data := match r.act with
    | .read _ => 0
    | .write bs => (bs.length + 31) / 32
    | .rmw _ _ _ => 1
  match paOct d r.pa with
  | some o =>
    let p := octPn d o
    netAdd (netAdd d (104 + (portFor d (regBits d offDomid 0 9) r.pa).getD 0 / 3) p (1 + data)) (48 + homeSlice r.pa) (8 + p) (1 + (back + 31) / 32)
  | none => d

/-- REMOTE_ACCESS: while a port carries traffic (11 R370, 14 R424) a request arrives, and is performed or refused. -/
def execRemoteAccess (r : RemoteReq) (s : State) : Out :=
  let d := s.dev
  if regBits d offDomid 10 1 = 0 ∨ (List.range 18).all (fun k => linkDown d (unitPort k) || linkBusy d (unitPort k)) ∨ remoteHeld d r then withDev s d
  else if remoteAllowed d r then
    let x := remoteDo d r
    withDev s { remoteFlits x.1 r x.2.length with reply := some x.2 }
  else withDev s { remoteFlits d r 0 with reply := none }

/-- DCACHE_LINE_EVICT (03 R88): a line may be evicted at any moment. -/
def execDcacheLineEvict (core line : Nat) (s : State) : Out :=
  withDev s (modCore s.dev core (fun k => { k with dc := tdel k.dc line }))

/-- A superblock of the LLC is among its slice's first victims (03 R86, 10 R349). -/
def evictable (d : Dev) (sb : Nat) : Bool := (tget d.llc sb).isSome && (llcVictims d (homeSlice (sb * 512))).contains sb

/-- LLC_SUPERBLOCK_EVICT (03 R86): a superblock leaves the LLC, its dirty lines written back; no value that any program reads
changes. -/
def execLlcSuperblockEvict (sb : Nat) (s : State) : Out :=
  let d := s.dev
  if evictable d sb then withDev s { d with llc := tdel d.llc sb } else withDev s d

end Sys2Proof.Machine
end

