-- ==== Sys2Proof/Machine/Tasks.lean ====
section
/-! DEFINITION. Task descriptors, the room of a core, and the creation of teams and groups (09 R310 to R320, R325; 02 R36 to
R40). -/

namespace Sys2Proof.Machine

/-- The n-byte little-endian number at an offset of a run of bytes. -/
def at_ (bs : List Byte) (off n : Nat) : Nat := leNat ((bs.drop off).take n)

/-! ## The TD's accesses (17 R462) -/

/-- Why a step of the TD or the graph engine did not happen: a translation fault, a refusal with its TDET code and address, or a
lost link. -/
inductive TdErr where
  | xl (va lvl e : Nat) (acc : AccKind)
  | refuse (code addr : Nat)
  | link (unit : Nat)
  | busy
  deriving DecidableEq, Repr, Inhabited

/-- An error of a unit's access as the TD reports it: code 0x02 with the given address. -/
def tdErr (addr : Nat) : MemErr → TdErr
  | .xl va lvl e acc => .xl va lvl e acc
  | .prot _ _ => .refuse 0x02 addr
  | .link u => .link u
  | .busy => .busy

/-- The cause of a TDET code (R462). -/
def tdCause (code : Nat) : Nat := if code = 5 ∨ code = 6 then 8 else if code = 0x0A ∨ code = 0x0C then 5 else 1

/-- A refusal of an octant's TD: its event with TDET. -/
def tdRefuseAt (d : Dev) (p oct code addr : Nat) : Dev :=
  raiseHalt d p (unitOct oct 0) (tdCause code) (BitVec.ofNat 64 (code * 2 ^ 56 + addr % 2 ^ 56))
/-- A refusal of the serving TD. -/
def tdRefuse (d : Dev) (p code addr : Nat) : Dev := tdRefuseAt d p (servingOct d p) code addr

/-- n bytes read by the TD with home reads, on behalf of the record at an address. -/
def tdRead (d : Dev) (p va n addr fi : Nat) : Except TdErr (List Byte × Dev) :=
  match unitRead d p (tdAgent d p) va n fi with
  | .ok r => .ok r
  | .error e => .error (tdErr addr e)

/-- Bytes written by the TD or the graph engine. -/
def tdWrite (d : Dev) (p va : Nat) (bs : List Byte) (addr fi : Nat) : Except TdErr Dev :=
  match unitWriteWhole d p (tdAgent d p) .leave va bs fi with
  | .ok d1 => .ok d1
  | .error e => .error (tdErr addr e)

/-- What the TD does on an error: a report of a source kind on which the given waiter waits, or a refusal. -/
def tdFailAs (d : Dev) (p oct src : Nat) (who : Waiter) : TdErr → Dev
  | .xl va lvl e acc => addReport d p (unitOct oct 0) src va lvl e acc who
  | .refuse code addr => tdRefuseAt d p oct code addr
  | .link u => raiseHalt d p u 0x0B 0
  | .busy => d
/-- What the TD of an octant does on an error of its own work. -/
def tdFail (d : Dev) (p oct : Nat) (who : Waiter) (e : TdErr) : Dev := tdFailAs d p oct 6 who e

/-- The step is taken again later: a page is not mapped, or a link is retrained (R441, 14 R424). -/
def tdWaits : TdErr → Bool
  | .xl _ _ _ _ => true
  | .busy => true
  | .refuse _ _ => false
  | .link _ => false

/-! ## Task descriptors (R310, R311, R313, R316) -/

/-- A ring entry. -/
def parseRing (bs : List Byte) : RingCfg :=
  let w := at_ bs 0 8
  { soff := bits w 0 20, nslot := bits w 20 7, ssz := 16 * bits w 28 12, prod := bits w 40 2, cons := bits w 42 2,
    fbar := bits w 44 4, fben := bit w 48, valid := bit w 49, feos := bit w 50, pbase := BitVec.ofNat 64 (at_ bs 8 8),
    tstr := BitVec.ofNat 64 (at_ bs 16 8), c0 := at_ bs 24 4, c1 := at_ bs 28 4, c2 := at_ bs 32 4, c3 := at_ bs 36 4,
    s1 := BitVec.ofNat 64 (at_ bs 40 8), s2 := BitVec.ofNat 64 (at_ bs 48 8), s3 := BitVec.ofNat 64 (at_ bs 56 8) }

/-- A ring that uses its pattern: a feeder fills it or a drain empties it. -/
def usesPattern (r : RingCfg) : Bool := r.prod == 0 || r.cons == 1

/-- The bytes a ring takes. -/
def ringBytes (r : RingCfg) : Nat := r.nslot * r.ssz

/-- The conditions on one ring entry that need no other (R316, R311). -/
def ringOk (bs : List Byte) (allot : Nat) : Bool :=
  let w := at_ bs 0 8
  let r := parseRing bs
  !bit w 27 && bits w 51 13 == 0 &&
  (!r.valid ||
    (decide (1 ≤ r.nslot) && decide (r.nslot ≤ 64) && decide (1 ≤ bits w 28 12) && decide (bits w 28 12 ≤ 2048) &&
     r.prod != 3 && r.cons != 3 && !(r.prod == 0 && r.cons == 1) && r.soff % 16 == 0 && decide (64 ≤ r.soff) &&
     decide (r.soff + ringBytes r ≤ allot) && (usesPattern r || at_ bs 8 56 == 0)))

/-- No two rings overlap. -/
def ringsApart : List RingCfg → Bool
  | [] => true
  | r :: t => t.all (fun q => apart r.soff (ringBytes r) q.soff (ringBytes q)) && ringsApart t

/-- An extent entry (R313). -/
def parseExt (bs : List Byte) : ExtDecl := { base := at_ bs 0 8, size := bits (at_ bs 8 8) 0 48, mode := bits (at_ bs 8 8) 48 2 }
/-- The conditions of R313. -/
def extOk (bs : List Byte) : Bool :=
  let x := parseExt bs
  bits (at_ bs 8 8) 50 14 == 0 && x.base % 65536 == 0 && x.size % 65536 == 0 && (x.mode == 0 || decide (65536 ≤ x.size))

/-- Chunks of a run of bytes. -/
def chunks (bs : List Byte) (off size n : Nat) : List (List Byte) := (List.range n).map (fun i => (bs.drop (off + i * size)).take size)

/-- A task descriptor's fields (R310). -/
def parseTask (bs : List Byte) (addr : Nat) : Task :=
  let sh := at_ bs 20 4
  let sched := at_ bs 32 4
  { addr := addr, code := at_ bs 0 8, entry := at_ bs 8 4, npkt := at_ bs 12 4, grid := at_ bs 16 4, width := 16 * 2 ^ bits sh 0 2,
    pool := 8 * bits sh 2 6, gpt := bits sh 8 4 + 1, cwm := bits sh 12 2, chm := bits sh 14 3, spq := at_ bs 24 1, amq := at_ bs 25 1,
    phoff := at_ bs 28 4, prio := bits sched 0 2, ecls := bits sched 2 2, mat := bit sched 4, tfstr := at_ bs 36 4,
    spill := BitVec.ofNat 64 (at_ bs 40 8), rndkey := BitVec.ofNat 64 (at_ bs 48 8), carry := BitVec.ofNat 64 (at_ bs 56 8),
    tfbase := at_ bs 64 8, barr := (List.range 16).map (fun i => at_ bs (72 + i) 1), exts := (chunks bs 128 16 16).map parseExt,
    rings := (chunks bs 384 64 8).map parseRing }

/-- The scratchpad allotment in bytes. -/
def allotSpad (k : Task) : Nat := k.spq * 4096
/-- The AM allotment in bytes. -/
def allotAm (k : Task) : Nat := k.amq * 16384
/-- Teams of a cluster. -/
def clusterSize (k : Task) : Nat := (k.cwm + 1) * (k.chm + 1)
/-- Bytes of a group's phase record (02 R52). -/
def phaseBytes (k : Task) : Nat := 96 + 36 * k.width

/-- Every reserved bit and byte of a task descriptor is 0, and every field lies in its range (R311). -/
def taskRanges (bs : List Byte) (k : Task) : Bool :=
  let sh := at_ bs 20 4
  k.code % 64 == 0 && decide (k.entry < k.npkt) && decide (1 ≤ k.grid) && decide (k.grid ≤ 2 ^ 30) && bits sh 0 2 != 3 &&
  decide (6 ≤ bits sh 2 6) && decide (bits sh 2 6 ≤ 32) && bits sh 17 15 == 0 && decide (k.spq ≤ 128) && decide (k.amq ≤ 64) &&
  at_ bs 26 2 == 0 && k.phoff % 8 == 0 && bits (at_ bs 32 4) 5 27 == 0 && k.tfstr % 64 == 0 && bits k.spill.toNat 0 12 == 0 &&
  bits k.carry.toNat 59 5 == 0 && k.tfbase % 64 == 0 && k.barr.all (fun n => decide (n ≤ k.gpt + 1)) &&
  (bs.drop 88).take 40 == List.replicate 40 0#8 && (bs.drop 896).take 128 == List.replicate 128 0#8

/-- The limits of the carry set (02 R50). -/
def carryOk (k : Task) : Bool :=
  decide (((List.range 40).filter (bit k.carry.toNat)).length ≤ 8) &&
  decide (((List.range 16).filter (fun i => bit k.carry.toNat (40 + i))).length ≤ 4)

/-- The rings of a descriptor (R311). -/
def taskRings (bs : List Byte) (k : Task) : Bool :=
  let rs := k.rings.filter (fun r => r.valid)
  (chunks bs 384 64 8).all (fun x => ringOk x (allotSpad k)) && ringsApart rs &&
  (k.phoff == 0 || rs.all (fun r => apart r.soff (ringBytes r) k.phoff (k.gpt * phaseBytes k)))

/-- The conditions of a material task (R311). -/
def materialOk (k : Task) : Bool :=
  !k.mat || (k.width == 64 && k.cwm == 0 && k.chm == 0 && decide (k.pool ≤ 256) && decide (allotSpad k ≤ 32768) && decide (allotAm k ≤ 65536))

/-- The spill areas and trap frames of the grid do not wrap (R311). -/
def areasOk (k : Task) : Bool :=
  let n := k.grid * clusterSize k * k.gpt
  decide (bits k.spill.toNat 12 44 * 4096 + n * (bits k.spill.toNat 56 8 + 1) * 65536 ≤ 2 ^ 56) &&
  (k.tfstr == 0 || decide (k.tfbase + n * k.tfstr ≤ 2 ^ 56))

/-- A descriptor is well formed (R311). -/
def taskOk (bs : List Byte) (addr : Nat) : Bool :=
  let k := parseTask bs addr
  addr % 1024 == 0 && taskRanges bs k && decide (clusterSize k ≤ 12) && decide (k.chm ≤ 5) && decide (k.gpt * k.pool * 4 * k.width ≤ 524288) && carryOk k &&
  (k.phoff == 0 || (decide (64 ≤ k.phoff) && decide (k.phoff + k.gpt * phaseBytes k ≤ allotSpad k))) &&
  (chunks bs 128 16 16).all extOk && taskRings bs k && materialOk k && areasOk k

/-- The task descriptor at an address, read and checked (R310, R311). -/
def readTask (d : Dev) (p addr fi : Nat) : Except TdErr (Task × Dev) :=
  if addr % 1024 ≠ 0 then .error (.refuse 0x01 addr)
  else
    match tdRead d p addr 1024 addr fi with
    | .error e => .error e
    | .ok (bs, d1) => if taskOk bs addr then .ok (parseTask bs addr, d1) else .error (.refuse 0x01 addr)

/-! ## The extent walk (R314) -/

/-- Pages of a virtual stretch that lie in one run: the next page continues an extent, whatever its X. -/
def extendExt (xs : List Extent) (fresh : Bool) (x : Extent) : List Extent :=
  match xs.reverse with
  | [] => [x]
  | y :: t =>
    if !fresh && y.w == x.w && y.nc == x.nc && extTarget y x.va == x.tgt then
      t.reverse ++ [{ y with size := y.size + x.size, xs := y.xs ++ x.xs }]
    else xs ++ [x]

/-- NC of the leaf entry that a translation used, whatever the page's KIND (03 R75). -/
def touchNc (ts : List Touch) : Bool := ts.any (fun t => match t with
  | .entry u => pteLeaf u.entry.toNat && bit u.entry.toNat 7
  | .line _ _ => false)

/-- One declared extent walked page by page: the physical extents so far, and the error that stopped the walk. -/
def walkPages (p oct addr : Nat) (wr : Bool) (fi : Nat) : Nat → Nat → Bool → List Extent → Dev → Except TdErr (List Extent × Dev)
  | 0, _, _, xs, d => .ok (xs, d)
  | n + 1, va, fresh, xs, d =>
    let r := xlate d p (.octant oct) va fi
    if r.2.any (badTouch d) then .error .busy
    else match checkAcc r.1 .read false with
    | .fault lvl e => .error (.xl va lvl e .read)
    | .prot _ => .error (.refuse 0x02 addr)
    | .ok t w x =>
      if 2 ^ 56 ≤ va then .error (.refuse 0x02 addr)
      else if wr && !w then .error (.refuse 0x03 addr)
      else walkPages p oct addr wr fi n (va + 65536) false
        (extendExt xs fresh { va := va, size := 65536, tgt := t, w := w, xs := [x], nc := touchNc r.2 }) (tlbTouchAll d r.2)

/-- The next declared extent of a walk walked; an unused one has no pages. -/
def walkExtent (p addr fi : Nat) (e : ExtDecl) (w : ExtWalk) (d : Dev) : Except TdErr (ExtWalk × Dev) :=
  if e.mode = 0 then .ok ({ w with done := w.done + 1 }, d)
  else
    match walkPages p w.oct addr (bit e.mode 1) fi (e.size / 65536) e.base true w.found d with
    | .error x => .error x
    | .ok (xs, d1) => .ok ({ w with done := w.done + 1, found := xs }, d1)

/-- Extents walked in ascending index: how far the walk came, and the error that stopped it at an extent. -/
def walkExtents (p addr fi : Nat) : List ExtDecl → ExtWalk → Dev → ExtWalk × Dev × Option TdErr
  | [], w, d => (w, d, none)
  | e :: t, w, d =>
    match walkExtent p addr fi e w d with
    | .error x => (w, d, some x)
    | .ok (w1, d1) => walkExtents p addr fi t w1 d1

/-- A task's walk in an octant: from the extent at which an earlier one stopped (R441), else from the first. -/
def taskWalk (p oct fi : Nat) (k : Task) (old : Option ExtWalk) (d : Dev) : ExtWalk × Dev × Option TdErr :=
  let w := match old with
    | some w => if w.oct = oct ∧ w.decl = k.exts then w else { oct := oct, decl := k.exts, done := 0, found := [] }
    | none => { oct := oct, decl := k.exts, done := 0, found := [] }
  walkExtents p k.addr fi (k.exts.drop w.done) w d

/-- The extent table of a finished walk: at most 32 physical extents. -/
def walkTable (w : ExtWalk) : List Extent := w.found.take 32

/-! ## The room of a core (R325) -/

/-- The group holds a residency slot and a pool. -/
def holdsSlot (g : Group) : Bool := g.place == .resident || g.place == .parking || g.place == .evicting
/-- A group's team runs in the galley reserve. -/
def inReserve (d : Dev) (tid : Nat) : Bool := ((tget d.teams tid).map (fun t => t.reserve)).getD false
/-- The groups resident on a core. -/
def residents (d : Dev) (core : Nat) : List Group := (d.groups.filter (fun x => x.2.core == core && holdsSlot x.2)).map (fun x => x.2)
/-- The teams with a slot on a core. -/
def teamsOn (d : Dev) (core : Nat) : List Team := (d.teams.filter (fun x => x.2.core == core && x.2.st != .retired)).map (fun x => x.2)
/-- Some team of a cluster has not retired, so that every member keeps its scratchpad (02 R37). -/
def clusterLive (d : Dev) (cid : Nat) : Bool :=
  match tget d.clusters cid with
  | some c => c.tids.any (fun i => match tget d.teams i with
      | some t => t.st != .retired
      | none => false)
  | none => false
/-- The teams that hold scratchpad on a core. -/
def spadOn (d : Dev) (core : Nat) : List Team :=
  (d.teams.filter (fun x => x.2.core == core && x.2.st != .swapped && clusterLive d x.2.cid)).map (fun x => x.2)
/-- The teams that hold AM on a core. -/
def amOn (d : Dev) (core : Nat) : List Team := (teamsOn d core).filter (fun t => t.st != .swapped)
/-- The task of a team. -/
def taskOf (d : Dev) (t : Team) : Task := ((tget d.grids t.grid).map (fun g => g.task)).getD default

/-- What a team asks of a core: groups, the pool of one, its width, and its allotments. -/
structure Need where
  teams : Nat
  groups : Nat
  regs : Nat
  spad : Nat
  am : Nat
  deriving DecidableEq, Repr, Inhabited

/-- What is in use on a core by the teams that a predicate names. -/
def inUse (d : Dev) (core : Nat) (q : Bool → Bool) : Need :=
  let gs := (residents d core).filter (fun g => q (inReserve d g.tid))
  let sum := fun (f : Task → Nat) (ts : List Team) => (ts.filter (fun t => q t.reserve)).foldl (fun n t => n + f (taskOf d t)) 0
  { teams := ((teamsOn d core).filter (fun t => q t.reserve)).length, groups := gs.length,
    regs := gs.foldl (fun n g => n + g.pool * 4 * g.width) 0, spad := sum allotSpad (spadOn d core), am := sum allotAm (amOn d core) }

/-- Room for a need beside what is in use, of a given whole. -/
def needFits (whole use need : Need) : Bool :=
  decide (use.teams + need.teams ≤ whole.teams) && decide (use.groups + need.groups ≤ whole.groups) &&
  decide (use.regs + need.regs ≤ whole.regs) && decide (use.spad + need.spad ≤ whole.spad) && decide (use.am + need.am ≤ whole.am)

/-- A core without its galley reserve (R325). -/
def coreWhole : Need := { teams := 7, groups := 31, regs := 458752, spad := 491520, am := 983040 }
/-- The galley reserve of a core (R325). -/
def coreReserve : Need := { teams := 1, groups := 1, regs := 65536, spad := 32768, am := 65536 }

/-- What a team of n groups of a task needs. -/
def teamNeed (k : Task) (n : Nat) : Need :=
  { teams := 1, groups := n, regs := n * k.pool * 4 * k.width, spad := allotSpad k, am := allotAm k }

/-- A core has room beside its reserve. -/
def coreFits (d : Dev) (core : Nat) (need : Need) : Bool := !coreGone d core && needFits coreWhole (inUse d core (fun r => !r)) need
/-- The galley reserve of a core has room (R331). -/
def reserveFits (d : Dev) (core : Nat) (need : Need) : Bool := !coreGone d core && needFits coreReserve (inUse d core id) need

/-- The cores of a rectangle of a task's shape, members in row-major order (02 R36). -/
def rectCores (k : Task) (o r c : Nat) : List Nat :=
  (List.range (clusterSize k)).map (fun m => coreAt o (r + m / (k.cwm + 1)) (c + m % (k.cwm + 1)))
/-- The rectangles of a shape in an octant, by origin in local row-major order. -/
def rectangles (k : Task) (o : Nat) : List (List Nat) :=
  (List.range 24).filterMap (fun i => if i / 4 + k.chm < 6 ∧ i % 4 + k.cwm < 4 then some (rectCores k o (i / 4) (i % 4)) else none)

/-- The core of a group or team that has left. -/
def leftCore (d : Dev) (id : Nat) : Option Nat :=
  match tget d.groups id with
  | some g => some g.core
  | none => (tget d.teams id).map (fun t => t.core)

/-- Groups and teams of at least this PRIO wait to return to a core, and go before a new placement (15 R450). -/
def returnsFirst (d : Dev) (p core prio : Nat) : Bool :=
  let prioOf := fun (id : Nat) => match tget d.groups id with
    | some g => ((teamTask d g.tid).map (fun k => k.prio)).getD 0
    | none => ((teamTask d id).map (fun k => k.prio)).getD 0
  ((tget d.parts p).map (fun q => q.left.any (fun i => leftCore d i == some core && decide (prio ≤ prioOf i)))).getD false

/-- The octants of a partition in ascending order, starting after the one of the last placement. -/
def octOrder (d : Dev) (p : Nat) : List Nat :=
  let os := octsOf d p
  let last := ((tget d.parts p).map (fun q => q.lastOct)).getD 7
  os.filter (fun o => decide (last < o)) ++ os.filter (fun o => decide (o ≤ last))

/-- The lowest free team slot of a core. -/
def freeTeamSlot (d : Dev) (core : Nat) : Nat :=
  ((List.range 8).find? (fun i => !(teamsOn d core).any (fun t => t.slot == i))).getD 0
/-- The lowest free residency slot of a core. -/
def freeResSlot (d : Dev) (core : Nat) : Nat :=
  ((List.range 32).find? (fun i => !(residents d core).any (fun g => g.rslot == i))).getD 0

/-! ## Creation (02 R40; 09 R312, R318, R320, R324) -/

/-- A group as it is created (02 R40, 09 R312). -/
def newGroup (k : Task) (tid core rslot gintm gidx cyc : Nat) : Group :=
  let sz := bits k.spill.toNat 56 8
  { Group.none with
    tid := tid
    core := core
    rslot := rslot
    gintm := gintm
    gidx := gidx
    width := k.width
    pool := k.pool
    lpc := List.replicate k.width (BitVec.ofNat 32 k.entry)
    rndkey := k.rndkey
    spill := BitVec.ofNat 64 (sz * 2 ^ 56 + (bits k.spill.toNat 12 44 * 4096 + gidx * (sz + 1) * 65536) % 2 ^ 56)
    tframe := BitVec.ofNat 64 ((k.tfbase + gidx * k.tfstr) % 2 ^ 56)
    pcSince := cyc }

/-- The bytes of a ring's pattern (R317). -/
def patLen (r : RingCfg) : Nat := r.c0 * r.c1 * r.c2 * r.c3

/-- A ring as its team is created (07 R241). -/
def newRing (r : RingCfg) : Ring :=
  { cfg := r, slots := List.replicate r.nslot { st := .free, eos := false, err := false, rcom := none }, rix := 0, qix := 0, eosSeen := false,
    errSeen := false, notices := [], fed := 0, feosDone := false, drained := 0, taken := 0, stuck := false }

/-- The declared rings of a task. -/
def newRings (k : Task) : Tab Ring :=
  ((List.range 8).zip k.rings).filterMap (fun x => if x.2.valid then some (x.1, newRing x.2) else none)

/-- The bytes that feeders count into a barrier at team creation (R318). -/
def feederPend (k : Task) (b : Nat) : Nat :=
  (k.rings.filter (fun r => r.valid && r.prod == 0 && r.fben && r.fbar == b)).foldl (fun n r => n + patLen r) 0

/-- The named barriers of a task (07 R248, 09 R318). -/
def newBars (k : Task) : Tab Bar :=
  (List.range 16).map (fun b => (b, { arr := k.barr.getD b 0, cnt := 0, ph := false, pend := BitVec.ofNat 64 (feederPend k b), recs := [], fed := false, gen := 0 }))

/-- The scratchpad of a new team: the argument bytes, in an allotment that holds them (R320). -/
def newSpad (k : Task) (arg : List Byte) : Memory := if 64 ≤ allotSpad k then writeBytes [] 0 (arg.take 40) else []

/-- The lines of an instruction cache without those of a run of code, as the tables map it (03 R89). -/
def dropCode (d : Dev) (p core : Nat) (k : Task) (ic : Tab (List Byte)) (fi : Nat) : Tab (List Byte) :=
  let last := k.code + 12 * k.npkt
  (List.range ((last + 65535) / 65536 - k.code / 65536)).foldl (fun ic i =>
    let page := (k.code / 65536 + i) * 65536
    let lo := max page k.code
    match (xlate d p (.octant (coreOct core)) lo fi).1 with
    | .ok (.dev pa _) _ _ => (linesOf pa (min (page + 65536) last - lo)).foldl tdel ic
    | _ => ic) ic

/-- The data cache emptied and the code range invalidated as a team is created (R324, 03 R89); the grid's extent table handed
over (R315). -/
def readyCore (d : Dev) (core grid oct fi : Nat) : Dev :=
  match tget d.grids grid with
  | none => d
  | some g => modCore d core (fun c => { c with dc := [], ic := dropCode d g.part core g.task c.ic fi, exts := tput c.exts grid (tgetD g.exts oct []) })

/-- A group placed in the lowest free residency slot of its core. -/
def placeGroup (d : Dev) (gid : Nat) (g : Group) : Dev :=
  { d with groups := tput d.groups gid { g with rslot := freeResSlot d g.core } }

/-- The groups of a team created in ascending GINTM; their names run on from the device's next. -/
def placeGroups (d : Dev) (k : Task) (tid core tidx n : Nat) : Dev :=
  (List.range n).foldl (fun d i => placeGroup d (d.fresh + i) (newGroup k tid core 0 i (tidx * k.gpt + i) d.cyc)) d

/-- A team created on a core (R324): its name, identities, groups, rings and barriers. -/
def createTeam (d : Dev) (p grid cid tidx row col core n : Nat) (reserve : Bool) (fi : Nat) : Dev :=
  match tget d.grids grid with
  | none => d
  | some g =>
    let tid := d.fresh
    let d := readyCore { d with fresh := d.fresh + 1 } core grid (coreOct core) fi
    let t : Team := { part := p, grid := grid, cid := cid, core := core, slot := freeTeamSlot d core, tidx := tidx, row := row, col := col, st := .live,
                      reserve := reserve, gids := (List.range n).map (fun i => d.fresh + i), spad := newSpad g.task g.arg, am := [],
                      rings := newRings g.task, bars := newBars g.task }
    let d := { d with teams := tput d.teams tid t, grids := tmod d.grids grid (fun g => { g with live := g.live + 1 }) }
    let d := placeGroups d g.task tid core tidx n
    { d with fresh := d.fresh + n }

/-- A cluster placed on a rectangle (R325): its teams in member order. -/
def placeCluster (d : Dev) (p grid clidx : Nat) (cores : List Nat) (fi : Nat) : Dev :=
  match tget d.grids grid with
  | none => d
  | some g =>
    let k := g.task
    let cid := d.fresh
    let oct := coreOct (cores.headD 0)
    let base := d.fresh + 1
    let tids := (List.range cores.length).map (fun m => base + m * (1 + k.gpt))
    let c : Cluster := { grid := grid, part := p, oct := oct, clidx := clidx, tids := tids,
                         bar := { arr := k.gpt * clusterSize k, cnt := 0, ph := false, pend := 0, recs := [], fed := false, gen := 0 } }
    let d := { d with clusters := tput d.clusters cid c, fresh := base }
    let d := ((List.range cores.length).zip cores).foldl (fun d x =>
      createTeam d p grid cid (clidx * clusterSize k + x.1) (x.1 / (k.cwm + 1)) (x.1 % (k.cwm + 1)) x.2 k.gpt false fi) d
    modPart d p (fun q => { q with lastOct := oct })

end Sys2Proof.Machine
end

