-- ==== Sys2Proof/Machine/Cx.lean ====
section
/-! DEFINITION. The collective engine of an octant (11 R371 to R374 and R379, 17 R472 to R474). -/

namespace Sys2Proof.Machine

/-! ## Commands (11 R372) -/

/-- A collective command. -/
structure CxCmd where
  op : Nat
  dt : Nat
  tag : Nat
  nrank : Nat
  rank : Nat
  src : Nat
  dst : Nat
  len : Nat
  rlist : Nat
  compl : Nat
  cval : Nat
  deriving DecidableEq, Repr, Inhabited

def parseCx (bs : List Byte) : CxCmd :=
  let w := at_ bs 0 4
  { op := bits w 0 2, dt := bits w 2 3, tag := at_ bs 4 4, nrank := at_ bs 8 4, rank := at_ bs 12 4, src := at_ bs 16 8, dst := at_ bs 24 8,
    len := at_ bs 32 8, rlist := at_ bs 40 8, compl := at_ bs 48 8, cval := at_ bs 56 8 }

/-- Bytes of an element. -/
def cxElem (dt : Nat) : Nat :=
  match dt with
  | 0 => 64 | 1 => 288 | 2 => 4 | 3 => 8 | 4 => 2 | _ => 1

/-- The device and the octant that an entry of RLIST names, in the fields of R372. -/
def rankDev (x : Nat) : Nat := bits x 0 9
def rankOct (x : Nat) : Nat := bits x 8 4

/-- The checks of 17 R472 on a command. -/
def cxOk (c : CxCmd) : Bool :=
  c.op != 3 && decide (c.dt < 6) && (c.dt != 5 || c.op == 1) && decide (1 ≤ c.nrank) && decide (c.nrank ≤ 288) && decide (c.rank < c.nrank) &&
  c.len % cxElem c.dt == 0 && (c.op != 2 || c.len % (c.nrank * cxElem c.dt) == 0)

/-- The checks of 17 R472 on RLIST: entry RANK names this device and octant. -/
def rlistOk (d : Dev) (oct : Nat) (c : CxCmd) (rs : List Nat) : Bool :=
  rs.all (fun x => decide (rankDev x < 288) && decide (rankOct x < 8)) && rs.Nodup &&
  rankDev (rs.getD c.rank 0) == regBits d offDomid 0 9 && rankOct (rs.getD c.rank 0) == oct

/-! ## Faults (17 R474) -/

/-- A halt by a CX: its code and the slot's address. -/
def cxHalt (d : Dev) (oct cause code slot : Nat) : Dev :=
  modCx (raiseHalt d (octPn d oct) (unitOct oct 2) cause (BitVec.ofNat 64 (code * 2 ^ 56 + slot % 2 ^ 56))) oct (fun x => { x with dead := true })

/-- A failed access of a CX: it waits for the page, or the fault is context-fatal. -/
def cxErr (d : Dev) (oct slot : Nat) (e : MemErr) : Dev :=
  match e with
  | .xl va lvl en acc => addReport d (octPn d oct) (unitOct oct 2) 8 va lvl en acc (.cx oct)
  | .prot _ _ => cxHalt d oct 1 0x04 slot
  | .link u => modCx (raiseHalt d (octPn d oct) u 0x0B 0) oct (fun x => { x with dead := true })
  | .busy => d

/-! ## Digests (17 R473) -/

/-- A digest answers a command: it has the command's TAG. -/
def sameTag (x : Cx) (g : Digest) : Bool :=
  match x.own with
  | some o => o.tag == g.tag
  | none => false

/-- Every field of two digests but the rank is equal. -/
def sameCommand (a b : Digest) : Bool := a.op == b.op && a.dt == b.dt && a.nrank == b.nrank && a.len == b.len && a.rlist == b.rlist

/-- A digest with the command's TAG and another field different. -/
def mismatched (x : Cx) : Bool :=
  match x.own with
  | some o => x.digests.any (fun g => sameTag x g && !sameCommand o g)
  | none => false

/-- A mismatch halts the rank's partition with code 0x02. -/
def cxJudge (d : Dev) (oct : Nat) : Dev :=
  let x := cxOf d oct
  if mismatched x && !x.dead then cxHalt d oct 1 0x02 x.slot else d

/-- A digest taken in by an octant's CX. -/
def cxReceive (d : Dev) (oct : Nat) (g : Digest) : Dev := cxJudge (modCx d oct (fun x => { x with digests := x.digests ++ [g] })) oct

/-- The first digest of a rank for the command in hand. -/
def digestOf (x : Cx) (rank : Nat) : Option Digest := x.digests.find? (fun g => sameTag x g && g.rank == rank)

/-- Every peer's digest has come. -/
def digestsIn (x : Cx) (o : Digest) : Bool := (List.range o.nrank).all (fun k => k == o.rank || (digestOf x k).isSome)

/-- The input of a rank as far as it has come. -/
def cxHave (x : Cx) (o : Digest) (k : Nat) : List Byte := if k = o.rank then x.input else tgetD x.got k []
/-- The inputs of every rank in order, as far as they have come. -/
def cxInputs (x : Cx) (o : Digest) : List (List Byte) := (List.range o.nrank).map (cxHave x o)
/-- Elements of an input. -/
def cxTotal (o : Digest) : Nat := o.len / cxElem o.dt
/-- The elements that every rank's input has come for. -/
def cxAvail (x : Cx) (o : Digest) : Nat := (cxInputs x o).foldl (fun n bs => min n (bs.length / cxElem o.dt)) (cxTotal o)

/-- Two octants of this device are in one partition or in one partition scope (R363). -/
def cxPaired (d : Dev) (a b : Nat) : Bool :=
  let s := fun (o : Nat) => regBits d (offPnet (octPn d o)) 32 16
  octAsg d a && octAsg d b && (octPn d a == octPn d b || (s a != 0 && s a == s b))

/-- The peers of a command on this device. -/
def localPeers (d : Dev) (oct : Nat) (o : Digest) : List Nat :=
  o.rlist.filterMap (fun x =>
    if rankDev x == regBits d offDomid 0 9 && rankOct x != oct && cxPaired d oct (rankOct x) then some (rankOct x) else none)

/-! ## A command started (11 R371, 17 R472) -/

/-- A CX that runs and holds no fault. -/
def cxRuns (d : Dev) (oct : Nat) : Bool :=
  octAsg d oct && !halted d (octPn d oct) && unitRuns d (octPn d oct) (unitOct oct 2) && !(cxOf d oct).dead && !waiting d (.cx oct)

/-- The slots of an octant's ring, and the address of the slot of count n. -/
def cxSlots (d : Dev) (oct : Nat) : Nat := 2 ^ regBits d (offCxbase oct) 56 8
def cxSlot (d : Dev) (oct n : Nat) : Nat := cxRing d oct + 64 + 64 * (n % cxSlots d oct)

/-- A read by a CX. -/
def cxRead (d : Dev) (oct va n fi : Nat) : Except MemErr (List Byte × Dev) := unitRead d (octPn d oct) (.octant oct) va n fi

/-- The ranks of a command on other devices. -/
def farRanks (d : Dev) (o : Digest) : List Nat := (o.rlist.map rankDev).filter (fun v => v != regBits d offDomid 0 9)

/-- What keeps a CX from sending to its peers: a Tvedli port that is lost, or one whose lanes are retrained (14 R424, R425; 17 R474). -/
def cxSendErr (d : Dev) (o : Digest) : Option MemErr :=
  (farRanks d o).findSome? (fun v =>
    match portLost d (.remote v 0) with
    | some u => some (.link u)
    | none => if held d (.remote v 0) then some .busy else none)

/-- The flits of n bytes that an octant's CX sends to each of its peers (11 R357, log 68): a header for each 256 and a flit for each 32. -/
def cxFlits (d : Dev) (oct n : Nat) (o : Digest) : Dev :=
  netAdd d (96 + oct) (octPn d oct) ((o.nrank - 1) * ((n + 255) / 256 + (n + 31) / 32))

/-- The command of a slot taken up: its digest goes to its peers before any element moves. -/
def cxTake (d : Dev) (oct slot : Nat) (bs : List Byte) (c : CxCmd) (rs : List Nat) (input : List Byte) : Dev :=
  let o : Digest := { tag := c.tag, op := c.op, dt := c.dt, nrank := c.nrank, rank := c.rank, len := c.len, rlist := rs,
                      scope := BitVec.ofNat 16 (regBits d (offPnet (octPn d oct)) 32 16) }
  match cxSendErr d o with
  | some e => cxErr d oct slot e
  | none =>
  let d1 := modCx (cxFlits d oct 32 o) oct (fun x => { x with st := .waiting d.cyc, slot := slot, cmd := bs, own := some o, input := input, got := [], sent := 0, wrote := 0 })
  (localPeers d1 oct o).foldl (fun d k => cxReceive d k o) (cxJudge d1 oct)

/-- Bytes of a command's output. -/
def cxOutLen (c : CxCmd) : Nat := if c.op = 0 then c.len else if c.op = 1 then c.nrank * c.len else c.len / c.nrank

/-- An address in each page of a run of bytes. -/
def pageStarts (va n : Nat) : List Nat :=
  (List.range ((va % 65536 + n + 65535) / 65536)).map (fun i => max va ((va / 65536 + i) * 65536))

/-- The error that keeps a command from its writes of DST and COMPL (17 R472): a protection fault before a page that is not mapped, for
which the check waits (15 R441). -/
def cxBlocked (d : Dev) (oct fi : Nat) (c : CxCmd) : Option MemErr :=
  let p := octPn d oct
  let errs := (pageStarts c.dst (cxOutLen c) ++ (if c.compl = 0 then [] else pageStarts c.compl 8)).filterMap (fun a =>
    match xlUnit d p (.octant oct) a .write fi with
    | .ok (t, d1) => if (homeWrite d1 p t []).isSome then none else some (MemErr.prot 0x26 a)
    | .error e => some e)
  match errs.find? (fun e => match e with
      | .prot _ _ => true
      | _ => false) with
  | some e => some e
  | none => errs.head?

/-- The RLIST and the input of a command read, and the rest of its checks made. -/
def cxOpen (d : Dev) (oct slot : Nat) (bs : List Byte) (c : CxCmd) (fi : Nat) : Dev :=
  match cxRead d oct c.rlist (4 * c.nrank) fi with
  | .error e => cxErr d oct slot e
  | .ok (rb, d1) =>
    let rs := (List.range c.nrank).map (fun i => at_ rb (4 * i) 4)
    if !rlistOk d1 oct c rs then cxHalt d1 oct 1 0x01 slot
    else
      match cxRead d1 oct c.src c.len fi with
      | .error e => cxErr d1 oct slot e
      | .ok (input, d2) =>
        match cxBlocked d2 oct fi c with
        | some e => cxErr d2 oct slot e
        | none => cxTake d2 oct slot bs c rs input

/-- The TAIL value to run up to, with HEAD as it was when the CX heard of it: the oldest that HEAD has not reached, else TAIL as it
lies in memory. DEDUCED: log 82. -/
def cxTarget (x : Cx) (tail head : Nat) : Nat × Nat := (x.tails.find? (fun t => t.1 != head)).getD (tail, head)

/-- A TAIL value that the ring does not allow (R371). -/
def tailBad (slots : Nat) (t : Nat × Nat) : Bool := decide (t.1 < t.2) || decide (t.2 + slots < t.1)

/-- The next slot of the ring, where a TAIL value has passed HEAD. A value that HEAD has passed since is run up to already. -/
def cxStart (d : Dev) (oct fi : Nat) : Dev :=
  match cxRead d oct (cxRing d oct) 16 fi with
  | .error e => cxErr d oct (cxRing d oct) e
  | .ok (hb, d1) =>
    let head := at_ hb 8 8
    let d1 := modCx d1 oct (fun x => { x with tails := x.tails.dropWhile (fun t => !tailBad (cxSlots d oct) t && decide (t.1 ≤ head)) })
    let t := cxTarget (cxOf d1 oct) (at_ hb 0 8) head
    let slot := cxSlot d oct head
    if tailBad (cxSlots d oct) t then cxHalt d1 oct 1 0x01 slot
    else if t.1 ≤ head then d1
    else
      match cxRead d1 oct slot 64 fi with
      | .error e => cxErr d1 oct slot e
      | .ok (bs, d2) =>
        let c := parseCx bs
        if !cxOk c then cxHalt d2 oct 1 0x01 slot else cxOpen d2 oct slot bs c fi

/-- The ring of an octant's CX holds no command that has not been run. -/
def cxDrained (d : Dev) (oct : Nat) : Bool :=
  regBits d (offCxbase oct) 0 1 == 0 ||
    (match cxRead d oct (cxRing d oct) 16 0 with
     | .ok (hb, _) => at_ hb 0 8 == at_ hb 8 8 && (cxOf d oct).tails.all (fun t => decide (t.1 ≤ at_ hb 8 8))
     | .error _ => true)

/-- CX_COMMAND_START (11 R371). -/
def execCxCommandStart (oct : Nat) (s : State) : Out :=
  let d := s.dev
  if regBits d (offCxbase oct) 0 1 = 1 && cxRuns d oct && (cxOf d oct).st == .idle then
    withDev s (stepped (cxStart d oct s.tick) (unitOct oct 2))
  else withDev s d

/-- What another device sends comes in over a Tvedli port that works and is not retrained (14 R424). -/
def portOpen (d : Dev) : Bool := (List.range 18).any (fun k => !linkDown d (unitPort k) && !linkBusy d (unitPort k))

/-- CX_DIGEST_RECEIVE (17 R473): a digest of a rank on another device, of the same partition scope. -/
def execCxDigestReceive (oct : Nat) (g : Digest) (s : State) : Out :=
  let d := s.dev
  let scope := regBits d (offPnet (octPn d oct)) 32 16
  if octAsg d oct && !halted d (octPn d oct) && portOpen d && regBits d offDomid 10 1 = 1 && scope != 0 && g.scope.toNat == scope &&
      rankDev (g.rlist.getD g.rank 0) != regBits d offDomid 0 9 then
    withDev s (cxReceive d oct g)
  else withDev s d

/-! ## The result (11 R373) -/

/-- Elements of a run of bytes. -/
def elemAt (sz e : Nat) (bs : List Byte) : List Byte := (bs.drop (e * sz)).take sz

/-- Element e of the result, of every rank's element e; a NaN is the canonical one (04 R117). -/
def cxReduce (dt : Nat) (xs : List (List Byte)) : List Byte :=
  let sum := fun (f : FC) =>
    let w := if xs.length ≤ 1 then 0 else Nat.log2 (xs.length - 1) + 1
    leBytes (canonNan f (treeSum f .rne w ((List.range (2 ^ w)).map (fun i => (xs[i]?).map leNat))).1) (cxElem dt)
  match dt with
  | 0 => xs.foldl (exaMerge exa32) (List.replicate 64 0#8)
  | 1 => xs.foldl (exaMerge exa64) (List.replicate 288 0#8)
  | 2 => sum .fp32
  | 3 => sum .fp64
  | _ => sum .bf16

/-- What elements lo to hi - 1 give a rank's output: runs of bytes at offsets from DST. -/
def cxPieces (o : Digest) (ins : List (List Byte)) (lo hi : Nat) : List (Nat × List Byte) :=
  let sz := cxElem o.dt
  let run := fun a b => (List.range (b - a)).flatMap (fun e => cxReduce o.dt (ins.map (elemAt sz (a + e))))
  match o.op with
  | 0 => [(lo * sz, run lo hi)]
  | 1 => ((List.range o.nrank).zip ins).map (fun x => (x.1 * o.len + lo * sz, (x.2.drop (lo * sz)).take ((hi - lo) * sz)))
  | _ =>
    let n := cxTotal o / o.nrank
    let a := max lo (o.rank * n)
    [((a - o.rank * n) * sz, run a (min hi (o.rank * n + n)))]

/-! ## Completion (11 R374) -/

/-- The CX past its command: the digests it used are gone. -/
def cxIdle (x : Cx) : Cx :=
  let used := match x.own with
    | some o => ((List.range o.nrank).filter (fun k => k != o.rank)).filterMap (digestOf x)
    | none => []
  { x with st := .idle, own := none, cmd := [], input := [], got := [], sent := 0, wrote := 0, digests := used.foldl (fun gs g => gs.erase g) x.digests }

/-- CVAL to COMPL after the output, then HEAD rises. -/
def cxEnd (d : Dev) (oct fi : Nat) : Dev :=
  let x := cxOf d oct
  let c := parseCx x.cmd
  let p := octPn d oct
  match (if c.compl = 0 then .ok d else unitWriteWhole d p (.octant oct) .leave c.compl (leBytes c.cval 8) fi) with
  | .error e => cxErr d oct x.slot e
  | .ok d1 =>
    match cxRead d1 oct (cxRing d oct + 8) 8 fi with
    | .error e => cxErr d oct x.slot e
    | .ok (hb, d2) =>
      match unitWriteWhole d2 p (.octant oct) .leave (cxRing d oct + 8) (leBytes (at_ hb 0 8 + 1) 8) fi with
      | .error e => cxErr d oct x.slot e
      | .ok d3 => modCx d3 oct cxIdle

/-- Runs of output bytes written at their offsets from an address. -/
def writePieces (p oct dst fi : Nat) : List (Nat × List Byte) → Dev → Except MemErr Dev
  | [], d => .ok d
  | x :: t, d =>
    match unitWriteWhole d p (.octant oct) .leave (dst + x.1) x.2 fi with
    | .error e => .error e
    | .ok d1 => writePieces p oct dst fi t d1

/-- A CX that has every digest sends the next n bytes of its input to its peers (17 R473). -/
def cxSend (d : Dev) (oct n : Nat) (o : Digest) : Dev :=
  let x := cxOf d oct
  let bs := (x.input.drop x.sent).take n
  let d1 := modCx (if bs.isEmpty then d else cxFlits d oct bs.length o) oct (fun x => { x with sent := x.sent + bs.length })
  (localPeers d oct o).foldl (fun d k => modCx d k (fun y => { y with got := tput y.got o.rank (tgetD y.got o.rank [] ++ bs) })) d1

/-- The elements that have come for every rank written out; the last one completes the command. -/
def cxPut (d : Dev) (oct fi : Nat) (o : Digest) : Dev :=
  let x := cxOf d oct
  let n := cxAvail x o
  match writePieces (octPn d oct) oct (parseCx x.cmd).dst fi (cxPieces o (cxInputs x o) x.wrote n) d with
  | .error e => cxErr d oct x.slot e
  | .ok d1 =>
    if n = cxTotal o then cxEnd (modCx d1 oct (fun x => { x with st := .written, wrote := n })) oct fi
    else if n = x.wrote then d1
    else modCx d1 oct (fun x => { x with st := .waiting d.cyc, wrote := n })

/-- The CX has elements to send or to write, or its command to complete. -/
def cxMoves (x : Cx) (o : Digest) : Bool :=
  digestsIn x o && (decide (x.sent < x.input.length) || decide (x.wrote < cxAvail x o) || cxAvail x o == cxTotal o)

/-- What a CX can do for its command: send and write elements, or go on to its completion. -/
def cxGo (d : Dev) (oct fi : Nat) : Option Dev :=
  let x := cxOf d oct
  if !cxRuns d oct then none
  else
    match x.st, x.own with
    | .waiting _, some o =>
      if !cxMoves x o then none
      else if x.input.length ≤ x.sent then some (cxPut d oct fi o)
      else (match cxSendErr d o with
        | some .busy => none
        | some e => some (cxErr d oct x.slot e)
        | none => some (cxPut (cxSend d oct x.input.length o) oct fi o))
    | .written, _ => some (cxEnd d oct fi)
    | _, _ => none

/-- A CX holds work that waits on nothing. -/
def cxBusy (d : Dev) (oct : Nat) : Bool := (cxGo d oct 0).isSome

/-- CX_COMMAND_COMPLETE (11 R373, R374): the command goes as far as its peers let it. -/
def execCxCommandComplete (oct : Nat) (s : State) : Out :=
  let d := s.dev
  match cxGo d oct s.tick with
  | some d1 => withDev s (stepped d1 (unitOct oct 2))
  | none => withDev s d

/-- A turn in which a CX sends some bytes of its input and no more (log 31). -/
def cxExchange (d : Dev) (oct n : Nat) : Dev :=
  let x := cxOf d oct
  match x.st, x.own with
  | .waiting _, some o => if cxRuns d oct && digestsIn x o && (cxSendErr d o).isNone then stepped (cxSend d oct n o) (unitOct oct 2) else d
  | _, _ => d

/-- A turn in which a rank of another device, whose digest has come, sends some bytes of its input (log 31). -/
def cxElement (d : Dev) (oct rank : Nat) (bs : List Byte) : Dev :=
  let x := cxOf d oct
  match x.st, x.own with
  | .waiting _, some o =>
    let have_ := tgetD x.got rank []
    if cxRuns d oct && portOpen d && rank != o.rank && (digestOf x rank).isSome && rankDev (o.rlist.getD rank 0) != regBits d offDomid 0 9 &&
        decide (have_.length + bs.length ≤ o.len) then
      modCx d oct (fun x => { x with got := tput x.got rank (have_ ++ bs) })
    else d
  | _, _ => d

/-- CX_PEER_TIMEOUT (17 R473): a peer's digest or its next element has not come in WDP cycles. -/
def execCxPeerTimeout (oct : Nat) (s : State) : Out :=
  let d := s.dev
  let x := cxOf d oct
  let wdp := regBits d offWdcfg 0 32
  match x.st, x.own with
  | .waiting t, some o =>
    if wdp ≠ 0 ∧ t + wdp ≤ d.cyc ∧ cxMoves x o = false ∧ cxRuns d oct then withDev s (cxHalt d oct 5 0x03 x.slot) else withDev s d
  | _, _ => withDev s d

end Sys2Proof.Machine
end

