-- ==== Sys2Proof/Machine/Galley.lean ====
section
/-! DEFINITION. Galleys: their descriptors, reservation, commit, batches and freeing (09 R329 to R331, 10 R346 and R352, 17 R463
to R466). -/

namespace Sys2Proof.Machine

/-! ## Galley descriptors (R329) -/

/-- The address of galley g's descriptor. -/
def galAddr (d : Dev) (p g : Nat) : Nat := regBits d (offGtbase p) 6 50 * 64 + 64 * g

/-- The fields of a galley descriptor; FLUSH 0 means 4,096 cycles. -/
def parseGal (bs : List Byte) (addr : Nat) : GalDesc :=
  { addr := addr, task := at_ bs 0 8, rbase := at_ bs 8 8, sbase := at_ bs 16 8, nrec := at_ bs 24 4,
    flush := if at_ bs 28 4 = 0 then 4096 else at_ bs 28 4, argp := at_ bs 32 8 }

/-- The conditions of R329 on the descriptor alone. -/
def galOk (bs : List Byte) : Bool :=
  let x := parseGal bs 0
  x.rbase % 32 == 0 && x.sbase % 32 == 0 && x.nrec % 64 == 0 && decide (64 ≤ x.nrec) && decide (x.nrec ≤ 2 ^ 24) &&
  decide (at_ bs 28 4 ≤ 65535) && (bs.drop 40).take 24 == List.replicate 24 0#8

/-- The descriptor read and checked with its material task (R463, code 0x0B). -/
def readGal (d : Dev) (p g fi : Nat) : Except TdErr (GalDesc × Task × Dev) :=
  let a := galAddr d p g
  match tdRead d p a 64 a fi with
  | .error e => .error e
  | .ok (bs, d1) =>
    if !galOk bs then .error (.refuse 0x0B a)
    else
      match readTask d1 p (parseGal bs a).task fi with
      | .error e => .error e
      | .ok (k, d2) => if k.mat then .ok (parseGal bs a, k, d2) else .error (.refuse 0x0B a)

/-- The galley's counters; every counter starts at 0 when the partition is assigned (R330). -/
def newGalley : Galley :=
  { rsv := 0, cmt := 0, fre := 0, early := [], ready := [], batches := [], owner := [], blocks := [], helpers := [], lastCommit := 0,
    lastFree := 0, desc := none, bad := false, walk := none, quad := none, waitSince := none }

/-- Galley g of a partition. -/
def galley (d : Dev) (p g : Nat) : Galley := ((tget d.parts p).bind (fun q => tget q.galleys g)).getD newGalley
/-- The device with a galley set. -/
def putGalley (d : Dev) (p g : Nat) (x : Galley) : Dev := modPart d p (fun q => { q with galleys := tput q.galleys g x })

/-! ## Reservation and commit (R330) -/

/-- What a reservation answers: an index with the descriptor, or a wait. -/
inductive Rsv where
  | got (idx : Nat) (g : GalDesc) (d : Dev)
  | full (d : Dev)
  deriving DecidableEq, Repr, Inhabited

/-- What the TD does on a failed check of a galley: a report on which the galley waits, or a refusal, after which the galley
stays unusable until the halt stops it (17 R463). -/
def galFailAs (d : Dev) (p g oct src : Nat) (e : TdErr) : Dev :=
  let d1 := tdFailAs d p oct src (.galley p g) e
  if tdWaits e then d1 else putGalley d1 p g { galley d1 p g with bad := true }
/-- A failed check of a galley's descriptor: source kind 5 (15 R438). -/
def galFail (d : Dev) (p g : Nat) (e : TdErr) : Dev := galFailAs d p g (servingOct d p) 5 e

/-- The checked descriptor of a galley: kept since its check, or read and checked now (17 R463). -/
def galDesc (d : Dev) (p g fi : Nat) : Except TdErr (GalDesc × Dev) :=
  match (galley d p g).desc with
  | some x => .ok (x, d)
  | none =>
    match readGal d p g fi with
    | .error e => .error e
    | .ok (x, _, d1) => .ok (x, putGalley d1 p g { galley d1 p g with desc := some x })

/-- A reservation may be made now: there is room, and no quad entry of another producer is half reserved (R330, 10 R351). -/
def rsvOpen (y : Galley) (x : GalDesc) (who : Option Nat) : Bool := decide (y.rsv < y.fre + x.nrec) && (y.quad.isNone || y.quad == who)

/-- One record reserved in a galley by a producer. A reservation that finds no room begins to wait (17 R466). -/
def reserveRec (d : Dev) (p g : Nat) (who : Option Nat) (fi : Nat) : Rsv :=
  if (galley d p g).bad || waiting d (.galley p g) then .full d
  else
    match galDesc d p g fi with
    | .error e => .full (galFail d p g e)
    | .ok (x, d1) =>
      let y := galley d1 p g
      if rsvOpen y x who then .got y.rsv x (putGalley d1 p g { y with rsv := y.rsv + 1, waitSince := none })
      else .full (putGalley d1 p g { y with waitSince := if y.waitSince.isSome then y.waitSince else some d.cyc })

/-- The ready records form a batch. -/
def closeBatch (x : Galley) : Galley :=
  if x.ready.isEmpty then x else { x with ready := [], batches := x.batches ++ [{ idxs := x.ready, tid := none, freed := false }] }

/-- cmt taken over one committed record: a block record is a batch of its own (10 R346), and the last index of a run closes the
run's batch. -/
def passRec (x : Galley) : Galley :=
  let i := x.cmt
  let x := { x with early := x.early.filter (fun j => j != i), cmt := i + 1 }
  if (tget x.blocks i).isSome then
    let x := if i % 64 = 63 then closeBatch x else x
    { x with batches := x.batches ++ [{ idxs := [i], tid := none, freed := false }] }
  else
    let x := { x with ready := x.ready ++ [i] }
    if i % 64 = 63 then closeBatch x else x

/-- cmt advanced over every record committed in reservation order. -/
def passAll : Nat → Galley → Galley
  | 0, x => x
  | n + 1, x => if x.early.contains x.cmt then passAll n (passRec x) else x

/-- A record committed (R330). -/
def commitRec (x : Galley) (i cyc : Nat) : Galley :=
  let x := { x with early := x.early ++ [i], lastCommit := cyc }
  passAll (x.early.length + 1) x

/-- A record of a tile of the directory (10 R352). -/
def ownRec (x : Galley) (i tile : Nat) (helper : Bool) : Galley :=
  { x with owner := tput x.owner i tile, helpers := if helper then x.helpers ++ [i] else x.helpers }

/-- The address of a record and of its slug (R329). -/
def recAddr (g : GalDesc) (i : Nat) : Nat := g.rbase + 32 * (i % g.nrec)
def slugAddr (g : GalDesc) (i : Nat) : Nat := g.sbase + 32 * (i % g.nrec)

/-- The 32 bytes of a record (08 R302). -/
def recBytes (id t b1 b2 origin w24 aux : Nat) : List Byte :=
  leBytes id 8 ++ leBytes t 4 ++ leBytes b1 4 ++ leBytes b2 4 ++ leBytes origin 4 ++ leBytes w24 4 ++ leBytes aux 4

/-- A record and its slug written by a producer. -/
def writeRec (d : Dev) (p : Nat) (ag : Agent) (cm : CacheMode) (g : GalDesc) (i : Nat) (record slug : List Byte) (fi : Nat) :
    Except MemErr Dev :=
  match unitWriteWhole d p ag cm (recAddr g i) record fi with
  | .error e => .error e
  | .ok d1 => unitWriteWhole d1 p ag cm (slugAddr g i) slug fi

/-! ## Freeing (R331, 10 R350, R352) -/

/-- A tile that is SHADED: the CLOSE that waits for it counts it no more (10 R338). -/
def shadeTile (d : Dev) (key : Nat) : Dev :=
  { d with
    tiles := tmod d.tiles key (fun t => { t with st := .shaded })
    draws := d.draws.map (fun w => (w.1, if w.2.d.op = 2 then { w.2 with keys := w.2.keys.filter (fun k => k != key) } else w.2)) }

/-- A tile's count of records lowered; the last one freed of a CLASSIFIED tile makes it SHADED (10 R350). -/
def freeTile (d : Dev) (key : Nat) : Dev :=
  let d1 := { d with tiles := tmod d.tiles key (fun t => { t with cnt := t.cnt - 1 }) }
  match tget d1.tiles key with
  | some t => if t.st == .classified && t.cnt == 0 then shadeTile d1 key else d1
  | none => d1

/-- One record freed. -/
def freeRec (x : Galley) (d : Dev) (i : Nat) : Dev :=
  match tget x.owner i with
  | some key => freeTile d key
  | none => d

/-- The records of the freed batches at the head of the line. -/
def freedHead (x : Galley) : List Nat := (x.batches.takeWhile (fun b => b.freed)).flatMap (fun b => b.idxs)

/-- fre advanced past the records of a team that has retired, in batch order (R331). -/
def freeBatches (d : Dev) (p g tid : Nat) : Dev :=
  let x := galley d p g
  let x := { x with batches := x.batches.map (fun b => if b.tid == some tid then { b with freed := true } else b) }
  let xs := freedHead x
  let d := xs.foldl (freeRec x) d
  let x := { x with
    batches := x.batches.dropWhile (fun b => b.freed)
    fre := (xs.getLast?.map (fun i => i + 1)).getD x.fre
    lastFree := if xs.isEmpty then x.lastFree else d.cyc
    owner := x.owner.filter (fun o => !xs.contains o.1)
    blocks := x.blocks.filter (fun o => !xs.contains o.1)
    helpers := x.helpers.filter (fun i => !xs.contains i) }
  putGalley d p g x

/-! ## Partial batches and launches (R330, R331) -/

/-- GALLEY_FLUSH (R330): FLUSH cycles without a commit form a batch of the ready records. -/
def execGalleyFlush (p g : Nat) (s : State) : Out :=
  let d := s.dev
  let x := galley d p g
  if halted d p || x.ready.isEmpty || x.bad || waiting d (.galley p g) then withDev s d
  else
    match galDesc d p g s.tick with
    | .error e => withDev s (galFail d p g e)
    | .ok (y, d1) =>
      if x.lastCommit + y.flush ≤ d.cyc then withDev s (putGalley d1 p g (closeBatch (galley d1 p g))) else withDev s d

/-- GALLEY_STALL (17 R466): a reservation has waited WDP cycles and no record of the galley has been freed in that time. -/
def execGalleyStall (p g : Nat) (s : State) : Out :=
  let d := s.dev
  let x := galley d p g
  let wdp := regBits d offWdcfg 0 32
  match x.waitSince with
  | none => withDev s d
  | some t =>
    if wdp ≠ 0 ∧ t + wdp ≤ d.cyc ∧ x.lastFree + wdp ≤ d.cyc ∧ !halted d p then
      withDev s (tdRefuse (putGalley d p g { x with waitSince := none }) p 0x0C (galAddr d p g))
    else withDev s d

/-- The first batch of a galley that no team holds. -/
def nextBatch (x : Galley) : Option Batch := x.batches.find? (fun b => b.tid.isNone)
/-- The batches a team may take together: up to n. -/
def openBatches (x : Galley) (n : Nat) : List Batch := (x.batches.filter (fun b => b.tid.isNone)).take n

/-- The cores in the order in which a material team is tried (R331). -/
def materialCores (d : Dev) (p : Nat) : List Nat := (octOrder d p).flatMap octCores

/-- Where a material team of a task goes (R331): a core, whether in its reserve, and how many batches it holds. A smaller team that
fits goes before the reserve, and a return to a core before a new team there (15 R450). -/
def materialPlace (d : Dev) (p : Nat) (k : Task) (open_ : Nat) : Option (Nat × Bool × Nat) :=
  let n := if k.gpt < open_ then k.gpt else open_
  let cs := (materialCores d p).filter (fun c => !returnsFirst d p c k.prio)
  match (List.range n).findSome? (fun i => (cs.find? (fun c => coreFits d c (teamNeed k (n - i)))).map (fun c => (c, n - i))) with
  | some (c, m) => some (c, false, m)
  | none => (cs.find? (fun c => reserveFits d c (teamNeed k 1))).map (fun c => (c, true, 1))

/-- A group of a material team given its batch (R331, 10 R346, R354). -/
def giveBatch (x : Galley) (gal : Nat) (b : Batch) (g : Group) : Group :=
  let i := b.idxs.headD 0
  if (tget x.blocks i).isSome then { g with galley := some gal, batch := (List.range 64).map (fun l => (l, i)) }
  else
    let entry := fun l => b.idxs.find? (fun j => j % 64 == l)
    { g with
      galley := some gal
      batch := (List.range 64).filterMap (fun l => (entry l).map (fun j => (l, j)))
      lpc := (List.range 64).map (fun l => if (entry l).isSome then g.lpc.getD l 0#32 else 0xFFFFFFFF#32)
      helper := maskOf 64 (fun l => match entry l with
        | some j => x.helpers.contains j
        | none => false) }

/-- A batch's group is launched: the draw of a block record knows its raster group and team, and each CLOSE the team that holds records of its
tiles (10 R336, R338). -/
def batchTaken (x : Galley) (tid gid : Nat) (b : Batch) (w : Draw) (id : Nat) : Draw :=
  let i := b.idxs.headD 0
  if tget x.blocks i = some id then
    { w with open_ := w.open_.filter (fun j => j != i), rast := w.rast ++ [gid], teams := if w.teams.contains tid then w.teams else w.teams ++ [tid] }
  else if b.idxs.any (fun j => (tget x.owner j).any (fun k => w.set.contains k)) ∧ !w.teams.contains tid then { w with teams := w.teams ++ [tid] }
  else w

/-- A material team created for the first batches of a galley. DESIGN CHOICE: its CLIDX and TIDX are 0 (log 96). -/
def launchBatches (d : Dev) (p gal : Nat) (y : GalDesc) (k : Task) (arg : List Byte) (exts : List Extent) (place : Nat × Bool × Nat) (fi : Nat) : Dev :=
  let bs := openBatches (galley d p gal) place.2.2
  let gid := d.fresh
  let cid := d.fresh + 1
  let tid := d.fresh + 2
  let g : Grid := { part := p, task := k, compl := 0, cval := 0, arg := arg, nextCl := k.grid, live := 0, node := none, mat := some gal, exts := [(coreOct place.1, exts)], walks := [] }
  let c : Cluster := { grid := gid, part := p, oct := coreOct place.1, clidx := 0, tids := [tid],
                       bar := { arr := place.2.2, cnt := 0, ph := false, pend := 0, recs := [], fed := false, gen := 0 } }
  let d := { d with grids := tput d.grids gid g, clusters := tput d.clusters cid c, fresh := tid }
  let d := createTeam d p gid cid 0 0 0 place.1 place.2.2 place.2.1 fi
  let x := galley d p gal
  let d := ((List.range bs.length).zip bs).foldl (fun d b => modGroup d (tid + 1 + b.1) (giveBatch x gal b.2)) d
  let d := ((List.range bs.length).zip bs).foldl (fun d b =>
    { d with draws := d.draws.map (fun w => (w.1, batchTaken x tid (tid + 1 + b.1) b.2 w.2 w.1)) }) d
  let d := modPart d p (fun q => { q with lastOct := coreOct place.1 })
  let idx := bs.map (fun b => b.idxs)
  putGalley d p gal { x with batches := x.batches.map (fun b => if b.tid.isNone && idx.contains b.idxs then { b with tid := some tid } else b), desc := some y, walk := none }

/-- The argument bytes of a galley's teams (R329). -/
def galArg (d : Dev) (p : Nat) (y : GalDesc) (fi : Nat) : Except TdErr (List Byte × Dev) :=
  if y.argp = 0 then .ok (List.replicate 40 0#8, d) else tdRead d p y.argp 40 y.addr fi

/-- Something a selection can launch from a galley: the galley and the place; or the device after the failed check that its
launch meets. -/
inductive Launch where
  | go (gal : Nat) (y : GalDesc) (k : Task) (arg : List Byte) (exts : List Extent) (place : Nat × Bool × Nat) (d : Dev)
  | fail (d : Dev)
  deriving DecidableEq, Repr, Inhabited

/-- The launch at a place found: the octant's TD walks the task's extents first (R314); what stops the walk waits or is refused. -/
def launchAt (d : Dev) (p gal : Nat) (y : GalDesc) (k : Task) (arg : List Byte) (place : Nat × Bool × Nat) (fi : Nat) : Option Launch :=
  let oct := coreOct place.1
  match taskWalk p oct fi k (galley d p gal).walk d with
  | (w, d1, none) => some (.go gal y k arg (walkTable w) place d1)
  | (_, _, some .busy) => none
  | (w, d1, some e) => some (.fail (galFailAs (putGalley d1 p gal { galley d1 p gal with walk := some w }) p gal oct 6 e))

/-- What galley gal can launch now; none where it has no batch, no room, or waits. -/
def galLaunch (d : Dev) (p gal fi : Nat) : Option Launch :=
  if (nextBatch (galley d p gal)).isNone || (galley d p gal).bad || waiting d (.galley p gal) then none
  else
    match readGal d p gal fi with
    | .error .busy => none
    | .error e => some (.fail (galFail d p gal e))
    | .ok (y, k, d1) =>
      match galArg d1 p y fi with
      | .error .busy => none
      | .error e => some (.fail (galFail d1 p gal e))
      | .ok (arg, d2) =>
        match materialPlace d2 p k (openBatches (galley d p gal) 16).length with
        | some place => launchAt d2 p gal y k arg place fi
        | none => none

/-- The first galley with something to launch (R331). DESIGN CHOICE: in ascending galley number (log 97). -/
def firstLaunch (d : Dev) (p fi : Nat) : Option Launch :=
  match tget d.parts p with
  | none => none
  | some q => q.galleys.findSome? (fun g => galLaunch d p g.1 fi)

/-- GALLEY_BATCH_LAUNCH (R331): material launches are taken before the queues. -/
def execGalleyBatchLaunch (p : Nat) (s : State) : Out :=
  let d := s.dev
  if halted d p then withDev s d
  else
    match firstLaunch d p s.tick with
    | none => withDev s d
    | some (.fail d1) => withDev s d1
    | some (.go gal y k arg exts place d1) => withDev s (launchBatches d1 p gal y k arg exts place s.tick)

end Sys2Proof.Machine
end

