-- ==== Sys2Proof/Machine/Packet.lean ====
section
/-! DEFINITION. What a packet does once its words have run: commit, cancellation, the reports of its translation faults, and the
work of the packet boundary (05 R153 to R156, 02 R70, 15 R429 to R435, 16 R453). -/

namespace Sys2Proof.Machine

/-! ## The packet in progress -/

/-- A packet a group starts to issue. -/
def startPacket (seed gid : Nat) (g : Group) (pc lit : Word) : Packet :=
  let act := activeSet g pc
  { seed := seed, gid := gid, pc := pc, act := act, slot := 0, lit := lit, g0 := g, g := g,
    latches := [.none, .none, .none],
    nxt := (List.range g.width).map (fun _ => pc + 1#32),
    flags := [], trap := none, slide := none, park := none, svc := [], tret := false, ctl := 0, yield := false,
    ops := [], fatal := [], xfaults := [], fills := [] }

/-! ## Context-fatal faults of a packet (16 R452, R453) -/

/-- The checking stage of a reason found before commit: D 0, H 1, T 2. -/
def stageOf (reason : Nat) : Nat :=
  if reason < 0x20 then 0 else if reason = 0x29 ∨ reason = 0x42 ∨ reason = 0x43 then 1 else 2

/-- The order of faults in one packet: stage, slot, lane, reason. -/
def fatalKey (f : Fatal) : Nat := ((stageOf f.reason * 4 + f.slot) * 64 + f.lane) * 256 + f.reason

/-- The fault that is reported (16 R453). -/
def worstFatal : List Fatal → Option Fatal
  | [] => none
  | x :: t => some (t.foldl (fun a b => if fatalKey b < fatalKey a then b else a) x)

/-! ## The side log (15 R435) -/

/-- Entries of a core's side log. -/
def sideLogSize : Nat := 256

/-- The lanes of an operation whose access retires into the side log. -/
def logLanes (o : Op) : List Nat :=
  (List.range 64).filter (fun l => o.accs.any (fun a => a.lane == l && !a.done && a.tgt.isNone))

/-- Entries that the stores and read-modify-writes of a packet need. -/
def logNeed (c : Packet) : Nat :=
  (c.ops.filter (fun o => isStore o.word || (rmwForm o.word).isSome)).foldl (fun n o => n + (logLanes o).length) 0

/-- Entries of a core's side log that are free. -/
def logFree (d : Dev) (core : Nat) : Nat := sideLogSize - (tgetD d.cores core default).slog.length

/-- The lowest free slot of a side log. -/
def logSlot (k : Core) : Nat := tfree k.slog (k.slog.length + 1) 0

/-- One lane of an operation entered in the side log, with the report of its page. -/
def logLane (x : XFault) (d : Dev) (id : Nat) (o : Op) : Dev :=
  let k := tgetD d.cores o.core default
  let n := logSlot k
  let d := modCore d o.core (fun k => { k with slog := tput k.slog n (id, x.lane), logSeq := k.logSeq + 1 })
  let d := modOp d id (fun o => { o with accs := o.accs.map (fun a => if a.lane == x.lane then { a with log := some (n, k.logSeq) } else a) })
  addReport d o.part (unitCore o.core) 1 x.va x.lvl x.entry.toNat x.acc (.logged id x.lane)

/-- Every faulted lane of an operation entered in the side log, in ascending lane order. -/
def logOp (c : Packet) (d : Dev) (id : Nat) : Dev :=
  match tget d.ops id with
  | none => d
  | some o =>
    if isStore o.word || (rmwForm o.word).isSome then
      (c.xfaults.filter (fun x => x.slot == o.slot)).foldl (fun d x => logLane x d id o) d
    else d

/-! ## Commit (05 R154) -/

/-- The line that a prf names (07 R239): taken into the LLC, and by prf.all of a page with NC = 0 into the core's data cache, unless an
acquire keeps that empty. A line with a failing word is taken nowhere (14 R403). -/
def prfFill (d : Dev) (o : Op) (a : Acc) : Dev :=
  match a.tgt, o.word with
  | some (.dev pa nc), .prf _ llc _ _ =>
    let d1 := llcRead d (pa / 128 * 128) 128
    if badLine d (pa / 128) then d
    else if llc then d1
    else ((cacheRead d1 o.part o.core (.dev (pa / 128 * 128) nc) 128).map (fun r => r.2)).getD d1
  | some (.remote v pa), .prf _ _ _ _ => if badLine d (pa / 128) then d else homeTouch d o.part (.remote v (pa / 128 * 128)) 128
  | _, _ => d

/-- The operations of the packet with their names: the slots they are ordered after become operation names. -/
def nameOp (d : Dev) (o : Op) : Op :=
  { o with after := o.after.map (fun j => d.fresh + j), accs := o.accs.map (fun a => { a with flits := partFlits o a }) }

/-- An acquire at cluster scope or wider empties the core's data cache, which installs no line until its value is bound (03 R88); one
that may act as a plain load does not yet (03 R98, log 67), unless every value of it is held already (15 R433). -/
def beginAcq (d : Dev) (id : Nat) (o : Op) : Dev :=
  if isWideAcq o.word && !(Config.narrow id && o.accs.any (fun a => !a.done)) then modCore (dcEmpty d o.core) o.core (fun k => { k with noInstall := k.noInstall ++ [id] }) else d

/-- The group's latest scoped snop, as its words are handed off in slot order (03 R97): of several with no store between, the widest. -/
def scopeAfter (g : Group) (w : Instr) : Group :=
  match w with
  | .snop _ (some sc) _ _ =>
    { g with relScope := some (match g.relScope with
        | some (x, false) => max x sc.code.toNat
        | _ => sc.code.toNat, false) }
  | w => if isStore w || (rmwForm w).isSome then { g with relScope := g.relScope.map (fun x => (x.1, true)) } else g

/-- The scope at which what an operation stores is released (03 R97, R98). -/
def relOf (d : Dev) (o : Op) : Option Nat :=
  match o.word with
  | .stRel m _ _ _ _ => some (acqScope m)
  | _ => (tget d.groups o.gid).bind (fun g => g.relScope.map (fun x => x.1))

/-- One operation handed off (05 R154): counted in its stream, and taken by its unit. -/
def handOffOp (c : Packet) (d : Dev) (base : Nat) (o : Op) : Dev :=
  let id := base + o.slot
  match o.word with
  | .prf _ _ _ _ => o.accs.foldl (fun d a => prfFill d o a) d
  | w =>
    let d := { d with ops := tput d.ops id { o with rel := relOf d o } }
    let d := modGroup d o.gid (fun g => scopeAfter { g with cnt := cntMod g.cnt o.stream (· + 1) } w)
    let d := beginAcq d id o
    let d := match mxGuard w with
      | some _ => modCore d o.core (fun k => { k with mq := k.mq ++ [{ op := id, started := false, rprog := 0, blk := [], tok := false, ra := default, rb := default, wait := false }] })
      | none => d
    let d := logOp c d id
    if isLoad w then finishMem d id else d

/-- A timer trap falls due at this boundary (02 R66, R70; 15 R429): not in a handler, not where the packet has raised a trap of
its own, and not where its pbar parks the group. -/
def timerFalls (c : Packet) (g : Group) : Bool :=
  timerDue g && g.handler.isNone && (trapOf c.g0.fpe c.flags c.trap).isNone && c.park.isNone && g.bound.park.isNone

/-- The group of the packet as it commits: registers, masks, flags, lane PCs, and what its boundary has still to do. -/
def commitGroup (cyc : Nat) (c : Packet) : Group :=
  let g := c.g
  let g := { g with
    fps := orFps g.fps (flagsOf c.flags)
    lpc := (List.range g.width).map (fun l => if mbit c.act l then c.nxt.getD l 0#32 else g.lpc.getD l 0#32)
    gather := []
    tok := false
    bound := { g.bound with
      slide := c.slide
      trap := trapOf c.g0.fpe c.flags c.trap
      park := if c.park.isSome then c.park else g.bound.park
      parkGen := if c.park.isSome then none else g.bound.parkGen
      parkIn := if c.park.isSome then c.g0.handler.isSome else g.bound.parkIn
      parkSlot := if c.park.isSome then c.parkSlot else g.bound.parkSlot
      tret := c.tret
      ctl := c.ctl
      svc := g.bound.svc ++ c.svc
      timer := timerFalls c g
      pcx := c.pc } }
  pcMoved cyc c.g0 g

/-- Yield and its end as other groups of the core issue (06 R193). DESIGN CHOICE: it waits for the groups that are ready as its packet
commits (log 90). -/
def yieldMarks (d : Dev) (c : Packet) : Dev :=
  let core := c.g0.core
  let others := (d.groups.filter (fun x => x.1 != c.gid && x.2.core == core && groupReady d x.1 x.2 c.seed &&
    !yieldWaits d c.seed (fun _ _ => true) x.2)).map (fun x => x.1)
  { d with groups := d.groups.map (fun x =>
      if x.1 == c.gid then
        (x.1, { x.2 with yieldEnd := if c.yield then some (d.cyc + 64) else none, yieldLeft := if c.yield then others else [] })
      else (x.1, { x.2 with yieldLeft := x.2.yieldLeft.filter (fun y => y != c.gid) })) }

/-- Commit (05 R154): everything the packet's words have made takes effect together. -/
def commitPacket (d : Dev) (c : Packet) : Dev :=
  let d := { d with groups := tput d.groups c.gid (commitGroup d.cyc c) }
  let d := tlbTouchAll d c.fills
  let os := c.ops.map (nameOp d)
  let base := d.fresh
  let d := { d with fresh := d.fresh + 3 }
  let d := os.foldl (fun d o => handOffOp c d base o) d
  yieldMarks d c

/-! ## Cancellation (05 R156, 15 R433, R435) -/

/-- A lane of a load in a cancelled packet touches bytes that an earlier store word of the packet would have stored in the
same lane: it holds no value (15 R433). -/
def storedBefore (d : Dev) (c : Packet) (o : Op) (a : Acc) : Bool :=
  c.ops.any (fun q => decide (q.slot < o.slot) && (isStore q.word || (rmwForm q.word).isSome) &&
    q.accs.any (fun b => sameLane o a q b && overlap d a b))

/-- The lanes that an access of a word in a lane stands for. -/
def lanesFor (o : Op) (l : Nat) : Mask := accLanes o (newAcc l 0 0 0 none none [])

/-- The lanes of a load word that make their accesses although its packet is cancelled (15 R433): the access translates whole, no
word of the packet was to store its bytes first, and every word of the packet that it is ordered after (03 R92) has made its access in
the lane too. -/
def gatherLanes (d : Dev) (c : Packet) : Nat → Op → List Nat
  | 0, _ => []
  | k + 1, o => (opLanes o).filter (fun l =>
      o.accs.all (fun a => a.lane != l || (!a.done && !storedBefore d c o a)) && !c.xfaults.any (fun x => x.slot == o.slot && x.lane == l) &&
      o.after.all (fun j => match c.ops.find? (fun q => q.slot == j) with
        | none => true
        | some q =>
          if isLoad q.word then
            q.accs.all (fun b => (accLanes q b &&& lanesFor o l) == 0#64 || b.done || (gatherLanes d c k q).contains b.lane) &&
              !c.xfaults.any (fun x => x.slot == j && (lanesFor q x.lane &&& lanesFor o l) != 0#64)
          else (q.act &&& lanesFor o l) == 0#64))

/-- The accesses that such a word makes. -/
def gatherAccs (d : Dev) (c : Packet) (o : Op) : List Acc := o.accs.filter (fun a => (gatherLanes d c 3 o).contains a.lane)

/-- The gather operation of a load word of a cancelled packet. -/
def gatherOp (c : Packet) (d : Dev) (base : Nat) (o : Op) : Dev :=
  let as := gatherAccs d c o
  if !isLoad o.word || as.isEmpty then d
  else
    let id := base + o.slot
    let o := { o with gather := true, after := o.after.map (fun j => base + j), accs := as.map (fun a => { a with flits := partFlits o a }) }
    beginAcq { d with ops := tput d.ops id o } id o

/-- A cancelled packet (05 R156): no word takes effect; the group keeps the values its loads reached, reports the pages that
failed and holds. -/
def cancelPacket (d : Dev) (c : Packet) : Dev :=
  let d := tlbTouchAll d c.fills
  let base := d.fresh
  let d := { d with fresh := d.fresh + 3 }
  let d := c.ops.foldl (fun d o => gatherOp c d base o) d
  let d := modGroup d c.gid (fun g => { g with bound := { g.bound with fault := true } })
  let loads := c.xfaults.filter (fun x => x.acc == .read)
  loads.foldl (fun d x =>
    addReport d (teamPart d c.g0.tid) (unitCore c.g0.core) 0 x.va x.lvl x.entry.toNat x.acc (.word c.gid x.slot)) d

/-- What becomes of a packet whose words have run (16 R453): the context-fatal fault of the earliest stage; a cancellation when
a load faulted or the side log is too small; else commit. A packet whose translation read a table entry in a failing word does not
complete (14 R403). -/
def closePacket (d : Dev) (c : Packet) : Dev :=
  if c.fills.any (badTouch d) then d
  else match worstFatal c.fatal with
  | some f => groupFatal d c.gid f.reason f.lane f.slot c.pc
  | none =>
    if c.xfaults.any (fun x => x.acc == .read) || decide (logFree d c.g0.core < logNeed c) then cancelPacket d c
    else commitPacket d c

/-! ## The packet boundary (02 R70) -/

/-- An xrnd of the group is not complete: a trap of its packet waits for it (08 R285). -/
def xrndOpen (d : Dev) (gid : Nat) : Bool :=
  anyOp d gid (fun o => match o.word with
    | .xrndE32 _ _ _ _ => true
    | .xrndE64 _ _ _ _ => true
    | _ => false)

/-- The trap a boundary takes: of the packet's own and an xrnd's, the one of the lower slot (02 R65). -/
def boundTrap (g : Group) : Option (TrapReq × Bool) :=
  match g.bound.trap, g.bound.xtrap with
  | some t, some x => if x.slot < t.slot then some (x, true) else some (t, false)
  | some t, none => some (t, false)
  | none, some x => some (x, true)
  | none, none => none

/-- Stores of the group that a tret waits for (07 R259). -/
def storesOpen (d : Dev) (gid : Nat) : Bool := anyOp d gid (fun o => storeKind o.word)

/-- A group whose last lane has ended at depth 0 retires (02 R37): it leaves its core. -/
def retireGroup (d : Dev) (gid : Nat) : Dev := { d with groups := tdel d.groups gid }

/-- The next piece of boundary work of one group; none when there is nothing it can do now. No trap entry begins once the halt line
is raised (16 R461). DESIGN CHOICE for corners of pbar: log 63, log 74. -/
def boundStep (d : Dev) (gid : Nat) (g : Group) (fi : Nat) : Option Dev :=
  let b := g.bound
  if b.dead || !onCore g then none
  else if groupWaits d gid then none
  else if b.slide.isSome then (if regPending d gid then none else some (doSlide d gid fi))
  else if implicitDue g then none
  else if (boundTrap g).isSome then
    (if xrndOpen d gid || halted d (teamPart d g.tid) then none
     else match boundTrap g with
      | some (t, x) => some (dueTrap d gid t x fi)
      | none => none)
  else if b.tret then (if storesOpen d gid then none else some (returnTrap d gid fi))
  else if (minPc g).isNone && g.depth = 0 && !b.fault && !b.timer && !groupHeld d gid g && !regPending d gid then some (retireGroup d gid)
  else if parkDue g then some (modGroup d gid (fun g => { g with place := .parking }))
  else none

/-- One piece of boundary work of every group that has some. -/
def boundRound (fi : Nat) (d : Dev) : Dev :=
  d.groups.foldl (fun d x => match (tget d.groups x.1).bind (fun g => boundStep d x.1 g fi) with
    | some d1 => d1
    | none => d) d

/-- The boundary work of every group, within a number of rounds: no group has more pieces than that. -/
def boundGo (fi : Nat) : Nat → Dev → Dev
  | 0, d => d
  | n + 1, d => if d.groups.any (fun x => (boundStep d x.1 x.2 fi).isSome) then boundGo fi n (boundRound fi d) else d

/-- After a step: the words that can be applied are applied, and every group's boundary work is done as far as it goes
(log 13). -/
def settle (d : Dev) (fi : Nat) : Dev :=
  let d := syncAll d
  let d := boundGo fi 6 d
  syncAll d

end Sys2Proof.Machine
end

