-- ==== Sys2Proof/Machine/Rings.lean ====
section
/-! DEFINITION. Ring grants, the feeder and drain of a core, and transfer notices (07 R241 to R245, R253 to R255; 09 R317 to R319;
17 R467 to R470). -/

namespace Sys2Proof.Machine

/-! ## Grants (07 R241, R244) -/

/-- RACQ_GRANT: a waiting racq obtains its slot; the handle goes to an evicted group's image (15 R449). -/
def execRacqGrant (id : Nat) (s : State) : Out :=
  let d := s.dev
  withDev s (match tget d.ops id with
    | some o => if isRacq o.word then (tryRacq d id o).getD d else d
    | none => d)

/-- RPOP_GRANT: a waiting rpop obtains its slot. -/
def execRpopGrant (id : Nat) (s : State) : Out :=
  let d := s.dev
  withDev s (match tget d.ops id with
    | some o => if isRpop o.word then (tryRpop d id o).getD d else d
    | none => d)

/-! ## Patterns and slots (09 R317) -/

/-- The virtual address of byte k of a ring's pattern for a team. -/
def patAddr (r : RingCfg) (tidx k : Nat) : Nat :=
  let i := fun (n : Nat) => BitVec.ofNat 64 n
  (r.pbase + i tidx * r.tstr + i (k / r.c0 % r.c1) * r.s1 + i (k / (r.c0 * r.c1) % r.c2) * r.s2 +
    i (k / (r.c0 * r.c1 * r.c2)) * r.s3 + i (k % r.c0)).toNat

/-- The addresses of n bytes of a pattern from byte k. -/
def patAddrs (r : RingCfg) (tidx k n : Nat) : List Nat := (List.range n).map (fun i => patAddr r tidx (k + i))

/-- The slot a producer unit of a core fills: the one it holds RESERVED, or slot rix when it is FREE, which it reserves. -/
def fillSlot (r : Ring) : Option (Nat × Ring) :=
  match (List.range r.cfg.nslot).find? (fun i => slotSt r i == .reserved) with
  | some i => some (i, r)
  | none => if slotSt r r.rix == .free then some (r.rix, { ringReserve r with taken := 0 }) else none

/-- The scratchpad offset of slot i. -/
def slotOff (c : RingCfg) (i : Nat) : Nat := c.soff + i * c.ssz

/-- The team's scratchpad with bytes of a slot filled, and zeros after them when the slot is full. -/
def fillBytes (t : Team) (c : RingCfg) (i off : Nat) (bs : List Byte) (close : Bool) : Team :=
  let m := writeBytes t.spad (slotOff c i + off) bs
  { t with spad := if close then writeBytes m (slotOff c i + off + bs.length) (List.replicate (c.ssz - off - bs.length) 0#8) else m }

/-- The detail word of a feeder's pattern fault, and of the rasteriser and CLE (17 R468). -/
def reasonWord (reason va : Nat) : DWord := BitVec.ofNat 64 (reason * 2 ^ 56 + va % 2 ^ 56)

/-- An error of a feeder or drain: it waits at the faulting byte, or the fault is context-fatal with a detail word. -/
def ringErr (d : Dev) (tid n : Nat) (t : Team) (e : MemErr) (det : Nat → Nat → DWord) : Dev :=
  match e with
  | .xl va lvl en acc => addReport d t.part (unitFeed t.core) 4 va lvl en acc (.ring tid n)
  | .prot reason va => modRing (raiseHalt d t.part (unitFeed t.core) 1 (det reason va)) tid n (fun r => { r with stuck := true })
  | .link u => modRing (raiseHalt d t.part u 0x0B 0) tid n (fun r => { r with stuck := true })
  | .busy => d

/-- The feeder and drain of a team's core may begin a slot (14 R407). -/
def feedReady (d : Dev) (tid n : Nat) (t : Team) (r : Ring) : Bool :=
  (t.st == .live || t.st == .late || t.st == .marked) && !r.stuck && !waiting d (.ring tid n) && unitRuns d t.part (unitFeed t.core)

/-! ## The feeder (09 R317, R318) -/

/-- The feeder of a ring may begin a slot of its pattern: it stops when the team's last group retires (17 R467). -/
def patternOpen (d : Dev) (tid n : Nat) (t : Team) (r : Ring) : Bool :=
  r.cfg.prod == 0 && feedReady d tid n t r && t.gids.any (fun i => (tget d.groups i).isSome)

/-- The device after a feeder has committed n bytes of its pattern: PEND of FBAR falls (R318, 07 R250). -/
def feederLand (d : Dev) (tid : Nat) (c : RingCfg) (n : Nat) : Dev := if c.fben then modBar d tid c.fbar (fun b => barLand b n) else d

/-- A slot of the pattern filled as far as it can be read, and committed when it is full. -/
def feedSlot (d : Dev) (tid n : Nat) (t : Team) (r : Ring) (i : Nat) (fi : Nat) : Dev :=
  let left := patLen r.cfg - r.fed
  let size := if left < r.cfg.ssz then left else r.cfg.ssz
  let x := unitReadList t.part (.team tid) fi (patAddrs r.cfg t.tidx (r.fed + r.taken) (size - r.taken)) d
  let d1 := modTeam x.2.1 tid (fun t => fillBytes t r.cfg i r.taken x.1 x.2.2.isNone)
  match x.2.2 with
  | some e => ringErr (modRing d1 tid n (fun _ => { r with taken := r.taken + x.1.length })) tid n t e reasonWord
  | none => feederLand (modRing d1 tid n (fun _ => { ringCommit r i false false none with fed := r.fed + size, taken := 0 })) tid r.cfg size

/-- FEEDER_SLOT_COMMIT (R317): the next slot of the pattern, or the EOS slot after the last. -/
def execFeederSlotCommit (tid n : Nat) (s : State) : Out :=
  let d := s.dev
  match tget d.teams tid, ringOf d tid n with
  | some t, some r =>
    if patternOpen d tid n t r then
      if r.fed < patLen r.cfg then
        (match fillSlot r with
         | none => withDev s d
         | some (i, r1) => withDev s (stepped (feedSlot d tid n t r1 i s.tick) (unitFeed t.core)))
      else if r.cfg.feos && !r.feosDone then
        (match fillSlot r with
         | none => withDev s d
         | some (i, r1) => withDev s (stepped (modRing d tid n (fun _ => { ringCommit r1 i true false none with feosDone := true })) (unitFeed t.core)))
      else withDev s d
    else withDev s d
  | _, _ => withDev s d

/-! ## The drain (09 R319, 03 R101) -/

/-- The slot a drain has in hand: the one it holds POPPED, or the COMMITTED slot qix, which it pops. -/
def drainPick (r : Ring) : Option (Nat × Ring) :=
  match (List.range r.cfg.nslot).find? (fun i => slotSt r i == .popped) with
  | some i => some (i, r)
  | none => if slotSt r r.qix == .committed then some (r.qix, { ringPop r with taken := 0 }) else none

/-- The rcom that a slot's drain inherits is complete once its writes are (03 R101). -/
def drainEnd (d : Dev) (x : Slot) : Dev :=
  match x.rcom with
  | some id => completeOp d id
  | none => d

/-- FDET of the rcom of a slot (17 R468). -/
def drainFdet (d : Dev) (x : Slot) (reason _va : Nat) : DWord :=
  match x.rcom.bind (fun id => tget d.ops id) with
  | some o => fdet o.rslot reason 0 o.slot o.pcx
  | none => fdet 0 reason 0 0 0

/-- The slot in hand of a drain written and released. -/
def drainSlotGo (d : Dev) (tid n : Nat) (t : Team) (r : Ring) (i : Nat) (fi : Nat) : Dev :=
  let x := r.slots.getD i default
  if x.eos || x.err then drainEnd (modRing d tid n (fun _ => ringRelease r i)) x
  else
    let left := patLen r.cfg - r.drained
    let size := if left < r.cfg.ssz then left else r.cfg.ssz
    let bs := readBytes t.spad (slotOff r.cfg i + r.taken) (size - r.taken)
    let w := unitWriteList t.part (.team tid) (.remove t.core) fi ((patAddrs r.cfg t.tidx (r.drained + r.taken) (size - r.taken)).zip bs) d 0
    match w.2.2 with
    | some e => ringErr (modRing w.1 tid n (fun _ => { r with taken := r.taken + w.2.1 })) tid n t e (drainFdet d x)
    | none => drainEnd (modRing w.1 tid n (fun _ => { ringRelease r i with drained := r.drained + size, taken := 0 })) x

/-- DRAIN_SLOT (R319). -/
def execDrainSlot (tid n : Nat) (s : State) : Out :=
  let d := s.dev
  match tget d.teams tid, ringOf d tid n with
  | some t, some r =>
    if r.cfg.cons == 1 && feedReady d tid n t r then
      (match drainPick r with
       | none => withDev s d
       | some (i, r1) => withDev s (stepped (drainSlotGo d tid n t r1 i s.tick) (unitFeed t.core)))
    else withDev s d
  | _, _ => withDev s d

/-! ## Notices (07 R253 to R255, 17 R469, R470) -/

/-- An acknowledgement on its way to a barrier of the sending team. -/
def sendAck (d : Dev) (p tid bar n : Nat) : Dev := { d with acks := tput d.acks d.fresh (p, tid, bar, n), fresh := d.fresh + 1 }

/-- A notice lost counts in NTCLOST (R470). -/
def countLost (d : Dev) (p clidx : Nat) : Dev :=
  let k := regBits d (offNtclost p) 48 16
  regPut (regPut d (offNtclost p) 48 16 (if k < 0xFFFF then k + 1 else k)) (offNtclost p) 0 30 clidx

/-- The cluster index of a team. -/
def clusterIdx (d : Dev) (tid : Nat) : Nat := ((tget d.clusters (teamCid d tid)).map (fun c => c.clidx)).getD 0

/-- The notices still queued at a team that retires are lost: each is acknowledged and counted (R469). -/
def loseNotices (d : Dev) (tid : Nat) (t : Team) : Dev :=
  (t.rings.flatMap (fun r => r.2.notices)).foldl (fun d x => sendAck (countLost d t.part (clusterIdx d tid)) x.part x.tid x.bar x.len) d

/-- The words of a notice block: SADDR, LEN, the target word and MASK (R253). -/
structure Block where
  saddr : Nat
  len : Nat
  w : Nat
  mask : Nat
  deriving DecidableEq, Repr, Inhabited

/-- The block of an ntc once it has been read, kept with the operation. -/
def blockOf (o : Op) : Block :=
  let r := (o.lanes.headD default).run
  let q := fun i => (r.getD i 0#32).toNat + (r.getD (i + 1) 0#32).toNat * 2 ^ 32
  { saddr := q 0, len := q 2, w := q 4, mask := q 6 }

/-- The operation with the block it has read. -/
def keepBlock (o : Op) (bs : List Byte) : Op :=
  { o with prog := 1, lanes := [{ lane := 0, a := 0, d := 0, run := (List.range 8).map (fun i => BitVec.ofNat 32 (at_ bs (4 * i) 4)) }] }

def blkMemb (b : Block) : Nat := bits b.w 3 5
def blkRing (b : Block) : Nat := bits b.w 0 3
def blkBase (b : Block) : Nat := bits b.w 8 30

/-- The clusters that a block names, by mask bit. -/
def blkNamed (b : Block) : List Nat := (List.range 64).filter (bit b.mask)

/-- The checks of R254 on a block: reason 0x2C. -/
def blkBad (b : Block) (k : Task) : Bool :=
  bits b.len 32 32 != 0 || bits b.w 38 26 != 0 || decide (k.chm < blkMemb b / 4) || decide (k.cwm < blkMemb b % 4) ||
  (blkNamed b).any (fun i => decide (k.grid ≤ blkBase b + i))

/-- An ntc in flight whose predecessors are complete. -/
def ntcOpen (d : Dev) (id : Nat) : Option (Op × Team) :=
  match tget d.ops id with
  | some o =>
    (match o.word with
     | .ntc _ _ _ =>
       if opReady d o && !o.wait && !opWaits d id then (tget d.teams o.tid).map (fun t => (o, t)) else none
     | _ => none)
  | none => none

/-- The ntc's block read at its home, as an engine reads (R254, 03 R99), and checked. -/
def readBlock (d : Dev) (id : Nat) (o : Op) (t : Team) (fi : Nat) : Dev :=
  match unitRead d o.part (.team o.tid) o.a.toNat 32 fi with
  | .error (.xl va lvl e acc) => addReport d o.part (unitCore o.core) 0 va lvl e acc (.op id)
  | .error (.prot reason _) => opFatal d id (unitCore o.core) reason 0
  | .error (.link u) => modOp (raiseHaltBy d o.part u 0x0B 0 (some (o.core, o.grp))) id (fun o => { o with wait := true })
  | .error .busy => d
  | .ok (bs, d1) =>
    let b := blockOf (keepBlock o bs)
    if blkBad b (taskOf d t) then opFatal d1 id (unitCore o.core) 0x2C 0
    else if b.mask = 0 then completeOp d1 id
    else modOp d1 id (fun o => keepBlock o bs)

/-- Mask bit i of an ntc accepted or lost; the word is complete when every bit is. -/
def ntcTaken (d : Dev) (id i : Nat) (b : Block) : Dev :=
  match tget d.ops id with
  | none => d
  | some o =>
    let fin := o.fin ||| BitVec.ofNat 64 (2 ^ i)
    if fin.toNat = b.mask then completeOp d id else modOp d id (fun o => { o with fin := fin })

/-- The bit of an ntc's mask that names a cluster and is not yet taken. -/
def ntcBit (o : Op) (b : Block) (clidx : Nat) : Option Nat :=
  (blkNamed b).find? (fun i => blkBase b + i == clidx && !mbit o.fin i)

/-- The record of cluster clidx of a grid. -/
def clusterAt (d : Dev) (grid clidx : Nat) : Option Cluster := (d.clusters.find? (fun c => c.2.grid == grid && c.2.clidx == clidx)).map (fun c => c.2)

/-- The receiving member of a cluster. -/
def memberOf (d : Dev) (c : Cluster) (m : Nat) : Option (Nat × Team) :=
  c.tids.findSome? (fun i => (tget d.teams i).bind (fun t => if 4 * t.row + t.col = m then some (i, t) else none))

/-- The receiver of a notice: not yet placed, gone, or a team. -/
inductive Recv where
  | unplaced
  | gone
  | team (tid : Nat) (t : Team)
  deriving DecidableEq, Repr, Inhabited

/-- Where the receiver of a notice stands (R469). -/
def receiver (d : Dev) (t : Team) (clidx m : Nat) : Recv :=
  let next := ((tget d.grids t.grid).map (fun g => g.nextCl)).getD 0
  if next ≤ clidx then .unplaced
  else
    match clusterAt d t.grid clidx with
    | none => .gone
    | some c =>
      match memberOf d c m with
      | none => .gone
      | some (i, u) => if u.st == .retired then .gone else .team i u

/-- A notice placed in the queue of the receiver's ring; a ring of another kind is 0x44, reported by the receiver; a full queue
waits (R255). It travels in the request channel of its partition, a header and a flit (11 R360, log 68). -/
def placeNotice (d : Dev) (id : Nat) (o : Op) (b : Block) (i rtid : Nat) (u : Team) : Dev :=
  match tget u.rings (blkRing b) with
  | none => modOp (raiseHaltBy d o.part (unitFeed u.core) 6 (fdet o.rslot 0x44 0 o.slot o.pcx) (some (o.core, o.grp))) id (fun o => { o with wait := true })
  | some r =>
    if r.cfg.prod ≠ 2 then
      modOp (raiseHaltBy d o.part (unitFeed u.core) 6 (fdet o.rslot 0x44 0 o.slot o.pcx) (some (o.core, o.grp))) id (fun o => { o with wait := true })
    else if 16 ≤ r.notices.length then d
    else
      let x : Notice := { saddr := BitVec.ofNat 64 b.saddr, len := b.len, pulled := 0, part := o.part, tid := o.tid, bar := o.d.toNat, op := id,
                          fdet := fdet o.rslot 0 0 o.slot o.pcx }
      ntcTaken (netAdd (modRing d rtid (blkRing b) (fun r => { r with notices := r.notices ++ [x] })) (coreLeaf o.core) o.part 2) id i b

/-- NOTICE_DELIVER (R254): the block is read and checked before any delivery; then the notice goes to one named cluster. -/
def execNoticeDeliver (id clidx : Nat) (s : State) : Out :=
  let d := s.dev
  match ntcOpen d id with
  | none => withDev s d
  | some (o, t) =>
    if o.prog = 0 then withDev s (readBlock d id o t s.tick)
    else
      let b := blockOf o
      match ntcBit o b clidx, receiver d t clidx (blkMemb b) with
      | some i, .team rtid u => withDev s (placeNotice d id o b i rtid u)
      | _, _ => withDev s d

/-- NOTICE_LOST (R469): no byte is delivered; LEN bytes are acknowledged and NTCLOST counts the notice. -/
def execNoticeLost (id clidx : Nat) (s : State) : Out :=
  let d := s.dev
  match ntcOpen d id with
  | none => withDev s d
  | some (o, t) =>
    if o.prog = 0 then withDev s d
    else
      let b := blockOf o
      match ntcBit o b clidx, receiver d t clidx (blkMemb b) with
      | some i, .gone => withDev s (ntcTaken (sendAck (countLost d o.part clidx) o.part o.tid o.d.toNat b.len) id i b)
      | _, _ => withDev s d

/-- The FDET of a notice's sender with the reason of a pull (R455). -/
def pullFdet (x : Notice) (reason _va : Nat) : DWord := x.fdet ||| BitVec.ofNat 64 (reason * 2 ^ 40)

/-- The head notice of a ring pulled into one slot as far as it can be read, committed when the slot is full, and acknowledged
when it was the last. -/
def pullSlot (d : Dev) (tid n : Nat) (t : Team) (r : Ring) (x : Notice) (i : Nat) (fi : Nat) : Dev :=
  let left := x.len - x.pulled
  let size := if left < r.cfg.ssz then left else r.cfg.ssz
  let y := unitReadList t.part (.team tid) fi ((List.range (size - r.taken)).map (fun k => (x.saddr + BitVec.ofNat 64 (x.pulled + r.taken + k)).toNat)) d
  let d1 := modTeam y.2.1 tid (fun t => fillBytes t r.cfg i r.taken y.1 y.2.2.isNone)
  match y.2.2 with
  | some e => ringErr (modRing d1 tid n (fun _ => { r with taken := r.taken + y.1.length })) tid n t e (pullFdet x)
  | none =>
    let r1 := { ringCommit r i false false none with taken := 0 }
    if x.pulled + size = x.len then
      sendAck (modRing d1 tid n (fun _ => { r1 with notices := r.notices.drop 1 })) x.part x.tid x.bar x.len
    else modRing d1 tid n (fun _ => { r1 with notices := { x with pulled := x.pulled + size } :: r.notices.drop 1 })

/-- NOTICE_PULL (R255): the receiving feeder takes its notices in arrival order. -/
def execNoticePull (tid n : Nat) (s : State) : Out :=
  let d := s.dev
  match tget d.teams tid, ringOf d tid n with
  | some t, some r =>
    (match r.notices with
     | [] => withDev s d
     | x :: _ =>
       if !feedReady d tid n t r then withDev s d
       else if x.len = 0 then
         withDev s (sendAck (modRing d tid n (fun r => { r with notices := r.notices.drop 1 })) x.part x.tid x.bar 0)
       else
         match fillSlot r with
         | none => withDev s d
         | some (i, r1) => withDev s (stepped (pullSlot d tid n t r1 x i s.tick) (unitFeed t.core)))
  | _, _ => withDev s d

/-- NOTICE_ACK (R255): LEN bytes land in the sender's barrier; for a team that has retired the acknowledgement is discarded. -/
def execNoticeAck (ack : Nat) (s : State) : Out :=
  let d := s.dev
  match tget d.acks ack with
  | none => withDev s d
  | some (_, tid, bar, n) => withDev s (modBar { d with acks := tdel d.acks ack } tid bar (fun b => barLand b n))

end Sys2Proof.Machine
end

