-- ==== Sys2Proof/Machine/Groups.lean ====
section
/-! DEFINITION. The events of groups and teams: implicit return, retirement, the timer trap, parking and re-creation, the service
record (02 R37, R47, R51 to R53, R66; 07 R258; 09 R320; 11 R368). -/

namespace Sys2Proof.Machine

/-- The group's four stream counts are 0 (03 R94). -/
def countsZero (g : Group) : Bool := (List.range 4).all (fun s => g.cnt.getD s 0 == 0)

/-! ## Implicit return (02 R47) -/

/-- IMPLICIT_RETURN: a callee whose last live lane has ended returns as by ret, in place of the issue it cannot make; it is part of
step 3 of R70, before a trap. -/
def execImplicitReturn (gid : Nat) (s : State) : Out :=
  let d := s.dev
  match tget d.groups gid with
  | none => withDev s d
  | some g =>
    if onCore g && !g.bound.dead && implicitDue g && coreRuns d (teamPart d g.tid) g.core then
      withDev s (modGroup d gid (fun g => { g with bound := { g.bound with slide := some .ret } }))
    else withDev s d

/-! ## The timer trap (02 R66) -/

/-- TIMER_TRAP: EN is cleared and the trap is taken; with no handler it is context-fatal (15 R429). -/
def execTimerTrap (gid : Nat) (s : State) : Out :=
  let d := s.dev
  match tget d.groups gid with
  | none => withDev s d
  | some g =>
    if g.bound.timer && onCore g && !g.bound.dead && g.bound.slide.isNone && !implicitDue g && (boundTrap g).isNone && !xrndOpen d gid &&
        !groupWaits d gid && !halted d (teamPart d g.tid) then
      withDev s (takeTrap (modGroup d gid disarm) gid (timerReq g) s.tick)
    else withDev s d

/-! ## Phases (02 R51 to R53) -/

/-- The uniform registers of a carry set, in ascending number. -/
def carryS (carry : DWord) : List Nat := (List.range 16).filter (fun i => bit carry.toNat (40 + i))
/-- The mask register of a carry set, or 0. -/
def carryK (carry : DWord) : Nat := bits carry.toNat 56 3

/-- The phase record of a group (R52). -/
def phaseRecord (g : Group) (carry : DWord) : List Byte :=
  let vs := carryV carry
  let ss := carryS carry
  let k := carryK carry
  leBytes (1 + g.width * 2 ^ 8 + vs.length * 2 ^ 16 + ss.length * 2 ^ 20 + (if k = 0 then 0 else 2 ^ 23)) 8 ++
    (List.range 4).flatMap (fun j => leBytes (match ss[j]? with
      | some n => (readS g n).toNat
      | none => 0) 8) ++
    leBytes (if k = 0 then 0 else (readK g k).toNat) 8 ++ leBytes g.gcyc.toNat 8 ++
    leBytes (bits g.fps.toNat 0 5 + bits g.fpe.toNat 0 5 * 2 ^ 8) 8 ++ leBytes g.tvec.toNat 8 ++ leBytes g.tmcmp.toNat 8 ++
    leBytes g.rndkey.toNat 8 ++ leBytes g.tframe.toNat 8 ++
    (List.range g.width).flatMap (fun l => (List.range 8).flatMap (fun j => leBytes (match vs[j]? with
      | some n => (readV g n l).toNat
      | none => 0) 4)) ++
    (List.range g.width).flatMap (fun l => leBytes (g.lpc.getD l 0xFFFFFFFF#32).toNat 4)

/-- Where a group's phase record lies in its team's scratchpad (R52). -/
def phaseAt (k : Task) (g : Group) : Nat := k.phoff + g.gintm * phaseBytes k

/-- The group once its pool and slot are freed (R51). -/
def parkGroup (g : Group) : Group := { g with place := .parked, v := [], s := [], k := [] }

/-- GROUP_PARK (R51): once the stream counts are 0 the phase record is written, and the pool and the residency slot are freed. -/
def execGroupPark (gid : Nat) (s : State) : Out :=
  let d := s.dev
  match tget d.groups gid with
  | none => withDev s d
  | some g =>
    if g.place == .parking && countsZero g && !g.bound.dead && coreRuns d (teamPart d g.tid) g.core then
      match teamTask d g.tid with
      | none => withDev s d
      | some k =>
        let d1 := modTeam d g.tid (fun t => { t with spad := writeBytes t.spad (phaseAt k g) (phaseRecord g k.carry) })
        withDev s (modGroup d1 gid parkGroup)
    else withDev s d

/-- A parked group's barrier has completed (R53): the phase its pbar arrived in is over. -/
def parkOver (d : Dev) (g : Group) : Bool :=
  match g.bound.park, g.bound.parkGen with
  | some n, some x => (namedBar d g.tid n).gen != x
  | _, _ => false

/-- The groups of a team that have not retired. -/
def teamGroups (d : Dev) (t : Team) : List (Nat × Group) := t.gids.filterMap (fun i => (tget d.groups i).map (fun g => (i, g)))

/-- A group of the team has seen the barrier it parked at complete. -/
def someOver (d : Dev) (t : Team) : Bool := (teamGroups d t).any (fun x => parkOver d x.2)

/-- The groups of the team are in one phase: the barrier has completed for none of those that parked, or for all of them (15 R449). -/
def phaseWhole (d : Dev) (t : Team) : Bool := !someOver d t || (teamGroups d t).all (fun x => parkOver d x.2)

/-- The team was marked for swapping before the phase its groups park in completed, so that it is to be swapped first (15 R448, R449). -/
def swapFirst (d : Dev) (t : Team) : Bool :=
  t.st == .marked && (teamGroups d t).all (fun x => x.2.place == .parked || x.2.place == .parking) && phaseWhole d t

/-- A group of the team may be re-created: the team is in its place. -/
def recreateOn (d : Dev) (tid : Nat) : Bool :=
  match tget d.teams tid with
  | some t => t.st != .swapped && !swapFirst d t
  | none => false

/-- A mark that came too late for the phase just over counts once every group of that phase is re-created (15 R449). -/
def markCounts (d : Dev) (tid : Nat) : Dev :=
  modTeam d tid (fun t => if t.st == .late && !someOver d t then { t with st := .marked } else t)

/-- A residency slot and a pool are free for a group on its core. -/
def slotFree (d : Dev) (g : Group) : Bool :=
  let need : Need := { teams := 0, groups := 1, regs := g.pool * 4 * g.width, spad := 0, am := 0 }
  if inReserve d g.tid then needFits coreReserve (inUse d g.core id) need else needFits coreWhole (inUse d g.core (fun r => !r)) need

/-- The carried registers of a record put into a group. -/
def loadCarry (g : Group) (carry : DWord) (bs : List Byte) : Group :=
  let vs := carryV carry
  let ss := carryS carry
  let g := ((List.range ss.length).zip ss).foldl (fun g x => writeS g x.2 (BitVec.ofNat 64 (at_ bs (8 + 8 * x.1) 8))) g
  let g := if carryK carry = 0 then g else writeK g (carryK carry) (BitVec.ofNat 64 (at_ bs 40 8))
  ((List.range vs.length).zip vs).foldl (fun g x => (List.range g.width).foldl (fun g l =>
    writeV g x.2 l (BitVec.ofNat 32 (at_ bs (96 + 32 * l + 4 * x.1) 4))) g) g

/-- The special registers of a record put into a group. -/
def loadSpecial (g : Group) (bs : List Byte) : Group :=
  let x := fun o => BitVec.ofNat 64 (at_ bs o 8)
  let g := srWrite (srWrite (srWrite (srWrite g 0x06 (x 64)) 0x0B (x 72)) 0x0F (x 80)) 0x0A (x 88)
  { g with
    gcyc := x 48
    fps := BitVec.ofNat 64 (bits (at_ bs 56 8) 0 5)
    fpe := BitVec.ofNat 64 (bits (at_ bs 56 8) 8 5) }

/-- A group re-created from its phase record (R53). -/
def recreate (g : Group) (carry : DWord) (bs : List Byte) (rslot cyc : Nat) : Group :=
  let base := { Group.none with
    tid := g.tid
    core := g.core
    rslot := rslot
    gintm := g.gintm
    gidx := g.gidx
    width := g.width
    pool := g.pool
    spill := g.spill
    galley := g.galley
    batch := g.batch
    helper := g.helper
    lpc := (List.range g.width).map (fun l => BitVec.ofNat 32 (at_ bs (96 + 32 * g.width + 4 * l) 4))
    pcSince := cyc }
  loadCarry (loadSpecial base bs) carry bs

/-- GROUP_RECREATE (R53): a record of another format or width is context-fatal (16 R455, 0x2D). -/
def execGroupRecreate (gid : Nat) (s : State) : Out :=
  let d := s.dev
  match tget d.groups gid with
  | none => withDev s d
  | some g =>
    if g.place == .parked && parkOver d g && !g.bound.dead && slotFree d g && coreRuns d (teamPart d g.tid) g.core &&
        recreateOn d g.tid then
      match tget d.teams g.tid, teamTask d g.tid with
      | some t, some k =>
        let bs := readBytes t.spad (phaseAt k g) (phaseBytes k)
        if at_ bs 0 1 = 1 ∧ bits (at_ bs 0 8) 8 7 = g.width then
          withDev s (markCounts { d with groups := tput d.groups gid (recreate g k.carry bs (freeResSlot d g.core) d.cyc) } g.tid)
        else withDev s (groupFatal d gid 0x2D 0 g.bound.parkSlot g.bound.pcx)
      | _, _ => withDev s d
    else withDev s d

/-! ## The service record (07 R258, 11 R368) -/

/-- Where service slot i of a partition lies in BAR2 (11 R366). -/
def svcAt (p i : Nat) : Nat := 0x200000 * p + 0x100000 + 64 * i

/-- The 64 bytes of a service record. -/
def svcRecord (d : Dev) (g : Group) (code : BitVec 16) : List Byte :=
  leBytes (code.toNat + 2 ^ 16) 8 ++ leBytes (teamid d g).toNat 8 ++ leBytes (grpid g).toNat 8 ++ leBytes (readS g 1).toNat 8 ++
    leBytes (readS g 2).toNat 8 ++ leBytes (readS g 3).toNat 8 ++ leBytes 0 16

/-- SVC_RECORD_WRITE: once the stream counts are 0, a system-scope release is made and the record is written; a full page makes it
wait. -/
def execSvcRecordWrite (gid : Nat) (s : State) : Out :=
  let d := s.dev
  match tget d.groups gid with
  | none => withDev s d
  | some g =>
    match g.bound.svc with
    | [] => withDev s d
    | code :: _ =>
      let p := teamPart d g.tid
      let tail := regBits d (offSvcptr p) 16 8
      if g.bound.svcSlot.isNone && !g.bound.dead && countsZero g && coreRuns d p g.core && (g.place == .resident || g.place == .evicting) &&
          (tail + 1) % 256 != regBits d (offSvcptr p) 0 8 && releaseOpen d then
        let d0 := landHost d
        let d1 := { d0 with bar2 := writeBytes d0.bar2 (svcAt p tail) (svcRecord d g code) }
        let d2 := raiseMsix (regPut d1 (offSvcptr p) 16 8 (tail + 1)) (2 * p)
        withDev s (modGroup d2 gid (fun g => { g with bound := { g.bound with svcSlot := some tail } }))
      else withDev s d

/-! ## The end of a grid (09 R320) -/

/-- Some operation of a team is still in flight. -/
def teamOps (d : Dev) (tid : Nat) : Bool := d.ops.any (fun o => o.2.tid == tid)

/-- A cluster whose teams have all retired and whose operations are complete. -/
def clusterDone (d : Dev) (cid : Nat) (c : Cluster) : Bool := !clusterLive d cid && !c.tids.any (teamOps d)

/-- The records of the clusters that are done removed. -/
def sweep (d : Dev) : Dev :=
  d.clusters.foldl (fun d x =>
    if clusterDone d x.1 x.2 then
      { d with clusters := tdel d.clusters x.1, teams := d.teams.filter (fun t => !x.2.tids.contains t.1) }
    else d) d

/-- A grid whose clusters are all placed and done: every earlier write of it is complete. -/
def gridDone (d : Dev) (gid : Nat) (g : Grid) : Bool := decide (g.task.grid ≤ g.nextCl) && !d.clusters.any (fun c => c.2.grid == gid)

/-- The grid leaves; a node's grid goes to the graph engine (R328). -/
def dropGrid (d : Dev) (gid : Nat) (g : Grid) : Dev :=
  let d := { d with grids := tdel d.grids gid }
  match g.node with
  | some (run, i) => modPart d g.part (fun q => { q with runs := tmod q.runs run (fun r => { r with retired := r.retired ++ [i] }) })
  | none => d

/-- GRID_COMPLETION: CVAL is written to COMPL after the release; a translation fault waits, any other is refused (17 R462). -/
def completeGrid (d : Dev) (gid : Nat) (g : Grid) (fi : Nat) : Dev :=
  if !gridDone d gid g || waiting d (.grid gid 0) || !releaseOpen d then d
  else if g.compl = 0 then dropGrid (landHost d) gid g
  else
    match tdWrite (landHost d) g.part g.compl (leBytes g.cval.toNat 8) g.compl fi with
    | .ok d1 => dropGrid d1 gid g
    | .error e =>
      let d1 := tdFail d g.part (servingOct d g.part) (.grid gid 0) e
      if tdWaits e then d1 else dropGrid d1 gid { g with node := none }

/-- Every grid of a partition that is done completed. -/
def completeGrids (d : Dev) (p fi : Nat) : Dev :=
  let d := sweep d
  if halted d p then d
  else d.grids.foldl (fun d x => if x.2.part = p then completeGrid d x.1 x.2 fi else d) d

/-! ## A team's end (02 R37) -/

/-- A ring that a drain empties still holds slots, or will: an rcom to it waits (17 R467). -/
def drainOpen (d : Dev) (tid : Nat) (t : Team) : Bool :=
  t.rings.any (fun r => r.2.cfg.cons == 1 && (r.2.slots.any (fun x => x.st == .committed || x.st == .popped) ||
    d.ops.any (fun o => o.2.tid == tid && isRcom o.2.word && ringNum o.2.word == r.1 && o.2.act != 0 && !o.2.applied && !o.2.wait)))

/-- Every group of the team has retired and every engine command it issued is complete. -/
def teamEnds (d : Dev) (tid : Nat) (t : Team) : Bool :=
  (t.st == .live || t.st == .late || t.st == .marked) && t.gids.all (fun i => (tget d.groups i).isNone) &&
  !d.ops.any (fun o => o.2.tid == tid && isEngine o.2.word) && !drainOpen d tid t

/-- The team once it has retired: AM, rings and barriers are gone. -/
def endTeam (t : Team) : Team := { t with st := .retired, am := [], rings := [], bars := [] }

/-- Words of a retired team that its rings and barriers would have taken are complete with no effect. -/
def dropSyncOps (d : Dev) (tid : Nat) : Dev :=
  { d with ops := d.ops.filter (fun o => !(o.2.tid == tid && (isBarWord o.2.word || (syncClass o.2.word != 5 && ringNumbered o.2.word)))) }
where
  ringNumbered : Instr → Bool
    | .rcom _ _ _ => true | .rcomEos _ _ _ => true | .rcomErr _ _ _ => true | .rrel _ _ _ => true | .racq _ _ _ => true
    | .rpop _ _ _ => true | .rstat _ _ _ => true | _ => false

/-- The extent table of a grid leaves a core with the grid's last team there (09 R315). -/
def dropExts (d : Dev) (grid core : Nat) : Dev :=
  if d.teams.any (fun t => t.2.grid == grid && t.2.core == core && t.2.st != .retired) then d
  else modCore d core (fun c => { c with exts := tdel c.exts grid })

/-- The galley records a material team held are freed (09 R331). -/
def freeMaterial (d : Dev) (tid grid : Nat) : Dev :=
  match tget d.grids grid with
  | some g =>
    (match g.mat with
     | some gal => freeBatches d g.part gal tid
     | none => d)
  | none => d

/-- A team that has ended retires. -/
def retireTeam (d : Dev) (tid : Nat) (t : Team) (fi : Nat) : Dev :=
  let d := loseNotices d tid t
  let d := dropSyncOps d tid
  let d := modTeam d tid endTeam
  let d := { d with grids := tmod d.grids t.grid (fun g => { g with live := g.live - 1 }) }
  let d := dropExts d t.grid t.core
  let d := freeMaterial d tid t.grid
  completeGrids d t.part fi

/-- TEAM_RETIRE: the allotments are freed; the last team of the grid completes it. -/
def execTeamRetire (tid : Nat) (s : State) : Out :=
  let d := s.dev
  match tget d.teams tid with
  | none => withDev s d
  | some t => if teamEnds d tid t then withDev s (retireTeam d tid t s.tick) else withDev s d

/-- The material teams of a partition that end in this cycle retired (10 R356). -/
def retireMaterial (d : Dev) (p fi : Nat) : Dev :=
  d.teams.foldl (fun d x => if x.2.part = p ∧ (taskOf d x.2).mat ∧ teamEnds d x.1 x.2 then retireTeam d x.1 x.2 fi else d) d

end Sys2Proof.Machine
end

