-- ==== Sys2Proof/Machine/Graphs.lean ====
section
/-! DEFINITION. Task queues, the reading of descriptors, and the graph engine (09 R320 to R323, R327, R328; 10 R336, R337, R347; 11
R367; 17 R462, R464). -/

namespace Sys2Proof.Machine

/-! ## Queues (R320, R321) -/

/-- Queue q of a partition. -/
def queueOf (d : Dev) (p q : Nat) : List LaunchRec := ((tget d.parts p).bind (fun x => tget x.queues q)).getD []
/-- The device with a queue set. -/
def putQueue (d : Dev) (p q : Nat) (rs : List LaunchRec) : Dev := modPart d p (fun x => { x with queues := tput x.queues q rs })
/-- TDQCFG.EN of a queue (R322). -/
def queueOn (d : Dev) (p q : Nat) : Bool := regBits d (offTdqcfg p q) 8 1 == 1
/-- WT of a queue plus one (R322). -/
def queueTurn (d : Dev) (p q : Nat) : Nat := regBits d (offTdqcfg p q) 0 4 + 1

/-- A launch record as it lies in memory (R320). -/
def parseRec (bs : List Byte) (node : Option (Nat × Nat)) : LaunchRec :=
  { desc := BitVec.ofNat 64 (at_ bs 0 8), compl := at_ bs 8 8, cval := BitVec.ofNat 64 (at_ bs 16 8), arg := (bs.drop 24).take 40, node := node, st := .unread }

/-- LAUNCH_RECORD_ACCEPT (11 R367): the record in slot HEAD of a queue page enters its queue, unless the queue is full. -/
def execLaunchRecordAccept (p q : Nat) (s : State) : Out :=
  let d := s.dev
  let head := regBits d (offQptr p q) 16 8
  let rs := queueOf d p q
  if assigned d p && !halted d p && decide (q < 64) && head != regBits d (offQptr p q) 0 8 && decide (rs.length < 256) then
    let bs := readBytes d.bar2 (0x200000 * p + 0x4000 * q + 64 * head) 64
    withDev s (regPut (putQueue d p q (rs ++ [parseRec bs none])) (offQptr p q) 16 8 (head + 1))
  else withDev s d

/-! ## Draw and tile set descriptors (10 R337, R347) -/

/-- Samples per pixel of a code. -/
def sppOf (code : Nat) : Nat := 4 ^ code

/-- The fields of a draw descriptor and its tile set. -/
def parseDraw (bs ts : List Byte) (addr : Nat) : DrawDesc :=
  let c := at_ bs 0 4
  { addr := addr, op := bits c 0 2, cull := bits c 2 2, missrec := bit c 4, prio := bits c 8 2, ecls := bits c 10 2, rgal := at_ bs 4 2,
    tset := at_ bs 8 8, itab := at_ bs 16 8, ninst := at_ bs 24 4, vw := at_ bs 28 2, vh := at_ bs 30 2, list := at_ bs 32 8, nlist := at_ bs 40 4,
    nsu := at_ bs 44 4, subase := at_ bs 48 8, gset := at_ bs 56 8, stat := at_ bs 64 8, tbase := at_ ts 0 8, tw := at_ ts 8 2, th := at_ ts 10 2,
    spp := sppOf (bits (at_ ts 8 8) 32 2) }

/-- Bytes of a tile (10 R348). -/
def tileBytes (w : DrawDesc) : Nat := 1024 * w.spp * 16

/-- A draw descriptor and its tile set obey R337 and R347; a field that the operation does not use is ignored. -/
def drawOk (bs ts : List Byte) (addr : Nat) : Bool :=
  let w := parseDraw bs ts addr
  let c := at_ bs 0 4
  addr % 128 == 0 && w.cull != 3 && bits c 5 3 == 0 && bits c 12 20 == 0 && w.tset % 64 == 0 && w.stat % 64 == 0 &&
  (bs.drop 72).take 56 == List.replicate 56 0#8 &&
  (w.op != 0 ||
    (at_ bs 6 2 == 0 && decide (8 ≤ w.vw) && decide (w.vw ≤ 16384) && w.vw % 8 == 0 && decide (8 ≤ w.vh) && decide (w.vh ≤ 16384) && w.vh % 8 == 0 &&
     decide (w.vw ≤ 32 * w.tw) && decide (w.vh ≤ 32 * w.th) && decide (1 ≤ w.nsu) && decide (w.nsu ≤ 65536) && w.subase % 64 == 0 && w.list % 8 == 0)) &&
  bits (at_ ts 8 8) 32 2 != 3 && bits (at_ ts 8 8) 35 29 == 0 && decide (1 ≤ w.tw) && decide (w.tw ≤ 512) && decide (1 ≤ w.th) && decide (w.th ≤ 512) &&
  (ts.drop 16).take 48 == List.replicate 48 0#8 && w.tbase % tileBytes w == 0

/-- A draw descriptor read with its tile set and checked (code 0x04). -/
def readDraw (d : Dev) (p addr fi : Nat) : Except TdErr (DrawDesc × Dev) :=
  match tdRead d p addr 128 addr fi with
  | .error e => .error e
  | .ok (bs, d1) =>
    if at_ bs 8 8 % 64 ≠ 0 then .error (.refuse 0x04 addr)
    else
      match tdRead d1 p (at_ bs 8 8) 64 addr fi with
      | .error e => .error e
      | .ok (ts, d2) =>
        if !drawOk bs ts addr then .error (.refuse 0x04 addr)
        else
          match xlUnit d2 p (tdAgent d p) (at_ ts 0 8) .read fi with
          | .ok (.dev pa _, d3) => if isDram pa then .ok (parseDraw bs ts addr, d3) else .error (.refuse 0x04 addr)
          | .ok _ => .error (.refuse 0x04 addr)
          | .error e =>
            match tdErr addr e with
            | .refuse _ _ => .error (.refuse 0x04 addr)
            | x => .error x

/-! ## Reading the head of a queue (R311, R323) -/

/-- The head record of a queue read and checked: what it is, with the device after the reads. -/
def readHead (d : Dev) (p : Nat) (r : LaunchRec) (fi : Nat) : Except TdErr (HeadSt × Dev) :=
  let x := r.desc.toNat
  if bits x 0 2 = 3 then .error (.refuse 0x04 (x - 3))
  else if bit x 0 then .ok (.replay (x - 1), d)
  else if bit x 1 then
    (match readDraw d p (x - 2) fi with
     | .ok (w, d1) => .ok (.draw w, d1)
     | .error e => .error e)
  else
    match readTask d p x fi with
    | .error e => .error e
    | .ok (k, d1) =>
      let g : Grid := { part := p, task := k, compl := r.compl, cval := r.cval, arg := r.arg, nextCl := 0, live := 0, node := r.node, mat := none, exts := [], walks := [] }
      .ok (.task d1.fresh, { d1 with grids := tput d1.grids d1.fresh g, fresh := d1.fresh + 1 })

/-- DESCRIPTOR_READ: a record's descriptor is read as soon as it heads its queue; a refused launch leaves its queue (17 R462). -/
def execDescriptorRead (p q : Nat) (s : State) : Out :=
  let d := s.dev
  match queueOf d p q with
  | [] => withDev s d
  | r :: t =>
    if r.st != .unread || halted d p || waiting d (.head p q) then withDev s d
    else
      match readHead d p r s.tick with
      | .ok (h, d1) => withDev s (putQueue d1 p q ({ r with st := h } :: t))
      | .error e =>
        let d1 := tdFail d p (servingOct d p) (.head p q) e
        withDev s (if tdWaits e then d1 else putQueue d1 p q t)

/-! ## Graphs (R327, R328) -/

/-- A graph node. -/
structure Node where
  addr : Nat
  desc : Nat
  tag : Nat
  cnt : Nat
  indeg : Nat
  nsucc : Nat
  queue : Nat
  succ : Nat
  argp : Nat
  deriving DecidableEq, Repr, Inhabited

/-- The address of node i. -/
def nodeAddr (nodes i : Nat) : Nat := nodes + 64 * i

/-- Node i read and checked (code 0x07). -/
def readNode (d : Dev) (p nodes i fi : Nat) : Except TdErr (Node × Dev) :=
  let a := nodeAddr nodes i
  match tdRead d p a 64 a fi with
  | .error e => .error e
  | .ok (bs, d1) =>
    if bit (at_ bs 0 8) 0 || bits (at_ bs 20 4) 6 26 != 0 || (bs.drop 40).take 24 != List.replicate 24 0#8 then .error (.refuse 0x07 a)
    else
      .ok ({ addr := a, desc := at_ bs 0 8, tag := at_ bs 12 4, cnt := at_ bs 8 4, indeg := at_ bs 16 2, nsucc := at_ bs 18 2,
             queue := bits (at_ bs 20 4) 0 6, succ := at_ bs 24 8, argp := at_ bs 32 8 }, d1)

/-- enqueue(i): the node's launch record goes to its queue; a full queue makes it wait (R321). -/
def enqueueNode (d : Dev) (p run i : Nat) (n : Node) (fi : Nat) : Except TdErr Dev :=
  let arg : Except TdErr (List Byte × Dev) := if n.argp = 0 then .ok (List.replicate 40 0#8, d) else tdRead d p n.argp 40 n.addr fi
  match arg with
  | .error e => .error e
  | .ok (bs, d1) =>
    let rs := queueOf d1 p n.queue
    let mark := fun (d : Dev) (f : GraphRun → GraphRun) => modPart d p (fun x => { x with runs := tmod x.runs run f })
    if rs.length < 256 then
      let r : LaunchRec := { desc := BitVec.ofNat 64 n.desc, compl := 0, cval := 0, arg := bs, node := some (run, i), st := .unread }
      .ok (mark (putQueue d1 p n.queue (rs ++ [r])) (fun r => { r with started := r.started ++ [i], waiting := r.waiting.filter (fun j => j != i) }))
    else .ok (mark d1 (fun r => { r with waiting := if r.waiting.contains i then r.waiting else r.waiting ++ [i] }))

/-- A run that the graph engine takes no further. -/
def killRun (d : Dev) (p run : Nat) : Dev := modPart d p (fun x => { x with runs := tmod x.runs run (fun r => { r with dead := true }) })

/-- A failed check of the graph engine: a translation fault makes the run wait, and any other ends its progress (17 R462). -/
def runFails (d : Dev) (p run : Nat) (e : TdErr) : Dev :=
  tdFail (if tdWaits e then d else killRun d p run) p (servingOct d p) (.graph p run) e

/-- The nodes of indegree 0 read, and enqueued: the device reached and the error that stopped it. -/
def startNodes (p run nodes fi : Nat) : List Nat → Dev → Dev × Option TdErr
  | [], d => (d, none)
  | i :: t, d =>
    match readNode d p nodes i fi with
    | .error e => (d, some e)
    | .ok (n, d1) =>
      if n.indeg ≠ 0 then startNodes p run nodes fi t d1
      else
        match enqueueNode d1 p run i n fi with
        | .error e => (d1, some e)
        | .ok d2 => startNodes p run nodes fi t d2

/-- A replay of a graph (R328): the generation is written and the nodes of indegree 0 are enqueued. A check that a node fails ends
the run's progress with the generation written. -/
def replay (d : Dev) (p hdr : Nat) (r : LaunchRec) (fi : Nat) : Dev × Option TdErr :=
  match tdRead d p hdr 64 hdr fi with
  | .error e => (d, some e)
  | .ok (bs, d1) =>
    let nodes := at_ bs 0 8
    let nn := at_ bs 8 4
    if nodes % 64 ≠ 0 ∨ nn = 0 ∨ 65536 < nn ∨ at_ bs 12 4 ≠ 0 ∨ at_ bs 20 4 ≠ 0 ∨ (bs.drop 24).take 40 ≠ List.replicate 40 0#8 then
      (d1, some (.refuse 0x07 hdr))
    else
      let gen := (at_ bs 16 4 + 1) % 2 ^ 32
      match tdWrite d1 p (hdr + 16) (leBytes gen 8) hdr fi with
      | .error e => (d1, some e)
      | .ok d2 =>
        let g : GraphRun := { hdr := hdr, nodes := nodes, nnode := nn, gen := gen, left := nn, compl := r.compl, cval := r.cval, started := [], stall := none,
                              retired := [], waiting := [], dead := false }
        let run := d2.fresh
        match startNodes p run nodes fi (List.range nn) (modPart { d2 with fresh := run + 1 } p (fun x => { x with runs := tput x.runs run g })) with
        | (d3, none) => (d3, none)
        | (d3, some e) => (killRun d3 p run, some e)

/-- A generation of a graph is in progress. -/
def graphBusy (d : Dev) (p hdr : Nat) : Bool := ((tget d.parts p).map (fun x => x.runs.any (fun r => r.2.hdr == hdr))).getD false

/-- A replay record that may be taken: the previous generation of its graph is complete, and it waits on no page. -/
def replayReady (d : Dev) (p q : Nat) (r : LaunchRec) : Bool :=
  match r.st with
  | .replay hdr => !graphBusy d p hdr && !waiting d (.head p q)
  | _ => false

/-- A replay record taken from the head of queue q (R323): none where a link that it needs is retrained.
DESIGN CHOICE for the pointer and the credit: log 81. -/
def tryReplay (d : Dev) (p q hdr : Nat) (r : LaunchRec) (fi : Nat) : Option Dev :=
  match replay (putQueue d p q ((queueOf d p q).drop 1)) p hdr r fi with
  | (d1, none) => some d1
  | (_, some .busy) => none
  | (d1, some e) => some (tdFail (if tdWaits e then d else d1) p (servingOct d p) (.head p q) e)

/-- The successors of a node counted down (R328): the device reached and the error that stopped it. -/
def retireSuccs (p run : Nat) (g : GraphRun) (from_ fi : Nat) : List Nat → Dev → Dev × Option TdErr
  | [], d => (d, none)
  | x :: t, d =>
    if g.nnode ≤ x then (d, some (.refuse 0x08 from_))
    else
      match readNode d p g.nodes x fi with
      | .error e => (d, some e)
      | .ok (n, d1) =>
        let c := if n.tag = g.gen then n.cnt else n.indeg
        if c = 0 then (d1, some (.refuse 0x09 n.addr))
        else
          match tdWrite d1 p (n.addr + 8) (leBytes (c - 1 + g.gen * 2 ^ 32) 8) n.addr fi with
          | .error e => (d1, some e)
          | .ok d2 =>
            if c = 1 then
              (match enqueueNode d2 p run x n fi with
               | .error e => (d2, some e)
               | .ok d3 => retireSuccs p run g from_ fi t d3)
            else retireSuccs p run g from_ fi t d2

/-- The successors of node i: its list of indices. -/
def readSuccs (d : Dev) (p : Nat) (n : Node) (fi : Nat) : Except TdErr (List Nat × Dev) :=
  match tdRead d p n.succ (4 * n.nsucc) n.addr fi with
  | .error e => .error e
  | .ok (bs, d1) => .ok ((List.range n.nsucc).map (fun i => at_ bs (4 * i) 4), d1)

/-- The end of a generation: the system-scope release, once all that the adapter has accepted can reach the host (03 R97), then CVAL to
COMPL; the run leaves. -/
def endRun (d : Dev) (p run : Nat) (g : GraphRun) (fi : Nat) : Dev :=
  let drop := fun (d : Dev) => modPart d p (fun x => { x with runs := tdel x.runs run })
  if !releaseOpen d then d
  else if g.compl = 0 then drop (landHost d)
  else
    match tdWrite (landHost d) p g.compl (leBytes g.cval.toNat 8) g.compl fi with
    | .ok d1 => drop d1
    | .error e => runFails d p run e

/-- One retirement applied (R328). A translation fault leaves it to be applied again once the page is mapped. -/
def retireNode (d : Dev) (p run : Nat) (g : GraphRun) (i fi : Nat) : Dev :=
  let done := fun (d : Dev) => modPart d p (fun x => { x with runs := tmod x.runs run (fun r => { r with left := r.left - 1, retired := r.retired.drop 1 }) })
  match readNode d p g.nodes i fi with
  | .error e => runFails d p run e
  | .ok (n, d1) =>
    match readSuccs d1 p n fi with
    | .error e => runFails d p run e
    | .ok (ss, d2) =>
      match retireSuccs p run g n.addr fi ss d2 with
      | (d3, none) => if g.left = 1 then endRun (done d3) p run { g with left := 0 } fi else done d3
      | (d3, some e) => runFails (if tdWaits e then d else done d3) p run e

/-- GRAPH_NODE_RETIRE: retirements of a graph are applied one at a time, in the order the graph engine sees them. -/
def execGraphNodeRetire (p run : Nat) (s : State) : Out :=
  let d := s.dev
  match (tget d.parts p).bind (fun x => tget x.runs run) with
  | none => withDev s d
  | some g =>
    if halted d p || g.dead || waiting d (.graph p run) then withDev s d
    else
      match g.retired with
      | [] => if g.left = 0 then withDev s (endRun d p run g s.tick) else withDev s d
      | i :: _ => withDev s (retireNode d p run g i s.tick)

/-- Nodes that waited on a full queue enqueued as room comes (R321). -/
def enqueueWaiting (d : Dev) (p fi : Nat) : Dev :=
  let xs := (((tget d.parts p).map (fun x => x.runs)).getD []).filter (fun r => !r.2.dead && !waiting d (.graph p r.1))
  xs.foldl (fun d r => r.2.waiting.foldl (fun d i =>
    match readNode d p r.2.nodes i fi with
    | .error e => runFails d p r.1 e
    | .ok (n, d1) => if (queueOf d1 p n.queue).length < 256 then (match enqueueNode d1 p r.1 i n fi with
        | .ok d2 => d2
        | .error e => runFails d p r.1 e) else d) d) d

/-- The run is stalled (17 R464): some node is not enqueued, and no grid of the graph is queued or running. -/
def runStalled (d : Dev) (p run : Nat) (g : GraphRun) : Bool :=
  let ours := fun (n : Option (Nat × Nat)) => (n.map (fun x => x.1 == run)).getD false
  !g.dead && decide (g.started.length < g.nnode) && g.retired.isEmpty &&
  !((tget d.parts p).map (fun x => x.queues.any (fun q => q.2.any (fun r => ours r.node)))).getD false &&
  !d.grids.any (fun x => ours x.2.node) && !d.draws.any (fun x => ours x.2.node)

/-- GRAPH_STALL (17 R464): a stall that lasts WDP cycles raises code 0x0A. -/
def execGraphStall (p run : Nat) (s : State) : Out :=
  let d := s.dev
  let wdp := regBits d offWdcfg 0 32
  match (tget d.parts p).bind (fun x => tget x.runs run) with
  | none => withDev s d
  | some g =>
    match g.stall with
    | none => withDev s d
    | some t =>
      if wdp ≠ 0 ∧ t + wdp ≤ d.cyc ∧ runStalled d p run g ∧ !halted d p then
        withDev s (modPart (tdRefuse d p 0x0A g.hdr) p (fun x => { x with runs := tmod x.runs run (fun r => { r with stall := some d.cyc }) }))
      else withDev s d

end Sys2Proof.Machine
end

