-- ==== Sys2Proof/Machine/Preempt.lean ====
section
/-! DEFINITION. Eviction and return of groups, swapping and return of teams, and the save area they use (15 R444 to R450). -/

namespace Sys2Proof.Machine

/-! ## The save area (R444) -/

/-- The save area lies in device memory of the partition's octants. -/
def saveOk (d : Dev) (p : Nat) : Bool :=
  let base := regBits d (offCtxbase p) 24 28 * 2 ^ 24
  let n := 24 * (octsOf d p).length
  (List.range n).all (fun i => isDram (base + i * 2 ^ 24) && inPart d p (base + i * 2 ^ 24) && inPart d p (base + i * 2 ^ 24 + (2 ^ 24 - 1)))

/-- Pre-emption is allowed. -/
def preemptOn (d : Dev) (p : Nat) : Bool := regBits d (offCtxbase p) 0 1 == 1

/-! ## The group image (R447) -/

/-- The lane PCs of a list from lane lo, 32 of them, with 0 beyond its end. -/
def pcBytes (xs : List Word) (lo n : Nat) : List Byte := (List.range n).flatMap (fun i => leBytes (xs.getD (lo + i) 0#32).toNat 4)

/-- The image of a group. -/
def groupImage (g : Group) : List Byte :=
  let saved := (g.handler.map (fun h => h.saved)).getD []
  let hand := match g.handler with
    | some h => 1 + h.depth * 2
    | none => 0
  leBytes (2 + g.width * 2 ^ 8 + g.pool * 2 ^ 16) 8 ++ leBytes (g.wb % 2 ^ 16 + g.depth * 2 ^ 16 + g.wl % 2 ^ 16 * 2 ^ 32) 8 ++
    leBytes (bits g.fps.toNat 0 5 + bits g.fpe.toNat 0 5 * 2 ^ 8) 8 ++ leBytes g.tvec.toNat 8 ++ leBytes g.tframe.toNat 8 ++
    leBytes g.tmcmp.toNat 8 ++ leBytes g.gcyc.toNat 8 ++ leBytes g.rndkey.toNat 8 ++ leBytes g.held.toNat 8 ++ leBytes hand 8 ++
    leBytes g.tcause.toNat 8 ++ leBytes g.tmask.toNat 8 ++ leBytes g.tslot.toNat 8 ++ leBytes 0 24 ++
    (List.range 16).flatMap (fun n => leBytes (readS g n).toNat 8) ++
    (List.range 7).flatMap (fun n => leBytes (readK g (n + 1)).toNat 8) ++ leBytes 0 8 ++
    (List.range 4).flatMap (fun i => match g.links[i]? with
      | some r => linkBytes r
      | none => leBytes 0 16) ++
    pcBytes saved 0 32 ++ pcBytes g.lpc 0 64 ++ pcBytes saved 32 32 ++ leBytes 0 128 ++
    (List.range g.pool).flatMap (fun j => (List.range g.width).flatMap (fun l => leBytes (tgetD g.v (j * 64 + l) 0#32).toNat 4))

/-- A group with everything its image holds: reserved bits of its registers read as 0 (00 R9). -/
def loadImage (g : Group) (bs : List Byte) : Group :=
  let x := fun o => BitVec.ofNat 64 (at_ bs o 8)
  let w := fun o => BitVec.ofNat 32 (at_ bs o 4)
  let depth := bits (at_ bs 8 8) 16 9
  let saved := (List.range g.width).map (fun l => if l < 32 then w (384 + 4 * l) else w (768 + 4 * (l - 32)))
  { g with
    wb := bits (at_ bs 8 8) 0 16
    depth := depth
    wl := bits (at_ bs 8 8) 32 16
    fps := BitVec.ofNat 64 (bits (at_ bs 16 8) 0 5)
    fpe := BitVec.ofNat 64 (bits (at_ bs 16 8) 8 5)
    tvec := BitVec.ofNat 64 (bits (at_ bs 24 8) 0 33)
    tframe := BitVec.ofNat 64 (bits (at_ bs 32 8) 6 50 * 2 ^ 6)
    tmcmp := x 40
    gcyc := x 48
    rndkey := x 56
    held := x 64
    handler := if bit (at_ bs 72 8) 0 then some { saved := saved, depth := bits (at_ bs 72 8) 1 9 } else none
    tcause := BitVec.ofNat 64 (bits (at_ bs 80 8) 16 16 * 2 ^ 16 + bits (at_ bs 80 8) 0 8)
    tmask := x 88
    tslot := BitVec.ofNat 64 (bits (at_ bs 96 8) 0 8)
    s := (List.range 16).foldl (fun t n => tputD t n (x (128 + 8 * n)) 0#64) []
    k := (List.range 7).foldl (fun t n => tputD t (n + 1) (x (256 + 8 * n)) 0#64) []
    links := (List.range (if depth < 4 then depth else 4)).map (fun i => linkOf ((bs.drop (320 + 16 * i)).take 16))
    lpc := (List.range g.width).map (fun l => w (512 + 4 * l))
    v := (List.range g.pool).foldl (fun t j => (List.range g.width).foldl (fun t l =>
      tputD t (j * 64 + l) (w (1024 + 4 * g.width * j + 4 * l)) 0#32) t) [] }

/-- Bytes of a group image. -/
def imageBytes (g : Group) : Nat := 1024 + 4 * g.width * g.pool

/-! ## Eviction and return of a group (R446, R450) -/

/-- A load or engine result that writes a register of the group has not landed (R446): a wait for a ring's slot is none, and ends in the
image (R449). -/
def resultPending (d : Dev) (gid : Nat) : Bool :=
  anyOp d gid (fun o => !o.gather && (match o.word with
    | .rpop _ _ _ => false
    | .racq _ _ _ => false
    | w => writesReg w))

/-- The group is chosen, its boundary work is done, and every result that writes its registers has landed (R446). A group whose
fetch waits on a page is at a boundary, and may leave. -/
def evictReady (d : Dev) (gid : Nat) (g : Group) : Bool :=
  let p := teamPart d g.tid
  g.place == .evicting && boundDone g && !implicitDue g &&
  !resultPending d gid && !anyOp d gid (fun o => o.gather) && coreRuns d p g.core

/-- The place in the order of leaving. -/
def leaves (d : Dev) (p id : Nat) : Dev := modPart d p (fun q => { q with left := q.left ++ [id] })

/-- GROUP_EVICT (R446): the image is written, the pool and slot are freed, and the counts go to the eviction table. -/
def execGroupEvict (gid : Nat) (s : State) : Out :=
  let d := s.dev
  match tget d.groups gid with
  | none => withDev s d
  | some g =>
    if !evictReady d gid g then withDev s d
    else
      let p := teamPart d g.tid
      if !saveOk d p then withDev s (groupFatal d gid 0x23 0 0 g.bound.pcx)
      else
        let d := devWrite (netRun d p (coreLeaf g.core) (imageAt d p g) (imageBytes g) true) (imageAt d p g) (groupImage g)
        let d := modCore d g.core (fun c => { c with evict := tput c.evict gid g.cnt })
        withDev s (leaves (modGroup d gid (fun g => { g with place := .evicted })) p gid)

/-- A saved image read at its home slices over the network (03 R86, 11 R357). -/
def imageRead (d : Dev) (p core pa n : Nat) : Dev := llcRead (netRun d p (coreLeaf core) pa n false) pa n

/-- A group or team is the first of those that have left its core (R450). -/
def firstLeft (d : Dev) (p id core : Nat) : Bool :=
  match tget d.parts p with
  | some q => q.left.find? (fun i => leftCore d i == some core) == some id
  | none => false

/-- It has returned. -/
def returned (d : Dev) (p id : Nat) : Dev := modPart d p (fun q => { q with left := q.left.filter (fun i => i != id) })

/-- GROUP_RETURN (R450): the image is loaded whole, into the slot the group left, and the counts are restored. -/
def execGroupReturn (gid : Nat) (s : State) : Out :=
  let d := s.dev
  match tget d.groups gid with
  | none => withDev s d
  | some g =>
    let p := teamPart d g.tid
    if g.place == .evicted && firstLeft d p gid g.core && slotFree d g && !(residents d g.core).any (fun x => x.rslot == g.rslot) &&
        coreRuns d p g.core && !badRun d (imageAt d p g) (imageBytes g) then
      let d := imageRead d p g.core (imageAt d p g) (imageBytes g)
      let g1 := loadImage g (readBytes d.mem (imageAt d p g) (imageBytes g))
      let cnt := tgetD (tgetD d.cores g.core default).evict gid g.cnt
      let d := { d with groups := tput d.groups gid { g1 with place := .resident, cnt := cnt, bound := { g.bound with empty := false } } }
      let d := if g.bound.empty then dcEmpty d g.core else d
      withDev s (returned (modCore d g.core (fun c => { c with evict := tdel c.evict gid })) p gid)
    else withDev s d

/-! ## Swapping and return of a team (R448, R450) -/

/-- The address of a team's image. -/
def teamImageAt (d : Dev) (t : Team) : Nat := saveRegion d t.part t.core + 0x220000 + 0x181000 * t.slot

/-- A feeder's or notice's fill, or a drain, of the team is in flight. -/
def unitBusy (t : Team) : Bool :=
  t.rings.any (fun r => (r.2.cfg.prod != 1 && r.2.slots.any (fun x => x.st == .reserved)) || (r.2.cfg.cons == 1 && r.2.slots.any (fun x => x.st == .popped)))

/-- Every group of the team is parked, with no engine command, fill or drain in flight (02 R55). -/
def teamQuiet (d : Dev) (tid : Nat) (t : Team) : Bool :=
  t.gids.all (fun i => match tget d.groups i with
    | some g => g.place == .parked
    | none => true) &&
  !d.ops.any (fun o => o.2.tid == tid && isEngine o.2.word) && !unitBusy t

/-- The team parks in one phase, and has a group (R448, R449). -/
def phaseParked (d : Dev) (t : Team) : Bool := !(teamGroups d t).isEmpty && phaseWhole d t

/-- The header of a team image. -/
def teamHead (d : Dev) (t : Team) : List Byte :=
  let k := taskOf d t
  let id := t.slot * 2 ^ 56 + t.core * 2 ^ 48 + t.tidx
  leBytes (3 + k.spq * 2 ^ 8 + k.amq * 2 ^ 16) 8 ++ leBytes id 8

/-- The device memory with a team's image written. -/
def writeTeam (d : Dev) (t : Team) : Dev :=
  let a := teamImageAt d t
  let k := taskOf d t
  let m := writeBytes (zeroRange d.mem a (a + 0x1000)) a (teamHead d t)
  let m := putCells m (a + 0x1000) (allotSpad k) t.spad
  let m := putCells m (a + 0x81000) (allotAm k) t.am
  [(a, 0x1000), (a + 0x1000, allotSpad k), (a + 0x81000, allotAm k)].foldl (fun d x =>
    wrote (netRun d t.part (coreLeaf t.core) x.1 x.2 true) x.1 x.2) { d with mem := m }

/-- TEAM_SWAP (R448): a marked team whose groups have all parked in its next phase and that is quiet is written out, and its
allotments are freed. -/
def execTeamSwap (tid : Nat) (s : State) : Out :=
  let d := s.dev
  match tget d.teams tid with
  | none => withDev s d
  | some t =>
    if t.st == .marked && teamQuiet d tid t && phaseParked d t && coreRuns d t.part t.core then
      if !saveOk d t.part then
        withDev s (modTeam (raiseHalt d t.part (unitCore t.core) 1 (fdet 0 0x23 0 0 0)) tid (fun t => { t with st := .live }))
      else withDev s (leaves (modTeam (writeTeam d t) tid (fun t => { t with st := .swapped, spad := [], am := [] })) t.part tid)
    else withDev s d

/-- The room of a swapped team is free on its core. -/
def teamRoom (d : Dev) (t : Team) : Bool :=
  let k := taskOf d t
  let need : Need := { teams := 0, groups := 0, regs := 0, spad := allotSpad k, am := allotAm k }
  if t.reserve then needFits coreReserve (inUse d t.core id) need else needFits coreWhole (inUse d t.core (fun r => !r)) need

/-- TEAM_RETURN (R450): the image is loaded in the team's own slot before any of its groups is re-created. -/
def execTeamReturn (tid : Nat) (s : State) : Out :=
  let d := s.dev
  match tget d.teams tid with
  | none => withDev s d
  | some t =>
    let a := teamImageAt d t
    let k := taskOf d t
    let runs := [(a, 0x1000), (a + 0x1000, allotSpad k), (a + 0x81000, allotAm k)]
    if t.st == .swapped && firstLeft d t.part tid t.core && teamRoom d t && coreRuns d t.part t.core && !runs.any (fun x => badRun d x.1 x.2) then
      let d := runs.foldl (fun d x => imageRead d t.part t.core x.1 x.2) d
      let spad := cellsIn d.mem (a + 0x1000) (allotSpad k)
      let am := cellsIn d.mem (a + 0x81000) (allotAm k)
      withDev s (returned (modTeam d tid (fun t => { t with st := .live, spad := spad, am := am })) t.part tid)
    else withDev s d

end Sys2Proof.Machine
end

