-- ==== Sys2Proof/Machine/Dispatcher.lean ====
section
/-! DEFINITION. The serving dispatcher's selection: the energy class, the heads, the extent walk, placement, migration and
pre-emption (09 R314, R323 to R325, R334; 02 R55, R56; 15 R445). -/

namespace Sys2Proof.Machine

/-! ## The launch budget (R333, R334) -/

/-- C_p: the capacity of a partition's bucket. -/
def bucketCap (d : Dev) (p : Nat) : Nat := regBits d offPwrbud 32 24 * (octsOf d p).length / 8

/-- The allowed energy class (R334), which an over-current holds at 1 (17 R477). -/
def energyClass (d : Dev) (p : Nat) : Nat :=
  let t := ((tget d.parts p).map (fun q => q.bucket)).getD 0
  let c := bucketCap d p
  let temp := d.pow.diet.toNat
  let a := if c ≤ 2 * t ∧ temp + 10 < tlim d then 3
    else if c ≤ 4 * t ∧ temp + 5 < tlim d then 2
    else if temp < tlim d then 1
    else 0
  if bit (regGet d offPwrst).toNat 0 ∧ 1 < a then 1 else a

/-! ## Heads (R323) -/

/-- PRIO and ECLS of a head that takes part in a selection; a replay takes no part, nor does a head that is still being read. -/
def headClass (d : Dev) (r : LaunchRec) : Option (Nat × Nat) :=
  match r.st with
  | .task g => (tget d.grids g).map (fun g => (g.task.prio, g.task.ecls))
  | .draw w => some (w.prio, w.ecls)
  | _ => none

/-- The heads of the queues that are served, with their queue, in the order of a turn that starts at ptr. -/
def heads (d : Dev) (p : Nat) : List (Nat × LaunchRec) :=
  let ptr := ((tget d.parts p).map (fun q => q.ptr)).getD 0
  ((List.range 64).map (fun i => (ptr + i) % 64)).filterMap (fun q =>
    if queueOn d p q then (queueOf d p q).head?.map (fun r => (q, r)) else none)

/-- L: the highest PRIO among the heads. -/
def topPrio (d : Dev) (hs : List (Nat × LaunchRec)) : Nat :=
  hs.foldl (fun m h => match headClass d h.2 with
    | some (x, _) => if m < x then x else m
    | none => m) 0

/-- The heads that a selection may place, in order. -/
def eligible (d : Dev) (p : Nat) : List (Nat × LaunchRec) :=
  let hs := heads d p
  let l := topPrio d hs
  let a := energyClass d p
  hs.filter (fun h => match headClass d h.2 with
    | some (x, e) => x == l && decide (e ≤ a)
    | none => false)

/-- The heads whose turn a selection gives them, in order: those it may place, and a replay that may be taken, whatever L and A are. -/
def turns (d : Dev) (p : Nat) : List (Nat × LaunchRec) :=
  let es := (eligible d p).map (fun h => h.1)
  (heads d p).filter (fun h => es.contains h.1 || replayReady d p h.1 h.2)

/-! ## Placement (R323, R325) -/

/-- The first rectangle that fits the next cluster of a task. -/
def findRect (d : Dev) (p : Nat) (k : Task) : Option (List Nat) :=
  ((octOrder d p).flatMap (rectangles k)).find? (fun cs => cs.all (fun c => coreFits d c (teamNeed k k.gpt) && !returnsFirst d p c k.prio))

/-- ptr moves past queue q and credit is loaded again (R323). -/
def nextTurnOf (d : Dev) (p q : Nat) : Dev :=
  let n := (q + 1) % 64
  modPart d p (fun x => { x with ptr := n, credit := queueTurn d p n })

/-- A placement counted: at the end of the credit or of the head's clusters the turn passes. -/
def spendCredit (d : Dev) (p q : Nat) (last : Bool) : Dev :=
  let d := modPart d p (fun x => { x with credit := x.credit - 1 })
  if last || ((tget d.parts p).map (fun x => x.credit)).getD 0 == 0 then nextTurnOf d p q else d

/-- The launch at the head of a queue leaves it. -/
def popHead (d : Dev) (p q : Nat) : Dev := putQueue d p q ((queueOf d p q).drop 1)

/-- The grid with the walk of an octant's extent table finished, or kept as far as it came. -/
def putWalk (g : Grid) (w : ExtWalk) (done : Bool) : Grid :=
  let ws := g.walks.filter (fun x => x.oct != w.oct)
  if done then { g with exts := tput g.exts w.oct (walkTable w), walks := ws } else { g with walks := w :: ws }

/-- The tables of octants built for a grid: the device, and the octants whose walk stopped with what stopped it. -/
def buildTables (p gid fi : Nat) (g : Grid) : List Nat → Dev → Dev × List (Nat × TdErr)
  | [], d => (d, [])
  | o :: t, d =>
    let r := taskWalk p o fi g.task (g.walks.find? (fun w => w.oct == o)) d
    let x := buildTables p gid fi g t { r.2.1 with grids := tmod r.2.1.grids gid (fun g => putWalk g r.1 r.2.2.isNone) }
    (x.1, (r.2.2.map (fun e => (o, e))).toList ++ x.2)

/-- The octants whose extent table a grid has not got: all are walked before its first team is created, each by its own TD (R314, 17
R462; log 71). -/
def tablesLeft (d : Dev) (p : Nat) (g : Grid) : List Nat := (octsOf d p).filter (fun o => (tget g.exts o).isNone)

/-- The next cluster of a grid placed on a rectangle. -/
def placeNext (d : Dev) (p q gid : Nat) (g : Grid) (cs : List Nat) (fi : Nat) : Dev :=
  let d1 := placeCluster d p gid g.nextCl cs fi
  let last := g.nextCl + 1 == g.task.grid
  let d2 := { d1 with grids := tmod d1.grids gid (fun g => { g with nextCl := g.nextCl + 1 }) }
  spendCredit (if last then popHead d2 p q else d2) p q last

/-- The launch at the head of a queue refused, before any team of it is created. -/
def refuseTask (d : Dev) (p q gid oct : Nat) (e : TdErr) : Dev :=
  let d1 := popHead (tdFail d p oct (.grid gid (oct + 1)) e) p q
  { d1 with grids := tdel d1.grids gid }

/-- What the walks of a grid's extents that stopped lead to: a refusal, or reports; none where they only wait for a link. -/
def stopTask (d : Dev) (p q gid : Nat) (es : List (Nat × TdErr)) : Option Dev :=
  match es.find? (fun x => !tdWaits x.2) with
  | some (oct, e) => some (refuseTask d p q gid oct e)
  | none => if es.all (fun x => x.2 == .busy) then none else some (es.foldl (fun d x => tdFail d p x.1 (.grid gid (x.1 + 1)) x.2) d)

/-- A cluster of the grid at the head of queue q placed; none where it does not fit, or its extents wait on a page (15 R441). -/
def tryTask (d : Dev) (p q gid fi : Nat) : Option Dev :=
  match tget d.grids gid with
  | none => none
  | some g =>
    match findRect d p g.task with
    | none => none
    | some cs =>
      if (octsOf d p).any (fun o => waiting d (.grid gid (o + 1))) then none
      else
        match buildTables p gid fi g (tablesLeft d p g) d with
        | (d1, []) => some (placeNext d1 p q gid g cs fi)
        | (d1, es) => stopTask d1 p q gid es

/-- A CLE of the partition is at work for a draw, or will be: some tile of its set is still to be classified (10 R338). -/
def cleBusy (d : Dev) (w : Draw) : Bool :=
  !w.took || w.keys.any (fun k => ((tget d.tiles k).map (fun t => t.st == .closed)).getD false)

/-- Some draw of a partition with a given operation uses the unit in question. -/
def drawBusy (d : Dev) (p op oct : Nat) : Bool :=
  d.draws.any (fun w => w.2.part == p && w.2.d.op == op && (if op = 0 then w.2.oct == oct && !w.2.took else cleBusy d w.2))

/-- The slices of a partition are at work for an OPEN or a RELEASE (10 R338). -/
def slicesBusy (d : Dev) (p : Nat) : Bool := d.draws.any (fun w => w.2.part == p && (w.2.d.op == 1 || w.2.d.op == 3) && !w.2.took)

/-- The octant whose unit takes a draw (10 R338); none while the unit is not free. -/
def drawUnit (d : Dev) (p : Nat) (w : DrawDesc) : Option Nat :=
  if w.op = 0 then (octsOf d p).find? (fun o => !drawBusy d p 0 o)
  else if w.op = 2 then (if drawBusy d p 2 0 then none else some (servingOct d p))
  else if slicesBusy d p then none else some (servingOct d p)

/-- A draw as its unit takes it. -/
def newDraw (p oct : Nat) (w : DrawDesc) (r : LaunchRec) : Draw :=
  { part := p, d := w, oct := oct, compl := r.compl, cval := r.cval, node := r.node, li := 0, tri := 0, blocks := [], n := 0, tris := 0,
    dropped := 0, culled := 0, nblocks := 0, recs := 0, slots := [], open_ := [], rast := [], took := false, keys := [], set := [], late := 0, teams := [], ident := 0, slot := 0,
    setup := [], slotWait := false, full := false, dead := false }

/-- A draw record taken by the unit it needs; none while that unit is not free. -/
def tryDraw (d : Dev) (p q : Nat) (w : DrawDesc) (r : LaunchRec) : Option Dev :=
  (drawUnit d p w).map (fun oct =>
    spendCredit (popHead { d with draws := tput d.draws d.fresh (newDraw p oct w r), fresh := d.fresh + 1 } p q) p q true)

/-- One head tried. -/
def tryHead (d : Dev) (p fi : Nat) (h : Nat × LaunchRec) : Option Dev :=
  match h.2.st with
  | .task g => tryTask d p h.1 g fi
  | .draw w => tryDraw d p h.1 w h.2
  | .replay hdr => tryReplay d p h.1 hdr h.2 fi
  | .unread => none

/-! ## Migration (02 R55, R56) -/

/-- A cluster that may move: no team of it has ended, every group is parked, and nothing of its teams is in flight. -/
def movable (d : Dev) (c : Cluster) : Bool :=
  c.tids.all (fun i => match tget d.teams i with
    | some t => t.st == .live && !(teamGroups d t).isEmpty && teamQuiet d i t
    | none => false)

/-- A team moved to another core, in its lowest free team slot and its ordinary room; the grid's extent table is handed over. -/
def moveTeam (d : Dev) (tid core : Nat) : Dev :=
  match tget d.teams tid with
  | none => d
  | some t =>
    let xs := (tget (tgetD d.cores t.core default).exts t.grid).getD []
    let d := modCore d core (fun c => { c with exts := tput c.exts t.grid xs })
    let slot := freeTeamSlot d core
    let d := modTeam d tid (fun t => { t with core := core, slot := slot, reserve := false })
    let d := { d with groups := d.groups.map (fun g => if g.2.tid == tid then (g.1, { g.2 with core := core }) else g) }
    dropExts d t.grid t.core

/-- The rectangles of its octant to which a cluster could move. -/
def moveRects (d : Dev) (c : Cluster) : List (List Nat) :=
  match c.tids.filterMap (fun i => tget d.teams i) with
  | [] => []
  | t :: ts =>
    let k := taskOf d t
    (rectangles k c.oct).filter (fun cs => cs.all (fun x => !(t :: ts).any (fun u => u.core == x) && coreFits d x { teamNeed k 0 with groups := 0, regs := 0 }))

/-- A cluster moved (R56): every member keeps its place in the rectangle. -/
def moveCluster (d : Dev) (c : Cluster) (cs : List Nat) : Dev := (c.tids.zip cs).foldl (fun d x => moveTeam d x.1 x.2) d

/-- The moves of one cluster that leave a rectangle for a task that had none (R326). -/
def usefulMoves (d : Dev) (p : Nat) (k : Task) : List Dev :=
  (d.clusters.filter (fun c => c.2.part == p && movable d c.2)).flatMap (fun c =>
    ((moveRects d c.2).map (moveCluster d c.2)).filter (fun e => (findRect e p k).isSome))

/-- The tasks among the heads of a selection whose next cluster fits nowhere. -/
def unplaced (d : Dev) (p : Nat) : List Task :=
  (eligible d p).filterMap (fun h => match h.2.st with
    | .task g => (tget d.grids g).bind (fun g => if (findRect d p g.task).isNone then some g.task else none)
    | _ => none)

/-- A move the dispatcher may choose to make (log 2): a free choice among those that leave a rectangle for a head that has none. -/
def migrate (d : Dev) (p fi : Nat) : Option Dev :=
  let xs := (unplaced d p).flatMap (usefulMoves d p)
  if Config.freeBool (fi * 4 + 1) then xs[(Config.freeWord (fi * 4 + 1)).toNat % xs.length]? else none

/-! ## Pre-emption (15 R445) -/

/-- The place of a group's image still holds that of another group which left the same slot (log 70). -/
def imageTaken (d : Dev) (g : Group) : Bool :=
  d.groups.any (fun x => x.2.core == g.core && x.2.place == .evicted && x.2.rslot == g.rslot)

/-- A group that may be chosen for a team of a given PRIO. -/
def victim (d : Dev) (prio : Nat) (gid : Nat) (g : Group) : Bool :=
  g.place == .resident && !g.bound.dead && decide (((teamTask d g.tid).map (fun k => k.prio)).getD 0 < prio) &&
  g.galley.isNone && !(((teamTask d g.tid).map (fun k => k.mat)).getD false) && g.gather.isEmpty && !anyOp d gid (fun o => o.gather) && !xrndOpen d gid &&
  !imageTaken d g

/-- The groups of a core that may be chosen: lowest PRIO first, then youngest first. -/
def victims (d : Dev) (prio core : Nat) : List (Nat × Group) :=
  let xs := (d.groups.filter (fun x => x.2.core == core && victim d prio x.1 x.2)).reverse
  (List.range prio).flatMap (fun q => xs.filter (fun x => ((teamTask d x.2.tid).map (fun k => k.prio)).getD 0 == q))

/-- What is in use on a core once some groups have left it. -/
def lessGroups (use : Need) (gs : List (Nat × Group)) : Need :=
  { use with groups := use.groups - gs.length, regs := use.regs - gs.foldl (fun n g => n + g.2.pool * 4 * g.2.width) 0 }

/-- A core would fit a team once some groups have left it; teams and memory count only when asked. -/
def fitsWithout (d : Dev) (core : Nat) (need : Need) (gs : List (Nat × Group)) (mem : Bool) : Bool :=
  let use := lessGroups (inUse d core (fun r => !r)) gs
  !coreGone d core && needFits coreWhole (if mem then use else { use with spad := 0, am := 0 }) need

/-- The fewest of the groups, in order, whose leaving makes room. -/
def enoughVictims (d : Dev) (core : Nat) (need : Need) (gs : List (Nat × Group)) : List (Nat × Group) :=
  gs.take (((List.range (gs.length + 1)).find? (fun n => fitsWithout d core need (gs.take n) false)).getD gs.length)

/-- The teams of a core that may be marked for swapping: lowest PRIO first, then youngest first. -/
def swapVictims (d : Dev) (prio core : Nat) : List (Nat × Team) :=
  let xs := (d.teams.filter (fun x => x.2.core == core && x.2.st == .live && !(taskOf d x.2).mat)).reverse
  (List.range prio).flatMap (fun q => xs.filter (fun x => (taskOf d x.2).prio == q))

/-- The memory some teams hold. -/
def memoryOf (d : Dev) (ts : List (Nat × Team)) : Nat × Nat :=
  (ts.foldl (fun n t => n + allotSpad (taskOf d t.2)) 0, ts.foldl (fun n t => n + allotAm (taskOf d t.2)) 0)

/-- A core would fit a team once some teams of it are swapped out too, their team slots counted (R445; log 72). -/
def fitsSwapped (d : Dev) (core : Nat) (need : Need) (gs : List (Nat × Group)) (ts : List (Nat × Team)) : Bool :=
  let use := lessGroups (inUse d core (fun r => !r)) gs
  let m := memoryOf d ts
  !coreGone d core && needFits coreWhole { use with teams := use.teams - ts.length, spad := use.spad - m.1, am := use.am - m.2 } need

/-- The fewest teams, in order, whose swapping makes room. -/
def enoughTeams (d : Dev) (core : Nat) (need : Need) (gs : List (Nat × Group)) (ts : List (Nat × Team)) : List (Nat × Team) :=
  ts.take (((List.range (ts.length + 1)).find? (fun n => fitsSwapped d core need gs (ts.take n))).getD ts.length)

/-- Groups marked for eviction. -/
def markGroups (d : Dev) (gs : List (Nat × Group)) : Dev := gs.foldl (fun d g => modGroup d g.1 (fun g => { g with place := .evicting })) d
/-- Teams marked for swapping: where the barrier of a parked group has completed, that phase is not the next one (15 R449). -/
def markTeams (d : Dev) (ts : List (Nat × Team)) : Dev :=
  ts.foldl (fun d t => modTeam d t.1 (fun t => { t with st := if someOver d t then .late else .marked })) d

/-- PREEMPT_DECISION for a task that does not fit: the groups to evict of the first rectangle that would fit, or the teams to
swap where groups alone free too little. -/
def preemptFor (d : Dev) (p : Nat) (k : Task) : Dev :=
  let need := teamNeed k k.gpt
  let rects := (octOrder d p).flatMap (rectangles k)
  match rects.find? (fun cs => cs.all (fun c => fitsWithout d c need (victims d k.prio c) true)) with
  | some cs => cs.foldl (fun d c => markGroups d (enoughVictims d c need (victims d k.prio c))) d
  | none =>
    match rects.find? (fun cs => cs.all (fun c => fitsSwapped d c need (victims d k.prio c) (swapVictims d k.prio c))) with
    | some cs => cs.foldl (fun d c => markTeams d (enoughTeams d c need (victims d k.prio c) (swapVictims d k.prio c))) d
    | none => d

/-- A decision of the partition is still being carried out. -/
def preempting (d : Dev) (p : Nat) : Bool :=
  d.groups.any (fun g => g.2.place == .evicting && teamPart d g.2.tid == p) || d.teams.any (fun t => (t.2.st == .marked || t.2.st == .late) && t.2.part == p)

/-- The decision of a selection that has placed nothing (R445): for the chosen head with a cluster that does not fit. -/
def preempt (d : Dev) (p : Nat) : Dev :=
  if !preemptOn d p || preempting d p then d
  else
    match unplaced d p with
    | k :: _ => preemptFor d p k
    | [] => d

/-! ## TD_SELECT (R323) -/

/-- The selection among the queues. -/
def selectQueue (d : Dev) (p fi : Nat) : Dev :=
  match (turns d p).findSome? (tryHead d p fi) with
  | some d1 => d1
  | none =>
    match migrate d p fi with
    | some d1 => d1
    | none => preempt d p

/-- GRAPH_REPLAY (R323): the replay at the head of queue q is taken when the turn is its own: nothing before it can be placed. -/
def execGraphReplay (p q : Nat) (s : State) : Out :=
  let d := s.dev
  if halted d p || (firstLaunch d p s.tick).isSome then withDev s d
  else
    match (turns d p).find? (fun h => (tryHead d p s.tick h).isSome) with
    | some h => if h.1 = q ∧ replayReady d p q h.2 then withDev s ((tryHead d p s.tick h).getD d) else withDev s d
    | none => withDev s d

/-- TD_SELECT: grids that are done complete, nodes that waited on a full queue enter it, and, where no galley launch goes first
(R331, R335), the next cluster is placed. -/
def execTdSelect (p : Nat) (s : State) : Out :=
  let d := s.dev
  if !assigned d p || halted d p || !unitRuns d p (unitOct (servingOct d p) 0) then withDev s d
  else
    let d := enqueueWaiting (completeGrids d p s.tick) p s.tick
    if (firstLaunch d p s.tick).isSome then withDev s d else withDev s (selectQueue d p s.tick)

end Sys2Proof.Machine
end

