-- ==== Sys2Proof/Machine/Exact.lean ====
section
/-! DEFINITION. Exact rational arithmetic for the engines, and its one rounding (04 R116, R119; 08 R289, R299; 10 R340). -/

namespace Sys2Proof.Machine

/-- The exact rational of a finite value; 0 for any other, which its users exclude first. -/
def XVal.rat : XVal → Rat
  | .fin n d e => mkRat (n * pow2 e) (d * pow2 (-e))
  | _ => 0
/-- A rational as an exact value; 0 is +0. -/
def ratX (q : Rat) : XVal := mkFin q.num q.den 0 false
/-- rnd(q, FP32, RNE, 0) as a pattern. -/
def r32 (q : Rat) : Nat := (rnd (ratX q) .fp32 .rne 0).1
/-- The FP32 value of a pattern. -/
def f32 (x : Nat) : XVal := unpack .fp32 x
/-- The finite value of an FP32 pattern as a rational. -/
def q32 (x : Nat) : Rat := (f32 x).rat
/-- The pattern is a finite FP32 value. -/
def fin32 (x : Nat) : Bool := (f32 x).isFin
/-- The canonical FP32 NaN. -/
def nan32 : Nat := nanPat .fp32
/-- A pattern with a NaN made canonical. -/
def canon32 (x : Nat) : Nat := if (f32 x).isNan then nan32 else x
/-- The greatest and the least of two rationals. -/
def qmax (a b : Rat) : Rat := if a < b then b else a
def qmin (a b : Rat) : Rat := if b < a then b else a
/-- The absolute value. -/
def qabs (a : Rat) : Rat := if a < 0 then -a else a
/-- round_rne of 10 R340. -/
def rneInt (q : Rat) : Int :=
  let f := q.floor
  let r := q - (f : Rat)
  if r < (1 : Rat) / 2 then f else if (1 : Rat) / 2 < r then f + 1 else if f % 2 = 0 then f else f + 1
/-- An integer in two's complement of n bits. -/
def ofI (n : Nat) (x : Int) : Nat := (x % (2 ^ n : Nat)).toNat

/-- A vector of three exact values. -/
structure Vec3 where
  x : Rat
  y : Rat
  z : Rat
  deriving DecidableEq, Repr, Inhabited

def Vec3.sub (a b : Vec3) : Vec3 := ⟨a.x - b.x, a.y - b.y, a.z - b.z⟩
def Vec3.cross (a b : Vec3) : Vec3 := ⟨a.y * b.z - a.z * b.y, a.z * b.x - a.x * b.z, a.x * b.y - a.y * b.x⟩
def Vec3.dot (a b : Vec3) : Rat := a.x * b.x + a.y * b.y + a.z * b.z
/-- The components in order. -/
def Vec3.axes (a : Vec3) : List Rat := [a.x, a.y, a.z]

/-- An extended rational: what a box bound or a ray limit can be. -/
inductive ERat where
  | ninf
  | q (x : Rat)
  | pinf
  deriving DecidableEq, Repr, Inhabited

/-- The extended value of an FP32 pattern that is not a NaN. -/
def e32 (x : Nat) : ERat :=
  match f32 x with
  | .inf true => .ninf
  | .inf false => .pinf
  | y => .q y.rat
/-- a < b. -/
def ERat.lt : ERat → ERat → Bool
  | .ninf, .ninf => false
  | .ninf, _ => true
  | .q _, .ninf => false
  | .q a, .q b => decide (a < b)
  | .q _, .pinf => true
  | .pinf, _ => false
def ERat.le (a b : ERat) : Bool := !b.lt a
def ERat.max (a b : ERat) : ERat := if a.lt b then b else a
def ERat.min (a b : ERat) : ERat := if b.lt a then b else a
/-- (x - o) / d for a finite o and a finite d that is not 0. -/
def ERat.slab (x : ERat) (o d : Rat) : ERat :=
  match x with
  | .q v => .q ((v - o) / d)
  | .ninf => if 0 < d then .ninf else .pinf
  | .pinf => if 0 < d then .pinf else .ninf

/-- FP32 arithmetic on patterns, each result rounded once to nearest even. -/
def addF (a b : Nat) : Nat := (rnd (xAdd .rne (f32 a) (f32 b)).1 .fp32 .rne 0).1
def subF (a b : Nat) : Nat := (rnd (xAdd .rne (f32 a) (f32 b).neg).1 .fp32 .rne 0).1
def mulF (a b : Nat) : Nat := (rnd (xMul (f32 a) (f32 b)).1 .fp32 .rne 0).1
def divF (a b : Nat) : Nat := (rnd (xDiv (f32 a) (f32 b)).1 .fp32 .rne 0).1
/-- rnd(a + b × c). -/
def fmaF (a b c : Nat) : Nat := (rnd (xAdd .rne (f32 a) (xMul (f32 b) (f32 c)).1).1 .fp32 .rne 0).1
/-- a < b of two values; a NaN compares false. -/
def ltX (a b : XVal) : Bool := !a.isNan && !b.isNan && xLt a b
/-- a < b and a ≤ b of two FP32 patterns; a NaN compares false. -/
def ltF (a b : Nat) : Bool := ltX (f32 a) (f32 b)
def leF (a b : Nat) : Bool := !(f32 a).isNan && !(f32 b).isNan && !xLt (f32 b) (f32 a)

end Sys2Proof.Machine
end

