-- ==== Sys2Proof/Machine/Script.lean ====
section
/-! DEFINITION. What a lane of an engine command reads and writes, one 8-byte unit at a time, and how far its unit has come with it
(03 R99, R106; 08 R270, R307, R309; 15 R441). -/

namespace Sys2Proof.Machine

/-- What a unit does next for a lane: it has the result; it reads or writes bytes and goes on; a check fails with a reason; or a
bound on the steps between two accesses is spent. -/
inductive Script (α : Type) where
  | done (x : α)
  | read (va n : Nat) (go : List Byte → Script α)
  | write (va : Nat) (bs : List Byte) (go : Script α)
  | bad (reason : Nat)
  | more

/-- One script after another. -/
def Script.bind {α β : Type} : Script α → (α → Script β) → Script β
  | .done x, f => f x
  | .read va n go, f => .read va n (fun bs => (go bs).bind f)
  | .write va bs go, f => .write va bs (go.bind f)
  | .bad r, _ => .bad r
  | .more, _ => .more

/-- A run of n bytes read unit by unit; k bounds the number of units. -/
def readUnits : Nat → Nat → Nat → Script (List Byte)
  | 0, _, _ => .done []
  | k + 1, va, n =>
    if n = 0 then .done []
    else .read va (unitLen va n) (fun bs => (readUnits k (va + unitLen va n) (n - unitLen va n)).bind (fun r => .done (bs ++ r)))
/-- n bytes read. -/
def readRun (va n : Nat) : Script (List Byte) := readUnits (n / 8 + 2) va n

/-- A run of bytes written unit by unit. -/
def writeUnits : Nat → Nat → List Byte → Script Unit
  | 0, _, _ => .done ()
  | k + 1, va, bs =>
    let m := unitLen va bs.length
    if bs.isEmpty then .done () else .write va (bs.take m) (writeUnits k (va + m) (bs.drop m))
/-- Bytes written. -/
def writeRun (va : Nat) (bs : List Byte) : Script Unit := writeUnits (bs.length / 8 + 2) va bs

/-- The outcome of a script's run: its result, or none where its accesses are used up; or the access or check that failed; what it
has read since the log; the accesses left; and the device. -/
structure Ran (α : Type) where
  out : Except MemErr (Option α)
  log : List (List Byte)
  left : Nat
  dev : Dev

/-- A script run for a unit: over what it has read already, and then with at most b accesses of its own. -/
def runScript {α : Type} (p : Nat) (ag : Agent) (cm : CacheMode) (fi : Nat) : Script α → List (List Byte) → Nat → Dev → Ran α
  | .done x, _, b, d => { out := .ok (some x), log := [], left := b, dev := d }
  | .bad r, _, b, d => { out := .error (.prot r 0), log := [], left := b, dev := d }
  | .more, _, b, d => { out := .ok none, log := [], left := b, dev := d }
  | .read _ _ go, bs :: log, b, d => runScript p ag cm fi (go bs) log b d
  | .write _ _ go, _ :: log, b, d => runScript p ag cm fi go log b d
  | .read va n go, [], b, d =>
    (match b with
     | 0 => { out := .ok none, log := [], left := 0, dev := d }
     | k + 1 =>
       match unitRead d p ag va n fi with
       | .error e => { out := .error e, log := [], left := k, dev := d }
       | .ok (bs, d1) =>
         let r := runScript p ag cm fi (go bs) [] k d1
         { r with log := bs :: r.log })
  | .write va bs go, [], b, d =>
    (match b with
     | 0 => { out := .ok none, log := [], left := 0, dev := d }
     | k + 1 =>
       match unitWrite d p ag cm va bs fi with
       | (d1, _, some e) => { out := .error e, log := [], left := k, dev := d1 }
       | (d1, _, none) =>
         let r := runScript p ag cm fi go [] k d1
         { r with log := [] :: r.log })

/-- A number of accesses that no script reaches. -/
def allAccesses : Nat := 2 ^ 60

/-- A script of bounded length run at once. -/
def runWhole {α : Type} (d : Dev) (p : Nat) (ag : Agent) (s : Script α) (fi : Nat) : Except MemErr (α × Dev) :=
  let r := runScript p ag .leave fi s [] allAccesses d
  match r.out with
  | .ok (some x) => .ok (x, r.dev)
  | .ok none => .error (.prot 0x2A 0)
  | .error e => .error e

end Sys2Proof.Machine
end

