-- ==== Sys2Proof/Machine/Draws.lean ====
section
/-! DEFINITION. Draw records: the coarse rasteriser, the tile-lifetime protocol, the classify engines, and the retirement of draws
(10 R336 to R356, 17 R462, R466 and R468). -/

namespace Sys2Proof.Machine

/-- The device with a draw changed. -/
def modDraw (d : Dev) (id : Nat) (f : Draw → Draw) : Dev := { d with draws := tmod d.draws id f }
/-- The device with a directory entry changed. -/
def modTile (d : Dev) (key : Nat) (f : Tile → Tile) : Dev := { d with tiles := tmod d.tiles key f }

/-- A fault of the rasteriser or of a CLE: a report, or a context-fatal fault with its reason and address (17 R468). -/
def pipeErr (d : Dev) (p unit : Nat) (who : Waiter) (stop : Dev → Dev) (e : MemErr) : Dev :=
  match e with
  | .xl va lvl en acc => addReport d p unit 9 va lvl en acc who
  | .prot reason va => stop (raiseHalt d p unit 1 (reasonWord reason va))
  | .link u => stop (raiseHalt d p u 0x0B 0)
  | .busy => d

/-! ## Coarse rasterisation (R340 to R345) -/

/-- The rasteriser a draw runs on. -/
def rasterUnit (w : Draw) : Nat := unitOct w.oct 3

/-- A fault of a draw's rasteriser. -/
def rasterErr (d : Dev) (id : Nat) (w : Draw) (e : MemErr) : Dev :=
  pipeErr d w.part (rasterUnit w) (.draw id) (fun d => modDraw d id (fun w => { w with dead := true })) e

/-- A screen vertex (R340). -/
structure ScreenVert where
  x : Int
  y : Int
  z : Nat
  deriving DecidableEq, Repr, Inhabited

/-- The screen position of a vertex from its clip coordinates; none where the triangle is dropped (R340). -/
def screenVert (vw vh : Nat) (bs : List Byte) : Option ScreenVert :=
  let c := (List.range 4).map (fun i => at_ bs (4 * i) 4)
  let q := fun i => q32 (c.getD i 0)
  if !c.all fin32 || decide (q 3 ≤ 0) then none
  else
    let x := rneInt ((q 0 / q 3 + 1) * (vw : Rat) / 2 * 256)
    let y := rneInt ((1 - q 1 / q 3) * (vh : Rat) / 2 * 256)
    let z := r32 (q 2 / q 3)
    let ok := fun (i : Int) => decide (-4194304 ≤ i) && decide (i < 4194304)
    if fin32 z && decide (0 ≤ q32 z) && decide (q32 z ≤ 1) && ok x && ok y then some { x := x, y := y, z := z } else none

/-- A cluster list entry (R337): instance, cluster and triangle count. -/
structure ListEntry where
  inst : Nat
  clus : Nat
  ntri : Nat
  deriving DecidableEq, Repr, Inhabited

def parseEntry (bs : List Byte) : ListEntry :=
  let x := at_ bs 0 8
  { inst := bits x 0 24, clus := bits x 24 28, ntri := bits x 52 8 + 1 }

/-- Where the vertices of a triangle lie (08 R298): the vertex base and stride, and the triangle word's address. -/
structure TriAt where
  vbase : Nat
  vs : Nat
  word : Nat
  ni : Nat
  deriving DecidableEq, Repr, Inhabited

/-- The tables of 08 R298 read for a triangle; none where INST or CLUS is out of range. attr checks NI as it reads the instance
entry. -/
def triTables (itab ninst inst clus tri : Nat) (attr : Bool) : Script (Option TriAt) :=
  if ninst ≤ inst then .done none
  else (readRun (itab + 32 * inst) 16).bind (fun ib =>
    if attr && decide (16 < bits (at_ ib 12 4) 16 5) then .bad 0x2A
    else if at_ ib 8 4 ≤ clus then .done none
    else (readRun (at_ ib 0 8 + 16 * clus) 16).bind (fun cb =>
      let ni := bits (at_ ib 12 4) 16 5
      .done (some { vbase := at_ cb 0 8, vs := 16 + 16 * ((ni + 3) / 4), word := at_ cb 8 8 + 4 * tri, ni := ni })))

/-- The bytes of a triangle's three vertices, n of each. -/
def triVerts (t : TriAt) (n : Nat) : Script (List (List Byte)) :=
  (readRun t.word 4).bind (fun tb =>
    let a := fun i => t.vbase + t.vs * at_ tb i 1
    (readRun (a 0) n).bind (fun b0 => (readRun (a 1) n).bind (fun b1 => (readRun (a 2) n).bind (fun b2 => .done [b0, b1, b2]))))

/-- A triangle on the screen: its vertices in order. -/
abbrev Tri := List ScreenVert

def vx (t : Tri) (i : Nat) : Int := (t.getD i default).x
def vy (t : Tri) (i : Nat) : Int := (t.getD i default).y
def vz (t : Tri) (i : Nat) : Rat := q32 (t.getD i default).z

/-- A2 of R340. -/
def triArea (t : Tri) : Int := (vx t 1 - vx t 0) * (vy t 2 - vy t 0) - (vx t 2 - vx t 0) * (vy t 1 - vy t 0)

/-- Edge i of R342: a_i, b_i and c_i. -/
def triEdge (t : Tri) (i : Nat) : Int × Int × Int :=
  let sg : Int := if 0 < triArea t then 1 else -1
  let j := (i + 1) % 3
  let h := (i + 2) % 3
  let a := sg * (vy t j - vy t h)
  let b := sg * (vx t h - vx t j)
  let c := -a * vx t j - b * vy t j
  (256 * a, 256 * b, 128 * (a + b) + c - (if 0 < a ∨ (a = 0 ∧ 0 < b) then 0 else 1))

/-- The depth plane of R341: ZDX, ZDY and Z0 as FP32 patterns. -/
def triPlane (t : Tri) : Nat × Nat × Nat :=
  let x := fun i => (vx t i : Rat) / 256
  let y := fun i => (vy t i : Rat) / 256
  let det := (x 1 - x 0) * (y 2 - y 0) - (x 2 - x 0) * (y 1 - y 0)
  let zdx := ((vz t 1 - vz t 0) * (y 2 - y 0) - (vz t 2 - vz t 0) * (y 1 - y 0)) / det
  let zdy := ((x 1 - x 0) * (vz t 2 - vz t 0) - (x 2 - x 0) * (vz t 1 - vz t 0)) / det
  (r32 zdx, r32 zdy, r32 (vz t 0 + zdx * (1 / 2 - x 0) + zdy * (1 / 2 - y 0)))

/-- The set-up record of R341. -/
def setupRecord (t : Tri) : List Byte :=
  let e := (List.range 3).map (triEdge t)
  let z := triPlane t
  e.flatMap (fun x => leBytes (ofI 32 x.1) 4 ++ leBytes (ofI 32 x.2.1) 4) ++ e.flatMap (fun x => leBytes (ofI 64 x.2.2) 8) ++
    leBytes z.1 4 ++ leBytes z.2.1 4 ++ leBytes z.2.2 4 ++ leBytes 0 4

/-- The coverage blocks of one axis that lie in the viewport and meet the bounding box (R344), as multiples of 8. -/
def blockRange (t : Tri) (f : Tri → Nat → Int) (size : Nat) : List Nat :=
  let lo := min (f t 0) (min (f t 1) (f t 2))
  let hi := max (f t 0) (max (f t 1) (f t 2))
  let a := (lo / 2048).toNat
  let b := if hi < 0 then 0 else min ((hi / 2048).toNat + 1) (size / 8)
  (List.range (b - a)).map (fun i => 8 * (a + i))

/-- An edge admits a block: its value is at least 0 at some corner (R344), here doubled to stay whole. -/
def edgeAdmits (e : Int × Int × Int) (bx by_ : Nat) : Bool :=
  [bx, bx + 8].any (fun x => [by_, by_ + 8].any (fun y =>
    decide (0 ≤ 2 * e.2.2 + e.1 * (2 * (x : Int) - 1) + e.2.1 * (2 * (y : Int) - 1))))

/-- The origins of a triangle's block records, in row-major order of (BY, BX) (R344). -/
def triBlocks (t : Tri) (vw vh : Nat) : List (Nat × Nat) :=
  let es := (List.range 3).map (triEdge t)
  (blockRange t vy vh).flatMap (fun y => (blockRange t vx vw).filterMap (fun x =>
    if es.all (fun e => edgeAdmits e x y) then some (x, y) else none))

/-- The draw past the triangle in hand. -/
def nextTri (w : Draw) (e : ListEntry) : Draw :=
  let w := { w with tris := w.tris + 1 }
  if w.tri + 1 < e.ntri then { w with tri := w.tri + 1 } else { w with tri := 0, li := w.li + 1 }

/-- A triangle judged (R340): dropped, culled, or in hand with its set-up record and blocks. -/
def takeTri (w : Draw) (e : ListEntry) (vs : Option Tri) : Draw :=
  let v := nextTri w e
  match vs with
  | none => { v with dropped := v.dropped + 1 }
  | some t =>
    let a := triArea t
    let kind := if 0 < a then 1 else 2
    if a = 0 ∨ (w.d.cull = 1 ∧ kind = 2) ∨ (w.d.cull = 2 ∧ kind = 1) then { v with culled := v.culled + 1 }
    else
      { v with
        n := v.n + 1
        ident := e.inst * 2 ^ 40 + e.clus * 2 ^ 12 + w.tri * 2 ^ 4 + kind
        slot := v.n % w.d.nsu
        setup := setupRecord t
        blocks := triBlocks t w.d.vw w.d.vh }

/-- The next triangle of the cluster list read and judged (R340). -/
def triScript (w : Draw) : Script Draw :=
  (readRun (w.d.list + 8 * w.li) 8).bind (fun lb =>
    let e := parseEntry lb
    (triTables w.d.itab w.d.ninst e.inst e.clus w.tri false).bind (fun t =>
      match t with
      | none => .done (takeTri w e none)
      | some t => (triVerts t 16).bind (fun vb => .done (takeTri w e (vb.mapM (screenVert w.d.vw w.d.vh))))))
/-- The rasteriser's next triangle. -/
def rasterTri (d : Dev) (w : Draw) (fi : Nat) : Except MemErr (Draw × Dev) := runWhole d w.part (.octant w.oct) (triScript w) fi

/-- Set-up slot s may be written: fre of RGAL has passed every block record of the triangle that last used it (R345). -/
def slotFreed (d : Dev) (w : Draw) : Bool :=
  match tget w.slots w.slot with
  | some i => decide (i < (galley d w.part w.d.rgal).fre)
  | none => true

/-- The set-up record of the triangle in hand written, or a wait for its slot. -/
def writeSetup (d : Dev) (id : Nat) (w : Draw) (fi : Nat) : Dev :=
  if !slotFreed d w then modDraw d id (fun _ => { w with slotWait := true })
  else
    match unitWriteWhole d w.part (.octant w.oct) .leave (w.d.subase + 64 * w.slot) w.setup fi with
    | .ok d1 => modDraw d1 id (fun _ => { w with setup := [], slotWait := false, slots := tdel w.slots w.slot })
    | .error e => rasterErr (modDraw d id (fun _ => { w with slotWait := false })) id w e

/-- The next block record of the triangle in hand reserved, written and committed (R344), or a wait for room. -/
def emitBlock (d : Dev) (id : Nat) (w : Draw) (b : Nat × Nat) (fi : Nat) : Dev :=
  match reserveRec d w.part w.d.rgal none fi with
  | .full d1 => modDraw d1 id (fun _ => { w with full := true })
  | .got i g d1 =>
    match writeRec d1 w.part (.octant w.oct) .leave g i (recBytes w.ident 0 0 0 (b.2 * 65536 + b.1) 0xFFFE w.slot) (List.replicate 32 0#8) fi with
    | .error e => rasterErr (modDraw d id (fun _ => { w with full := false })) id w e
    | .ok d2 =>
      let x := galley d2 w.part w.d.rgal
      let d3 := putGalley d2 w.part w.d.rgal (commitRec { x with blocks := tput x.blocks i id } i d2.cyc)
      modDraw d3 id (fun _ => { w with
        blocks := w.blocks.drop 1
        nblocks := w.nblocks + 1
        open_ := w.open_ ++ [i]
        slots := tput w.slots w.slot i
        full := false })

/-- One step of a RASTER draw: the set-up in hand, a block record, or the next triangle; at the end of the list the rasteriser
is idle again. -/
def rasterStep (d : Dev) (id : Nat) (w : Draw) (fi : Nat) : Dev :=
  if !w.setup.isEmpty then writeSetup d id w fi
  else
    match w.blocks with
    | b :: _ => emitBlock d id w b fi
    | [] =>
      if w.d.nlist ≤ w.li then modDraw d id (fun _ => { w with took := true })
      else
        match rasterTri d w fi with
        | .error e => rasterErr d id w e
        | .ok (v, d1) => if v.setup.isEmpty then modDraw d1 id (fun _ => v) else writeSetup (modDraw d1 id (fun _ => v)) id v fi

/-- The rasteriser of a draw may go on. -/
def rasterOpen (d : Dev) (id : Nat) (w : Draw) : Bool :=
  w.d.op == 0 && !w.took && !w.dead && !halted d w.part && !waiting d (.draw id) && unitRuns d w.part (rasterUnit w)

/-- DRAW_RASTER (R338): the cluster list is rasterised, a triangle or a block record at a step. -/
def execDrawRaster (id : Nat) (s : State) : Out :=
  let d := s.dev
  match tget d.draws id with
  | none => withDev s d
  | some w =>
    if rasterOpen d id w && !w.slotWait && !w.full then withDev s (stepped (rasterStep d id w s.tick) (rasterUnit w)) else withDev s d

/-- SETUP_SLOT_RESUME (R345): the draw that waits for a set-up slot writes it once its block records are freed. -/
def execSetupSlotResume (id : Nat) (s : State) : Out :=
  let d := s.dev
  match tget d.draws id with
  | none => withDev s d
  | some w =>
    if rasterOpen d id w && w.slotWait then withDev s (stepped (writeSetup d id w s.tick) (rasterUnit w)) else withDev s d

/-! ## Tiles (R347 to R350) -/

/-- The tiles of a set (R347). -/
def tileCount (w : DrawDesc) : Nat := w.tw * w.th
/-- Bytes of a stretch of a tile: no stretch crosses a 64 KiB page. -/
def stretch (w : DrawDesc) : Nat := min (tileBytes w) 65536

/-- The physical bases of a run of stretches; any translation that is not KIND 0 memory of the partition is code 0x04 (17 R462). -/
def tilePas (p : Nat) (w : DrawDesc) (fi : Nat) : List Nat → Dev → Except TdErr (List Nat × Dev)
  | [], d => .ok ([], d)
  | va :: t, d =>
    match xlUnit d p (tdAgent d p) va .read fi with
    | .ok (.dev pa _, d1) =>
      if isDram pa then
        (match tilePas p w fi t d1 with
         | .ok (xs, d2) => .ok (pa :: xs, d2)
         | .error e => .error e)
      else .error (.refuse 0x04 w.addr)
    | .ok _ => .error (.refuse 0x04 w.addr)
    | .error (.xl va lvl e acc) => .error (.xl va lvl e acc)
    | .error (.prot _ _) => .error (.refuse 0x04 w.addr)
    | .error (.link u) => .error (.link u)
    | .error .busy => .error .busy

/-- The stretches of every tile of a set, tile by tile. -/
def setPas (d : Dev) (p : Nat) (w : DrawDesc) (fi : Nat) : Except TdErr (List (List Nat) × Dev) :=
  let per := tileBytes w / stretch w
  match tilePas p w fi ((List.range (tileCount w * per)).map (fun i => w.tbase + i * stretch w)) d with
  | .ok (xs, d1) => .ok ((List.range (tileCount w)).map (fun i => (xs.drop (i * per)).take per), d1)
  | .error e => .error e

/-- A stretch shares a byte with a tile of the directory. -/
def tileMeets (size pa : Nat) (t : Tile) : Bool := t.pas.any (fun b => !apart pa size b (min t.size 65536))
/-- The directory name of a tile: its first byte. -/
def tileKey (pas : List Nat) : Nat := pas.headD 0
/-- Every tile of a set is in a state. -/
def allIn (d : Dev) (keys : List Nat) (st : TileSt) : Bool := keys.all (fun k => ((tget d.tiles k).map (fun t => t.st == st)).getD false)

/-- The slice's directory has room for the tiles of a set that it homes (R349). -/
def dirRoom (d : Dev) (keys : List Nat) : Bool :=
  (List.range 48).all (fun s =>
    decide ((d.tiles.filter (fun t => t.2.slice == s)).length + (keys.filter (fun k => homeSlice k == s)).length ≤ 4096))

/-- The stretches of tiles set to 0 in place. -/
def zeroTiles (d : Dev) (w : DrawDesc) (pas : List Nat) : Dev :=
  pas.foldl (fun d a => wrote { d with mem := zeroRange d.mem a (a + stretch w) } a (stretch w)) d

/-- Every tile of a set made OPEN: zeroed in place, with an entry each (R350). LATE counts from here (R339). -/
def openTiles (d : Dev) (p : Nat) (w : DrawDesc) (tiles : List (List Nat)) : Dev :=
  ((List.range tiles.length).zip tiles).foldl (fun d x =>
    let t : Tile := { part := p, idx := x.1, slice := homeSlice (tileKey x.2), pas := x.2, size := tileBytes w, st := .opened, cnt := 0, late := 0,
                      scan := 0, samples := [], todo := [], gal := none, resv := [], full := none, dead := false }
    let d := zeroTiles d w x.2
    { d with tiles := tput d.tiles (tileKey x.2) t }) d

/-- A draw refused (17 R462): it leaves, and COMPL is not written. A translation fault waits. -/
def drawFail (d : Dev) (id : Nat) (w : Draw) (e : TdErr) : Dev :=
  tdFail (if tdWaits e then d else { d with draws := tdel d.draws id }) w.part (servingOct d w.part) (.draw id) e

/-- The draw's effect on its tiles made. -/
def drawTook (d : Dev) (id : Nat) (keys : List Nat) : Dev := modDraw d id (fun w => { w with took := true, keys := keys, set := keys })

/-- An OPEN, CLOSE or RELEASE may take effect. -/
def drawOpenFor (d : Dev) (id op : Nat) (w : Draw) : Bool :=
  w.d.op == op && !w.took && !halted d w.part && !waiting d (.draw id)

/-- OPEN of a set: the states are checked before the room (R349). -/
def openSet (d : Dev) (id : Nat) (w : Draw) (fi : Nat) : Dev :=
  match setPas d w.part w.d fi with
  | .error e => drawFail d id w e
  | .ok (tiles, d1) =>
    let keys := tiles.map tileKey
    if d1.tiles.any (fun t => tiles.any (fun pas => pas.any (fun a => tileMeets (stretch w.d) a t.2))) then drawFail d1 id w (.refuse 0x06 w.d.addr)
    else if !dirRoom d1 keys then drawFail d1 id w (.refuse 0x05 w.d.addr)
    else drawTook (openTiles d1 w.part w.d tiles) id keys

/-- DRAW_OPEN (R338, R350): every tile of the set becomes OPEN and is zeroed. -/
def execDrawOpen (id : Nat) (s : State) : Out :=
  let d := s.dev
  match tget d.draws id with
  | none => withDev s d
  | some w => if drawOpenFor d id 1 w then withDev s (openSet d id w s.tick) else withDev s d

/-- A RASTER draw on the same tile set descriptor has not retired (R338). -/
def rasterAhead (d : Dev) (w : Draw) : Bool :=
  d.draws.any (fun x => x.2.part == w.part && x.2.d.op == 0 && x.2.d.tset == w.d.tset)

/-- A tile closed, to be scanned from its first quad entry under its index in the set that closes it. -/
def closeTile (idx : Nat) (t : Tile) : Tile :=
  { t with st := .closed, idx := idx, cnt := 0, scan := 0, samples := [], todo := [], gal := none, resv := [], full := none }

/-- CLOSE of a set. -/
def closeSet (d : Dev) (id : Nat) (w : Draw) (fi : Nat) : Dev :=
  match setPas d w.part w.d fi with
  | .error e => drawFail d id w e
  | .ok (tiles, d1) =>
    let keys := tiles.map tileKey
    if allIn d1 keys .opened then
      drawTook (((List.range keys.length).zip keys).foldl (fun d k => modTile d k.2 (closeTile k.1)) d1) id keys
    else drawFail d1 id w (.refuse 0x06 w.d.addr)

/-- DRAW_CLOSE (R338, R350): once the raster draws on the set have retired, every tile of it becomes CLOSED. -/
def execDrawClose (id : Nat) (s : State) : Out :=
  let d := s.dev
  match tget d.draws id with
  | none => withDev s d
  | some w => if drawOpenFor d id 2 w && !rasterAhead d w then withDev s (closeSet d id w s.tick) else withDev s d

/-- LATE of a tile that leaves the directory stays with the CLOSE whose tile it was (R339). -/
def keepLate (d : Dev) (keys : List Nat) (w : Draw) : Draw :=
  { w with
    set := w.set.filter (fun k => !keys.contains k)
    late := (w.set.filter keys.contains).foldl (fun n k => n + ((tget d.tiles k).map (fun t => t.late)).getD 0) w.late }

/-- RELEASE of a set: every tile zeroed in place and its entry freed (R350). A last record freed in this cycle makes its tile SHADED
first (R356). -/
def releaseSet (d : Dev) (id : Nat) (w : Draw) (fi : Nat) : Dev :=
  match setPas (retireMaterial d w.part fi) w.part w.d fi with
  | .error e => drawFail d id w e
  | .ok (tiles, d1) =>
    let keys := tiles.map tileKey
    if allIn d1 keys .shaded then
      let d2 := { d1 with draws := d1.draws.map (fun x => (x.1, keepLate d1 keys x.2)) }
      let d3 := tiles.foldl (fun d pas => zeroTiles d w.d pas) d2
      drawTook { d3 with tiles := d3.tiles.filter (fun t => !keys.contains t.1) } id []
    else drawFail d1 id w (.refuse 0x06 w.d.addr)

/-- DRAW_RELEASE (R338, R350): every tile of the set becomes RELEASED. -/
def execDrawRelease (id : Nat) (s : State) : Out :=
  let d := s.dev
  match tget d.draws id with
  | none => withDev s d
  | some w => if drawOpenFor d id 3 w then withDev s (releaseSet d id w s.tick) else withDev s d

/-! ## Retirement (R336, R338, R339) -/

/-- The groups, or the teams, whose operations a draw's completion releases have none in flight (R336). -/
def drawWrites (d : Dev) (w : Draw) : Bool :=
  if w.d.op = 0 then !d.ops.any (fun o => w.rast.contains o.2.gid)
  else if w.d.op = 2 then !d.ops.any (fun o => w.teams.contains o.2.tid)
  else true

/-- A team has retired, or is gone with its cluster. -/
def teamGone (d : Dev) (tid : Nat) : Bool := ((tget d.teams tid).map (fun t => t.st == .retired)).getD true

/-- The draw's work is done (R338): of a RASTER draw, every raster group launched from its block records has retired with its team, which
frees the records (R331, R393). Where a CVAL is to be written, its release waits for the writes before it (R336). -/
def drawDone (d : Dev) (w : Draw) : Bool :=
  w.took && !w.dead && (w.compl == 0 || (drawWrites d w && releaseOpen d)) &&
  (if w.d.op = 0 then w.open_.isEmpty && w.rast.all (fun i => (tget d.groups i).isNone) && w.teams.all (teamGone d)
   else w.d.op != 2 || w.keys.isEmpty)

/-- LATE of the set whose tiles a CLOSE closed (R339). -/
def drawLate (d : Dev) (w : Draw) : Nat := w.set.foldl (fun n k => n + ((tget d.tiles k).map (fun t => t.late)).getD 0) w.late

/-- The status block of R339: a count that the OP does not produce is 0. -/
def statusBlock (d : Dev) (w : Draw) : List Byte :=
  let r := fun (n : Nat) => if w.d.op = 0 then n else 0
  let c := fun (n : Nat) => if w.d.op = 2 then n else 0
  leBytes (r w.tris) 8 ++ leBytes (r w.dropped) 8 ++ leBytes (r w.culled) 8 ++ leBytes (r w.nblocks) 8 ++
    leBytes (c (drawLate d w)) 8 ++ leBytes (c w.recs) 8 ++ leBytes 0 16

/-- A fault of the write of a status block: of the rasteriser, of the serving octant's CLE, or of the TD. -/
def statErr (d : Dev) (id : Nat) (w : Draw) (e : MemErr) : Dev :=
  if w.d.op = 0 then rasterErr d id w e
  else if w.d.op = 2 then pipeErr d w.part (unitOct (servingOct d w.part) 1) (.draw id) (fun d => modDraw d id (fun w => { w with dead := true })) e
  else drawFail d id w (tdErr w.d.addr e)

/-- The draw leaves; a node's draw goes to the graph engine (09 R328). -/
def dropDraw (d : Dev) (id : Nat) (w : Draw) : Dev :=
  let d := { d with draws := tdel d.draws id }
  match w.node with
  | some (run, i) => modPart d w.part (fun q => { q with runs := tmod q.runs run (fun r => { r with retired := r.retired ++ [i] }) })
  | none => d

/-- The unit that writes a status block: the draw's rasteriser, or a block of the serving octant. -/
def statAgent (d : Dev) (w : Draw) : Agent := if w.d.op = 0 then .octant w.oct else tdAgent d w.part

/-- The status block, then CVAL to COMPL after a system-scope release (R336; 03 R97), then the draw leaves. -/
def retireDraw (d : Dev) (id : Nat) (w : Draw) (fi : Nat) : Dev :=
  match (if w.d.stat = 0 then .ok d else unitWriteWhole d w.part (statAgent d w) .leave w.d.stat (statusBlock d w) fi) with
  | .error e => statErr d id w e
  | .ok d1 =>
    if w.compl = 0 then dropDraw d1 id w
    else
      match tdWrite (landHost d1) w.part w.compl (leBytes w.cval.toNat 8) w.compl fi with
      | .ok d2 => dropDraw d2 id w
      | .error e => drawFail d1 id w e

/-- DRAW_RETIRE (R336, R339). -/
def execDrawRetire (id : Nat) (s : State) : Out :=
  let d := s.dev
  match tget d.draws id with
  | none => withDev s d
  | some w => if drawDone d w && !halted d w.part && !waiting d (.draw id) then withDev s (retireDraw d id w s.tick) else withDev s d

/-! ## Classification (R351, R352) -/

/-- A galley set descriptor (08 R303). -/
structure GalSet where
  itab : Nat
  gtab : Nat
  missg : Nat
  nmat : Nat
  ninst : Nat
  deriving DecidableEq, Repr, Inhabited

def parseGset (bs : List Byte) : GalSet :=
  { itab := at_ bs 0 8, gtab := at_ bs 8 8, missg := at_ bs 16 2, nmat := at_ bs 18 2, ninst := at_ bs 20 4 }

/-- A CLE's unit, what waits for it, and a fault of it on a tile. -/
def cleErr (d : Dev) (id oct : Nat) (w : Draw) (key : Nat) (e : MemErr) : Dev :=
  pipeErr d w.part (unitOct oct 1) (.cle id oct) (fun d => modTile d key (fun t => { t with dead := true })) e

/-- Sample c of the quad entry that a tile's scan has reached, in the order top-left, top-right, bottom-left, bottom-right: its pixel in
the viewport and its offset in the tile (R351, R352). -/
def samplePlace (w : DrawDesc) (t : Tile) (c : Nat) : Nat × Nat × Nat :=
  let s := t.scan % w.spp
  let q := t.scan / w.spp % 16
  let blk := t.scan / w.spp / 16
  let lx := 8 * (blk % 4) + 2 * (q % 4) + c % 2
  let ly := 8 * (blk / 4) + 2 * (q / 4) + c / 2
  (32 * (t.idx % w.tw) + lx, 32 * (t.idx / w.tw) + ly, ((blk * 64 + (ly % 8) * 8 + lx % 8) * w.spp + s) * 16)

/-- The class of a sample (R351): none where it is skipped. -/
def classOf (d : Dev) (p oct : Nat) (w : DrawDesc) (g : GalSet) (va v fi : Nat) : Except MemErr (Option Nat × Dev) :=
  let inst := bits v 40 24
  if v % 16 ≠ 1 ∧ v % 16 ≠ 2 then .ok (if w.missrec then some 0xFFFF else none, d)
  else if g.ninst ≤ inst then .error (.prot 0x2E va)
  else
    match unitRead d p (.octant oct) (g.itab + 32 * inst + 12) 2 fi with
    | .error e => .error e
    | .ok (bs, d1) => .ok (some (at_ bs 0 2), d1)

/-- The next sample of a quad entry read with its class. -/
def takeSample (d : Dev) (p oct : Nat) (w : DrawDesc) (g : GalSet) (t : Tile) (fi : Nat) : Except MemErr (Tile × Dev) :=
  let x := samplePlace w t t.samples.length
  let pa := t.pas.getD (x.2.2 / 65536) 0 + x.2.2 % 65536
  let v := readNat d.mem pa 16
  if held d (.dev pa false) then .error .busy
  else
    match classOf (llcRead (netUnit d p (.octant oct) (.dev pa false) false pa pa) pa 16) p oct w g (w.tbase + t.idx * tileBytes w + x.2.2) v fi with
    | .error e => .error e
    | .ok (c, d1) => .ok ({ t with samples := t.samples ++ [{ px := x.1, py := x.2.1, val := v, cls := c }] }, d1)

/-- The next n samples taken: the tile as far as they came, and the error that stopped them. -/
def takeSamples (p oct : Nat) (w : DrawDesc) (g : GalSet) (fi : Nat) : Nat → Tile → Dev → Tile × Dev × Option MemErr
  | 0, t, d => (t, d, none)
  | n + 1, t, d =>
    match takeSample d p oct w g t fi with
    | .error e => (t, d, some e)
    | .ok (t1, d1) => takeSamples p oct w g fi n t1 d1

/-- The classes of a quad entry, in order of first appearance. -/
def entryClasses (t : Tile) : List Nat := (t.samples.filterMap QuadSample.cls).eraseDups

/-- The galley of a class (R351). -/
def classGalley (d : Dev) (p oct : Nat) (g : GalSet) (m fi : Nat) : Except MemErr (Nat × Dev) :=
  if m = 0xFFFF ∨ g.nmat ≤ m then .ok (g.missg, d)
  else
    match unitRead d p (.octant oct) (g.gtab + 2 * m) 2 fi with
    | .ok (bs, d1) => .ok (at_ bs 0 2, d1)
    | .error e => .error e

/-- The records of a quad entry of class m, in sample order (R352). -/
def quadRecords (w : DrawDesc) (t : Tile) (m : Nat) : List (List Byte × Bool) :=
  let first := ((t.samples.find? (fun x => x.cls == some m)).map (fun x => x.val)).getD 0
  t.samples.map (fun x =>
    let h := x.cls != some m
    let v := if h then first else x.val
    (recBytes (bits v 0 64) (bits v 64 32) 0 0 (x.py * 65536 + x.px) (m + if h then 131072 else 0) (t.idx * 256 + t.scan % w.spp), h))

/-- The pad record before an entry of class m (R352). -/
def padRecord (t : Tile) (m : Nat) : List Byte := recBytes 0 0 0 0 0 (m + 131072) (t.idx * 256)

/-- Records written at reserved indices, each with an all-zero slug. -/
def writeRecs (p oct : Nat) (g : GalDesc) (fi : Nat) : List (Nat × List Byte) → Dev → Except MemErr Dev
  | [], d => .ok d
  | x :: t, d =>
    match writeRec d p (.octant oct) .leave g x.1 x.2 (List.replicate 32 0#8) fi with
    | .error e => .error e
    | .ok d1 => writeRecs p oct g fi t d1

/-- Records of a tile committed together: the galley keeps the directory entry beside each, and the tile and the draw count them. -/
def commitTile (d : Dev) (id gal key : Nat) (w : Draw) (xs : List (Nat × Bool)) : Dev :=
  let x := xs.foldl (fun x i => ownRec x i.1 key i.2) (galley d w.part gal)
  let x := xs.foldl (fun x i => commitRec x i.1 d.cyc) x
  let d := putGalley d w.part gal x
  let d := modTile d key (fun t => { t with cnt := t.cnt + xs.length })
  modDraw d id (fun w => { w with recs := w.recs + xs.length })

/-- The CLE's tile waits for room in a galley. -/
def tileFull (d : Dev) (key gal : Nat) (t : Tile) : Dev := modTile d key (fun _ => { t with full := some gal })

/-- One pad record reserved, written and committed (R351). -/
def clePad (d : Dev) (id oct gal key : Nat) (w : Draw) (t : Tile) (m fi : Nat) : Dev :=
  match reserveRec d w.part gal (some key) fi with
  | .full d1 => tileFull d1 key gal t
  | .got i g d1 =>
    match writeRecs w.part oct g fi [(i, padRecord t m)] d1 with
    | .error e => cleErr (modTile d key (fun _ => { t with full := none })) id oct w key e
    | .ok d2 => commitTile (modTile d2 key (fun _ => { t with full := none })) id gal key w [(i, true)]

/-- One of an entry's four records reserved; the galley is held for the entry until it has all four. -/
def cleReserve (d : Dev) (gal key : Nat) (w : Draw) (t : Tile) (fi : Nat) : Dev :=
  match reserveRec d w.part gal (some key) fi with
  | .full d1 => tileFull d1 key gal t
  | .got i _ d1 =>
    let resv := t.resv ++ [i]
    let d2 := putGalley d1 w.part gal { galley d1 w.part gal with quad := if resv.length = 4 then none else some key }
    modTile d2 key (fun _ => { t with resv := resv, full := none })

/-- The four records of an entry written and committed together (R351). -/
def cleCommit (d : Dev) (id oct gal key : Nat) (w : Draw) (t : Tile) (m fi : Nat) : Dev :=
  match galDesc d w.part gal fi with
  | .error e => galFail d w.part gal e
  | .ok (g, d1) =>
    let rs := quadRecords w.d t m
    match writeRecs w.part oct g fi (t.resv.zip (rs.map (fun r => r.1))) d1 with
    | .error e => cleErr d id oct w key e
    | .ok d2 =>
      let d3 := modTile d2 key (fun _ => { t with resv := [], todo := t.todo.drop 1, gal := none, full := none })
      commitTile d3 id gal key w (t.resv.zip (rs.map (fun r => r.2)))

/-- A class in its galley: pads to a multiple of 4, then four reservations, then the commit. -/
def cleRecord (d : Dev) (id oct gal key : Nat) (w : Draw) (t : Tile) (m fi : Nat) : Dev :=
  if t.resv.length = 4 then cleCommit d id oct gal key w t m fi
  else if t.resv.isEmpty && (galley d w.part gal).rsv % 4 != 0 then clePad d id oct gal key w t m fi
  else cleReserve d gal key w t fi

/-- The step of a class: its galley is read once, as its turn comes. -/
def cleClass (d : Dev) (id oct key : Nat) (w : Draw) (t : Tile) (m fi : Nat) : Dev :=
  match t.gal with
  | some gal => cleRecord d id oct gal key w t m fi
  | none =>
    match unitRead d w.part (.octant oct) w.d.gset 32 fi with
    | .error e => cleErr d id oct w key e
    | .ok (gb, d1) =>
      match classGalley d1 w.part oct (parseGset gb) m fi with
      | .error e => cleErr d id oct w key e
      | .ok (gal, d2) =>
        let t1 := { t with gal := some gal }
        cleRecord (modTile d2 key (fun _ => t1)) id oct gal key w t1 m fi

/-- The tile past a quad entry; the last one makes it CLASSIFIED, or SHADED at once when no record of it is unfreed (R350). -/
def nextQuad (d : Dev) (key : Nat) (w : DrawDesc) (t : Tile) : Dev :=
  let n := t.scan + 1
  let t1 := { t with scan := n, samples := [], todo := [], gal := none, full := none }
  if n < 256 * w.spp then modTile d key (fun _ => t1)
  else if t.cnt = 0 then shadeTile (modTile d key (fun _ => t1)) key
  else modTile d key (fun _ => { t1 with st := .classified })

/-- The samples of a quad entry that have not been read taken, each once; then the entry's first class, or the next entry. -/
def cleSamples (d : Dev) (id oct key : Nat) (w : Draw) (t : Tile) (fi : Nat) : Dev :=
  match unitRead d w.part (.octant oct) w.d.gset 32 fi with
  | .error e => cleErr d id oct w key e
  | .ok (gb, d1) =>
    match takeSamples w.part oct w.d (parseGset gb) fi (4 - t.samples.length) t d1 with
    | (t1, d2, some e) => cleErr (modTile d2 key (fun _ => t1)) id oct w key e
    | (t1, d2, none) =>
      let t2 := { t1 with todo := entryClasses t1 }
      match t2.todo with
      | [] => nextQuad d2 key w.d t2
      | m :: _ => cleClass (modTile d2 key (fun _ => t2)) id oct key w t2 m fi

/-- One step of a CLE on a tile (R351). -/
def cleStep (d : Dev) (id oct key : Nat) (w : Draw) (t : Tile) (fi : Nat) : Dev :=
  if t.samples.length < 4 then cleSamples d id oct key w t fi
  else
    match t.todo with
    | [] => nextQuad d key w.d t
    | m :: _ => cleClass d id oct key w t m fi

/-- The tile a CLE works on: the first CLOSED tile of the set whose first byte its octant homes (R338, R351). -/
def cleTile (d : Dev) (w : Draw) (oct : Nat) : Option (Nat × Tile) :=
  w.keys.findSome? (fun k => match tget d.tiles k with
    | some t => if t.st == .closed && t.slice / 6 == oct then some (k, t) else none
    | none => none)

/-- A CLE may go on. -/
def cleOpen (d : Dev) (id oct : Nat) (w : Draw) : Bool :=
  w.d.op == 2 && w.took && !w.dead && !halted d w.part && !waiting d (.cle id oct) && unitRuns d w.part (unitOct oct 1)

/-- CLE_CLASSIFY_TILE (R351): the CLE's closed tile is classified, a quad entry's reservation or commit at a step. -/
def execCleClassifyTile (id oct : Nat) (s : State) : Out :=
  let d := s.dev
  match tget d.draws id with
  | none => withDev s d
  | some w =>
    match cleTile d w oct with
    | none => withDev s d
    | some (key, t) =>
      if cleOpen d id oct w && t.full.isNone && !t.dead then withDev s (stepped (cleStep d id oct key w t s.tick) (unitOct oct 1)) else withDev s d

end Sys2Proof.Machine
end

