-- ==== Sys2Proof/Machine/Matrix.lean ====
section
/-! DEFINITION. The matrix array: parameter blocks, operands from memory and from rings, and the passes (08 R272 to R281, 04 R129 to
R131). -/

namespace Sys2Proof.Machine

/-! ## Formats (04 R129, 08 R274) -/

/-- Chunk size c of FMT. -/
def mxChunk (f : Nat) : Nat :=
  match f with
  | 0 => 8 | 1 => 8 | 2 => 32 | 3 => 32 | 4 => 64 | 5 => 64 | 6 => 128 | _ => 64
/-- Bits of an element. -/
def mxBits (f : Nat) : Nat :=
  match f with
  | 0 => 32 | 1 => 64 | 2 => 16 | 3 => 16 | 6 => 4 | _ => 8
/-- The format of an element; INT8 has none. -/
def mxFc (f : Nat) : FC :=
  match f with
  | 0 => .fp32 | 1 => .fp64 | 2 => .fp16 | 3 => .bf16 | 4 => .e5m2 | 5 => .e4m3 | _ => .e2m1
/-- Bytes of an output element in AM. -/
def mxEsz (f : Nat) : Nat := if f = 1 then 8 else 4
/-- The accumulator's float format. -/
def mxAcc (f : Nat) : FC := if f = 1 then .fp64 else .fp32

/-- The element whose bits begin at a bit offset of a run of bytes. DESIGN CHOICE: INT8 is two's complement (log 89). -/
def mxElem (f : Nat) (bs : List Byte) (bit0 : Nat) : XVal :=
  let n := mxBits f
  let x := bits (leNat ((bs.drop (bit0 / 8)).take ((n + 7) / 8))) (bit0 % 8) n
  if f = 7 then ofInt (BitVec.ofNat 8 x).toInt else unpack (mxFc f) x

/-- An element under its block scale (04 R131). -/
def mxScaled (x : XVal) (scale : Nat) : XVal := if scale = 255 then .nan false else
  match x with
  | .fin n d e => .fin n d (e + ((scale : Int) - 127))
  | y => y

/-- n elements from element k0: their bytes from bit bit0, and the scale bytes of the blocks from k0's on. -/
def mxRow (f : Nat) (mx : Bool) (bs : List Byte) (bit0 : Nat) (scales : List Byte) (k0 n : Nat) : List XVal :=
  (List.range n).map (fun j =>
    let e := mxElem f bs (bit0 + j * mxBits f)
    if mx then mxScaled e (scales.getD ((k0 + j) / 32 - k0 / 32) 0).toNat else e)

/-- The exact sum of a chunk's products (04 R129, R130). -/
def mxSum (xs : List (XVal × XVal)) : XVal :=
  match xs with
  | [] => .zero false
  | x :: t => t.foldl (fun a p => (xAdd .rne a (xMul p.1 p.2).1).1) (xMul x.1 x.2).1

/-- The accumulator's pattern after a chunk: one rounding, or an exact sum modulo 2^32 for INT8. -/
def mxUpdate (f acc : Nat) (xs : List (XVal × XVal)) : Nat :=
  let t := mxSum xs
  if f = 7 then
    (match t with
     | .fin n d e => ofI 32 ((acc : Int) + (finFloor n d e).1)
     | _ => acc)
  else (rnd (xAdd .rne (unpack (mxAcc f) acc) t).1 (mxAcc f) .rne 0).1

/-! ## Parameter blocks (R273 to R279) -/

/-- An operand descriptor (R275). -/
structure MxOpnd where
  addr : Nat
  stride : Nat
  src : Nat
  ring : Nat
  rsv : Nat
  deriving DecidableEq, Repr, Inhabited

/-- A parameter block with the word's kind: 0 mxd, 1 mxb, 2 mxg. -/
structure MxBlk where
  kind : Nat
  ctrl : Nat
  m : Nat
  n : Nat
  k : Nat
  a : MxOpnd
  b : MxOpnd
  out : Nat
  start : Nat
  deriving DecidableEq, Repr, Inhabited

def mxKind : Instr → Nat
  | .mxd _ _ => 0 | .mxb _ _ => 1 | _ => 2

def parseOpnd (bs : List Byte) : MxOpnd :=
  let w := at_ bs 12 4
  { addr := at_ bs 0 8, stride := at_ bs 8 4, src := bits w 0 2, ring := bits w 2 3, rsv := bits w 5 27 }

def parseMx (kind : Nat) (bs : List Byte) : MxBlk :=
  { kind := kind, ctrl := at_ bs 0 8, m := at_ bs 8 2, n := at_ bs 10 2, k := at_ bs 12 4, a := parseOpnd (bs.drop 16), b := parseOpnd (bs.drop 32),
    out := at_ bs 48 8, start := at_ bs 56 8 }

def MxBlk.f (x : MxBlk) : Nat := bits x.ctrl 0 3
def MxBlk.mx (x : MxBlk) : Bool := bit x.ctrl 3
def MxBlk.accin (x : MxBlk) : Bool := bit x.ctrl 4
def MxBlk.shb (x : MxBlk) : Bool := bit x.ctrl 5
def MxBlk.mg (x : MxBlk) : Nat := bits x.ctrl 6 2
def MxBlk.coff (x : MxBlk) : Nat := bits x.out 0 20
def MxBlk.cstr (x : MxBlk) : Nat := bits x.out 32 20
/-- Rows of A, of B, and of the output, and columns of the output. -/
def MxBlk.rowsA (x : MxBlk) : Nat := if x.kind = 1 then 16 * x.m else x.m
def MxBlk.rowsB (x : MxBlk) : Nat := if x.kind = 0 then x.n else if x.kind = 1 then (if x.shb then 16 else 16 * x.m) else 0
def MxBlk.outRows (x : MxBlk) : Nat := if x.kind = 2 then (if x.mg = 1 then x.k else if x.mg = 2 then x.m else 1) else x.rowsA
def MxBlk.outCols (x : MxBlk) : Nat := if x.kind = 2 then (if x.mg = 1 then x.m else x.k) else x.n
/-- What the passes run over: K, or the rows of A for a row reduce (R279). -/
def MxBlk.total (x : MxBlk) : Nat := if x.kind = 2 ∧ x.mg = 3 then x.m else x.k
/-- The chunk of the pass at p0 (R280). -/
def MxBlk.step (x : MxBlk) (p0 : Nat) : Nat := min (mxChunk x.f) (x.total - p0)
/-- The offset of an output element in AM. -/
def MxBlk.outAt (x : MxBlk) (i j : Nat) : Nat := x.coff + i * x.cstr + j * mxEsz x.f

/-- Scale bytes of n elements from k0: one for each block of 32 that they meet. -/
def mxScales (x : MxBlk) (k0 n : Nat) : Nat := if x.mx ∧ 0 < n then (k0 + n - 1) / 32 - k0 / 32 + 1 else 0
/-- Bytes of n elements from k0 and their scales. -/
def mxRowBytes (x : MxBlk) (k0 n : Nat) : Nat := (n * mxBits x.f + 7) / 8 + mxScales x k0 n

/-- An operand descriptor within its limits (R275, R276): elements of a row, from k0, that its stride must hold. -/
def opndOk (d : Dev) (tid : Nat) (x : MxBlk) (o : MxOpnd) (k0 elems : Nat) : Bool :=
  o.rsv == 0 && decide (o.src < 2) && o.addr % 16 == 0 && o.stride % 16 == 0 && (o.src == 0 || o.addr == 0) && decide (mxRowBytes x k0 elems ≤ o.stride) &&
  (o.src == 0 || (match ringOf d tid o.ring with
    | some r => r.cfg.cons == 2
    | none => false))

/-- An operand is drawn chunk by chunk from a ring, and not in whole rows. -/
def chunked (x : MxBlk) (o : MxOpnd) : Bool := o.src == 1 && !(x.kind == 2 && x.mg == 3)
/-- The elements of a row that one chunk of a stream, or the whole row in memory, holds: the first of them and how many. -/
def rowFirst (x : MxBlk) (o : MxOpnd) : Nat := if chunked x o then x.start else 0
def rowElems (x : MxBlk) (o : MxOpnd) : Nat := if chunked x o then min (mxChunk x.f) (x.k - x.start) else x.k

/-- Every field of a block lies within its limits (R273 to R279). -/
def mxFieldsOk (d : Dev) (tid : Nat) (x : MxBlk) : Bool :=
  bits x.ctrl 8 56 == 0 && (if x.kind = 2 then x.mg != 0 else x.mg == 0) && (x.kind == 1 || !x.shb) && (!x.mx || (decide (4 ≤ x.f) && decide (x.f ≤ 6))) &&
  bits x.out 20 12 == 0 && bits x.out 52 12 == 0 && decide (x.start < 2 ^ 32) && decide (x.start ≤ x.total) && decide (x.k ≤ 2 ^ 24) &&
  (!x.mx || x.k % 32 == 0) &&
  (match x.kind with
   | 0 => decide (1 ≤ x.m) && decide (x.m ≤ 64) && decide (1 ≤ x.n) && decide (x.n ≤ 64)
   | 1 => decide (1 ≤ x.m) && decide (x.m ≤ 16) && x.n == 16
   | _ => x.n == 0 && decide (x.k ≤ 64) && (x.mg == 3 || decide (x.m ≤ 64))) &&
  opndOk d tid x x.a (rowFirst x x.a) (rowElems x x.a) &&
  (if x.kind = 2 then
    x.b.stride == 0 && x.b.src == 0 && x.b.ring == 0 && x.b.rsv == 0 && (if x.mg = 2 then x.b.addr % 16 == 0 else x.b.addr == 0)
   else opndOk d tid x x.b (rowFirst x x.b) (rowElems x x.b))

/-- The AM allotment of a team. -/
def amSize (d : Dev) (tid : Nat) : Nat := ((teamTask d tid).map allotAm).getD 0

/-- The outputs lie in the team's AM allotment, aligned (R277). -/
def mxOutOk (d : Dev) (tid : Nat) (x : MxBlk) : Bool :=
  let e := mxEsz x.f
  x.coff % e == 0 && x.cstr % e == 0 &&
  (x.outRows == 0 || x.outCols == 0 || decide (x.outAt (x.outRows - 1) x.outCols ≤ amSize d tid))

/-- The reason of a block's lowest broken check (16 R453, R455). -/
def mxReason (d : Dev) (tid : Nat) (x : MxBlk) : Option Nat :=
  if !mxOutOk d tid x then some 0x22 else if !mxFieldsOk d tid x then some 0x2A else none

/-! ## Operands (R275, R276) -/

/-- n elements from k0 of row i of an operand in memory, and their scales. -/
def rowFromMem (d : Dev) (p tid : Nat) (x : MxBlk) (o : MxOpnd) (k0 n i fi : Nat) : Except MemErr (List XVal × Dev) :=
  let row := o.addr + i * o.stride
  let lo := k0 * mxBits x.f / 8
  match unitRead d p (.team tid) (row + lo) (((k0 + n) * mxBits x.f + 7) / 8 - lo) fi with
  | .error e => .error e
  | .ok (bs, d1) =>
    let ns := mxScales x k0 n
    match unitRead d1 p (.team tid) (row + (x.k * mxBits x.f + 7) / 8 + k0 / 32) ns fi with
    | .error e => .error e
    | .ok (sc, d2) => .ok (mxRow x.f x.mx bs (k0 * mxBits x.f - 8 * lo) sc k0 n, d2)

/-- Rows of an operand in memory, in order. -/
def rowsFromMem (p tid : Nat) (x : MxBlk) (o : MxOpnd) (k0 n fi : Nat) : List Nat → Dev → Except MemErr (List (List XVal) × Dev)
  | [], d => .ok ([], d)
  | i :: t, d =>
    match rowFromMem d p tid x o k0 n i fi with
    | .error e => .error e
    | .ok (r, d1) =>
      match rowsFromMem p tid x o k0 n fi t d1 with
      | .error e => .error e
      | .ok (rs, d2) => .ok (r :: rs, d2)

/-- A ring with its COMMITTED slots popped until the stream reaches a byte, or no slot is COMMITTED. -/
def popTo (need : Nat) : Nat → Ring → MxRing → Ring × MxRing
  | 0, r, m => (r, m)
  | n + 1, r, m =>
    if need ≤ m.have_ ∨ slotSt r r.qix ≠ .committed then (r, m)
    else popTo need n (ringPop r) { slots := m.slots ++ [(r.qix, m.have_)], have_ := m.have_ + r.cfg.ssz }

/-- A byte of the stream of popped slots. -/
def streamByte (t : Team) (r : Ring) (m : MxRing) (i : Nat) : Byte :=
  match m.slots.find? (fun s => decide (s.2 ≤ i) && decide (i < s.2 + r.cfg.ssz)) with
  | some s => readByte t.spad (slotOff r.cfg s.1 + (i - s.2))
  | none => 0#8

/-- The popped slots whose last byte lies below an offset of the stream released (R276). -/
def releaseTo (r : Ring) (m : MxRing) (upto : Nat) : Ring × MxRing :=
  let gone := m.slots.filter (fun s => decide (s.2 + r.cfg.ssz ≤ upto))
  (gone.foldl (fun r s => ringRelease r s.1) r, { m with slots := m.slots.filter (fun s => !decide (s.2 + r.cfg.ssz ≤ upto)) })

/-- Rows of an operand's chunk: R rows, the chunk's first stream byte, n elements of each from k0. DESIGN CHOICE: an E2M1 row begins in
the low nibble, also from an odd k0 (log 92). -/
def rowsFromRing (t : Team) (r : Ring) (m : MxRing) (x : MxBlk) (o : MxOpnd) (base rows k0 n : Nat) : List (List XVal) :=
  (List.range rows).map (fun i =>
    let bs := (List.range (mxRowBytes x k0 n + 1)).map (fun j => streamByte t r m (base + i * o.stride + j))
    mxRow x.f x.mx bs 0 (bs.drop ((n * mxBits x.f + 7) / 8)) k0 n)

/-- The chunk of an operand that a pass uses: its first stream byte, its rows, and its elements. -/
structure MxSpan where
  base : Nat
  rows : Nat
  row0 : Nat
  k0 : Nat
  n : Nat
  deriving DecidableEq, Repr, Inhabited

/-- The part of an operand of R rows that the pass at p0 uses (R276, R279): a chunk of K, or whole rows for a row reduce. -/
def mxSpan (x : MxBlk) (o : MxOpnd) (rows p0 : Nat) : MxSpan :=
  if x.kind = 2 ∧ x.mg = 3 then { base := (p0 - x.start) * o.stride, rows := x.step p0, row0 := p0, k0 := 0, n := x.k }
  else { base := (p0 - x.start) / mxChunk x.f * rows * o.stride, rows := rows, row0 := 0, k0 := p0, n := x.step p0 }

/-- The last byte of the stream that a pass needs, plus one. -/
def spanNeed (x : MxBlk) (o : MxOpnd) (s : MxSpan) : Nat := if s.rows = 0 then 0 else s.base + (s.rows - 1) * o.stride + mxRowBytes x s.k0 s.n

/-! ## Passes (R277 to R280) -/

/-- The head command of a core's array with its operation. -/
def mxHead (d : Dev) (core : Nat) : Option (MxCmd × Op) :=
  match (tgetD d.cores core default).mq with
  | [] => none
  | c :: _ => (tget d.ops c.op).map (fun o => (c, o))

/-- The head command changed. -/
def modHead (d : Dev) (core : Nat) (f : MxCmd → MxCmd) : Dev :=
  modCore d core (fun k => match k.mq with
    | [] => k
    | c :: t => { k with mq := f c :: t })

/-- The command at the head is complete: it leaves the queue. -/
def mxDone (d : Dev) (core id : Nat) : Dev := completeOp (modCore d core (fun k => { k with mq := k.mq.drop 1 })) id

/-- A fault of the array on behalf of the head command (08 R309, 15 R441). -/
def mxErr (d : Dev) (core id : Nat) (e : MemErr) : Dev :=
  match e with
  | .xl va lvl en acc => addReport d (((tget d.ops id).map (fun o => o.part)).getD 0) (unitMx core) 2 va lvl en acc (.matrix core)
  | .prot reason _ => modHead (opFatal d id (unitMx core) reason 0) core (fun c => { c with wait := true })
  | .link u => modHead (raiseHalt d (((tget d.ops id).map (fun o => o.part)).getD 0) u 0x0B 0) core (fun c => { c with wait := true })
  | .busy => d

/-- The array of a core may go on with its head command. -/
def mxRuns (d : Dev) (core : Nat) (c : MxCmd) (o : Op) : Bool := !c.wait && !waiting d (.matrix core) && unitRuns d o.part (unitMx core)

/-- The team's AM with an element written. -/
def putAm (d : Dev) (tid off n x : Nat) : Dev := modTeam d tid (fun t => { t with am := writeNat t.am off x n })
/-- An element of the team's AM. -/
def getAm (d : Dev) (tid off n : Nat) : Nat := ((tget d.teams tid).map (fun t => readNat t.am off n)).getD 0

/-- A command with no pass: its outputs take +0 when it starts from nothing (R277, R308). -/
def mxEmpty (d : Dev) (tid : Nat) (x : MxBlk) : Dev :=
  if x.accin || x.start != 0 then d
  else
    (List.range x.outRows).foldl (fun d i => (List.range x.outCols).foldl (fun d j => putAm d tid (x.outAt i j) (mxEsz x.f) 0) d) d

/-- The head command started: its block read and checked (R270, R272); one with no pass is complete. -/
def mxStart (d : Dev) (core : Nat) (c : MxCmd) (o : Op) (fi : Nat) : Dev :=
  match unitRead d o.part (.team o.tid) o.a.toNat 64 fi with
  | .error e => mxErr d core c.op e
  | .ok (bs, d1) =>
    let x := parseMx (mxKind o.word) bs
    match mxReason d1 o.tid x with
    | some r => mxErr d1 core c.op (.prot r 0)
    | none =>
      let d2 := modHead d1 core (fun c => { c with started := true, rprog := x.start, blk := bs })
      if x.total ≤ x.start then mxDone (mxEmpty d2 o.tid x) core c.op else d2

/-- MATRIX_COMMAND_START (R272): only once the head command's predecessors are complete. -/
def execMatrixCommandStart (core : Nat) (s : State) : Out :=
  let d := s.dev
  match mxHead d core with
  | none => withDev s d
  | some (c, o) =>
    if !c.started && opReady d o && mxRuns d core c o then withDev s (stepped (mxStart d core c o s.tick) (unitMx core)) else withDev s d

/-- An operand of a pass: its rows, or none while its ring has no COMMITTED slot to pop; and what it has drawn. -/
def mxOperand (d : Dev) (o : Op) (x : MxBlk) (q : MxOpnd) (rows p0 : Nat) (m : MxRing) (fi : Nat) :
    Except MemErr (Option (List (List XVal)) × MxRing × Dev) :=
  let s := mxSpan x q rows p0
  if q.src = 0 then
    (match rowsFromMem o.part o.tid x q s.k0 s.n fi ((List.range s.rows).map (fun i => s.row0 + i)) d with
     | .error e => .error e
     | .ok (rs, d1) => .ok (some rs, m, d1))
  else
    match tget d.teams o.tid, ringOf d o.tid q.ring with
    | some t, some r =>
      let y := popTo (spanNeed x q s) 64 r m
      let d1 := modRing d o.tid q.ring (fun _ => y.1)
      if y.2.have_ < spanNeed x q s then .ok (none, y.2, d1)
      else .ok (some (rowsFromRing t y.1 y.2 x q s.base s.rows s.k0 s.n), y.2, d1)
    | _, _ => .ok (none, m, d)

/-- The index vector of a row permute (R279). -/
def mxIndex (d : Dev) (o : Op) (x : MxBlk) (fi : Nat) : Except MemErr (List Nat × Dev) :=
  if x.kind = 2 ∧ x.mg = 2 then
    (match unitRead d o.part (.team o.tid) x.b.addr (2 * x.m) fi with
     | .error e => .error e
     | .ok (bs, d1) => .ok ((List.range x.m).map (fun i => at_ bs (2 * i) 2), d1))
  else .ok ([], d)

/-- One as a factor of a generated operand. -/
def xOne : XVal := .fin 1 1 0

/-- The outputs of the pass at p0 with the products of each (R277 to R279). -/
def passOuts (x : MxBlk) (p0 : Nat) (ra rb : List (List XVal)) (idx : List Nat) : List (Nat × Nat × List (XVal × XVal)) :=
  let n := x.step p0
  let row := fun (rs : List (List XVal)) (i : Nat) => rs.getD i []
  let el := fun (i k : Nat) => (row ra i).getD k (.zero false)
  if x.kind = 0 then (List.range x.m).flatMap (fun i => (List.range x.n).map (fun j => (i, j, (row ra i).zip (row rb j))))
  else if x.kind = 1 then
    (List.range (16 * x.m)).flatMap (fun i => (List.range 16).map (fun j => (i, j, (row ra i).zip (row rb (if x.shb then j else i / 16 * 16 + j)))))
  else if x.mg = 1 then (List.range n).flatMap (fun k => (List.range x.m).map (fun i => (p0 + k, i, [(el i k, xOne)])))
  else if x.mg = 2 then
    (List.range x.m).flatMap (fun i => (List.range n).map (fun k =>
      (i, p0 + k, [(if idx.getD i 0 < x.m then el (idx.getD i 0) k else .zero false, xOne)])))
  else (List.range x.k).map (fun k => (0, k, ra.map (fun r => (r.getD k (.zero false), xOne))))

/-- An output starts from its value in AM (R277): ACCIN, or a command that starts above 0; a transpose or a row permute forms each
output in one pass. -/
def fromAm (x : MxBlk) : Bool := x.accin || (decide (0 < x.start) && !(x.kind == 2 && x.mg != 3))

/-- The name of an output among a command's accumulators. -/
def outKey (i j : Nat) : Nat := i * 65536 + j

/-- The accumulators after a pass: each output goes on from its accumulator, which before its first pass is AM or 0 (R277). -/
def passAcc (d : Dev) (tid : Nat) (x : MxBlk) (acc : Tab Nat) (outs : List (Nat × Nat × List (XVal × XVal))) : Tab Nat :=
  outs.foldl (fun t u =>
    let a0 := match tget acc (outKey u.1 u.2.1) with
      | some a => a
      | none => if fromAm x then getAm d tid (x.outAt u.1 u.2.1) (mxEsz x.f) else 0
    tput t (outKey u.1 u.2.1) (mxUpdate x.f a0 u.2.2)) acc

/-- The AM writes of a pass. DESIGN CHOICE: of outputs that overlap the last in the order of rows and columns remains (log 93). -/
def passWrite (d : Dev) (tid : Nat) (x : MxBlk) (acc : Tab Nat) (outs : List (Nat × Nat × List (XVal × XVal))) : Dev :=
  outs.foldl (fun d u => putAm d tid (x.outAt u.1 u.2.1) (mxEsz x.f) (tgetD acc (outKey u.1 u.2.1) 0)) d

/-- The slots of a ring operand that no later pass uses released. -/
def mxFree (d : Dev) (tid : Nat) (q : MxOpnd) (m : MxRing) (upto : Nat) : Dev × MxRing :=
  if q.src = 0 then (d, m)
  else
    match ringOf d tid q.ring with
    | none => (d, m)
    | some r =>
      let y := releaseTo r m upto
      (modRing d tid q.ring (fun _ => y.1), y.2)

/-- Where the stream of an operand stands once the pass that ends at p is finished; at the end everything is released. -/
def freeUpto (x : MxBlk) (q : MxOpnd) (rows p : Nat) (m : MxRing) : Nat :=
  if x.total ≤ p then m.have_
  else if x.kind = 2 ∧ x.mg = 3 then (p - x.start) * q.stride
  else (p - x.start) / mxChunk x.f * rows * q.stride

/-- The pass at RPROG finished: AM, RPROG, the released slots, and the command's completion after the last one. -/
def passEnd (d : Dev) (core : Nat) (c : MxCmd) (o : Op) (x : MxBlk) (ra rb : List (List XVal)) (idx : List Nat) (ma mb : MxRing) : Dev :=
  let p := c.rprog + x.step c.rprog
  let outs := passOuts x c.rprog ra rb idx
  let acc := passAcc d o.tid x c.acc outs
  let d1 := passWrite d o.tid x acc outs
  let ya := mxFree d1 o.tid x.a ma (freeUpto x x.a x.rowsA p ma)
  let yb := mxFree ya.1 o.tid x.b mb (freeUpto x x.b x.rowsB p mb)
  let d2 := modHead yb.1 core (fun c => { c with rprog := p, tok := false, ra := ya.2, rb := yb.2, acc := acc })
  if x.total ≤ p then mxDone d2 core c.op else d2

/-- One pass (R280): a translation fault abandons it without its AM writes. -/
def mxPass (d : Dev) (core : Nat) (c : MxCmd) (o : Op) (fi : Nat) : Dev :=
  let x := parseMx (mxKind o.word) c.blk
  match mxOperand d o x x.a x.rowsA c.rprog c.ra fi with
  | .error e => mxErr d core c.op e
  | .ok (ra, ma, d1) =>
    let keep := fun (d : Dev) (mb : MxRing) => modHead d core (fun c => { c with ra := ma, rb := mb })
    match (if x.kind = 2 then Except.ok (some [], c.rb, d1) else mxOperand d1 o x x.b x.rowsB c.rprog c.rb fi) with
    | .error e => mxErr (keep d1 c.rb) core c.op e
    | .ok (rb, mb, d2) =>
      match mxIndex d2 o x fi with
      | .error e => mxErr (keep d2 mb) core c.op e
      | .ok (idx, d3) =>
        match ra, rb with
        | some ra, some rb => passEnd d3 core c o x ra rb idx ma mb
        | _, _ => keep d3 mb

/-- MATRIX_PASS (R280): one pass whose claim is granted. -/
def execMatrixPass (core : Nat) (s : State) : Out :=
  let d := s.dev
  match mxHead d core with
  | none => withDev s d
  | some (c, o) => if c.started && c.tok && mxRuns d core c o then withDev s (stepped (mxPass d core c o s.tick) (unitMx core)) else withDev s d

/-- Tokens that a pass claims (09 R333). -/
def passCost (f : Nat) : Nat := if f = 0 then 1024 else if f = 1 then 512 else 2048

end Sys2Proof.Machine
end

