-- ==== Sys2Proof/Machine/Engines.lean ====
section
/-! DEFINITION. Engine commands at their units: what every command shares, the accumulator memory, exact records and whole-image
moves (08 R268 to R286, R309; 15 R441). -/

namespace Sys2Proof.Machine

/-! ## What every command shares -/

/-- The unit that performs a word (14 R410). -/
def engineUnit (core : Nat) : Instr → Nat
  | .trace _ _ _ => unitTu core | .vmarch _ _ _ => unitTu core | .ovq _ _ _ => unitTu core | .refit _ _ => unitTu core
  | .attr _ _ _ => unitAe core | .dsc _ _ _ => unitAe core | .rbin _ _ _ => unitAe core | .tex _ _ _ => unitAe core
  | .slg _ _ _ => unitAe core
  | _ => unitMx core

/-- The source kind of a word's fault records (15 R438). -/
def engineSrc : Instr → Nat
  | .trace _ _ _ => 3 | .vmarch _ _ _ => 3 | .ovq _ _ _ => 3 | .refit _ _ => 3
  | .attr _ _ _ => 5 | .dsc _ _ _ => 5 | .rbin _ _ _ => 5 | .tex _ _ _ => 5 | .slg _ _ _ => 5
  | _ => 2

/-- A failed access or check of a command: a report on which a waiter waits, or a fault at its unit (16 R452). -/
def engFail (d : Dev) (id : Nat) (o : Op) (who : Waiter) (lane : Nat) (e : MemErr) : Dev :=
  let u := engineUnit o.core o.word
  match e with
  | .xl va lvl en acc => addReport d o.part u (engineSrc o.word) va lvl en acc who
  | .prot reason _ => opFatal d id u reason lane
  | .link k => modOp (raiseHaltBy d o.part k 0x0B 0 (some (o.core, o.grp))) id (fun o => { o with wait := true })
  | .busy => d
/-- A failed access or check of one lane. DEDUCED: an access that fails the checks of every access (03 R76, R83) is reported by its reason
beside those that 16 R460 lists for the form (log 99). -/
def engErr (d : Dev) (id : Nat) (o : Op) (lane : Nat) (e : MemErr) : Dev := engFail d id o (.lane id lane) lane e

/-- A word that acts once for its group (16 R454). -/
def groupOnce : Instr → Bool
  | .aczr _ _ _ => true | .xmovSt _ _ _ => true | .xmovLd _ _ _ => true | .refit _ _ => true | _ => false
/-- A failed access or check of the word as a whole: the lowest lane in which it acts is the lane of the fault (16 R454). -/
def wordErr (d : Dev) (id : Nat) (o : Op) (e : MemErr) : Dev := engFail d id o (.op id) (if groupOnce o.word then 0 else lowLane o.act) e

/-- The scripts of a command's lanes run in ascending order, with at most b accesses between them: the lanes that failed, and the
device with each lane's progress. A lane that waits on a page is passed over; it goes on from what it has read, or, without keep, begins
anew (15 R441). -/
def eachScript (id : Nat) (o : Op) (fi : Nat) (keep : Bool) (f : LaneIn → Script (List (Nat × Nat))) :
    List LaneIn → Nat → Dev → List (Nat × MemErr) × Dev
  | [], _, d => ([], d)
  | x :: t, b, d =>
    if (tget o.outs x.lane).isSome || waiting d (.lane id x.lane) then eachScript id o fi keep f t b d
    else
      let old := tgetD o.logs x.lane []
      let r := runScript o.part (.team o.tid) (.remove o.core) fi (f x) old b d
      match r.out with
      | .ok (some regs) =>
        eachScript id o fi keep f t r.left
          (modOp r.dev id (fun q => { q with outs := tput q.outs x.lane regs, logs := tdel q.logs x.lane }))
      | .ok none => eachScript id o fi keep f t r.left (modOp r.dev id (fun q => { q with logs := tput q.logs x.lane (old ++ r.log) }))
      | .error e =>
        let y := eachScript id o fi keep f t r.left
          (modOp r.dev id (fun q => { q with logs := if keep then tput q.logs x.lane (old ++ r.log) else tdel q.logs x.lane }))
        ((x.lane, e) :: y.1, y.2)

/-- The failed lanes of a command: the lowest lane's fault, or a report for every lane that waits on a page. -/
def laneErrs (d : Dev) (id : Nat) (o : Op) (errs : List (Nat × MemErr)) : Dev :=
  let stops := fun (e : Nat × MemErr) => match e.2 with
    | .xl _ _ _ _ => false
    | .busy => false
    | _ => true
  match errs.find? stops with
  | some e => engErr d id o e.1 e.2
  | none => errs.foldl (fun d e => engErr d id o e.1 e.2) d

/-- A command's registers written, and its completion. -/
def engDone (d : Dev) (id : Nat) (o : Op) (f : Group → Group) : Dev := completeOp (modGroup d o.gid f) id

/-- Registers of a run that starts at a block's D written in a lane: offsets with their patterns (R269). -/
def putRun (dst : Operand) (l : Nat) (xs : List (Nat × Nat)) (g : Group) : Group :=
  match dst with
  | .v n => xs.foldl (fun g x => writeV g (n.val + x.1) l (BitVec.ofNat 32 x.2)) g
  | _ => g

/-- The block registers of every lane written. -/
def putRuns (dst : Operand) (rs : List (Nat × List (Nat × Nat))) (g : Group) : Group := rs.foldl (fun g r => putRun dst r.1 r.2 g) g

/-- Every lane of a command has its result. -/
def lanesDone (o : Op) : Bool := o.lanes.all (fun x => (tget o.outs x.lane).isSome)
/-- The lanes of a command with their results. -/
def laneOuts (o : Op) : List (Nat × List (Nat × Nat)) := o.lanes.map (fun x => (x.lane, tgetD o.outs x.lane []))

/-- A per-lane command taken on by at most n accesses: it ends once every lane has its result, or a lane has failed, or it is to be
gone on with. No register is written until every lane has its result. -/
def commandGo (d : Dev) (id : Nat) (o : Op) (fi n : Nat) (keep : Bool) (f : LaneIn → Script (List (Nat × Nat)))
    (finish : Dev → Op → Dev) : Dev :=
  let y := eachScript id o fi keep f o.lanes n d
  if !y.1.isEmpty then laneErrs y.2 id o y.1
  else
    match tget y.2.ops id with
    | none => y.2
    | some q => if lanesDone q then finish y.2 q else modOp y.2 id (fun q => { q with prog := q.prog + 1 })

/-- A block command whose results are registers of its block. -/
def blockGo (d : Dev) (id : Nat) (o : Op) (dst : Operand) (fi n : Nat) (keep : Bool) (f : LaneIn → Script (List (Nat × Nat))) : Dev :=
  commandGo d id o fi n keep f (fun d q => engDone d id q (putRuns dst (laneOuts q)))

/-- A descriptor read once for the word and checked; a field outside its limits is 0x2A (R270). -/
def readDesc (d : Dev) (id : Nat) (o : Op) (n : Nat) (ok : List Byte → Bool) (fi : Nat) : Except MemErr (List Byte × Dev) :=
  match o.blk with
  | some bs => .ok (bs, d)
  | none =>
    match unitRead d o.part (.team o.tid) o.a.toNat n fi with
    | .error e => .error e
    | .ok (bs, d1) => if ok bs then .ok (bs, modOp d1 id (fun o => { o with blk := some bs })) else .error (.prot 0x2A o.a.toNat)

/-- Some stretch of a run of bytes is all 0: reserved fields. -/
def zeros (bs : List Byte) (lo n : Nat) : Bool := (bs.drop lo).take n == List.replicate n 0#8
/-- Register i of a lane's block as it was read. -/
def reg (x : LaneIn) (i : Nat) : Nat := (x.run.getD i 0#32).toNat

/-! ## Accumulator memory (R283) -/

/-- The AM bytes a lane's word names: offset and length; a whole record for xacc and xrnd. -/
def amLen : Instr → Nat
  | .acld _ _ _ => 4 | .acst _ _ _ => 4 | .xaccE32 _ _ _ => 64 | .xrndE32 _ _ _ _ => 64 | .xaccE64 _ _ _ => 288 | .xrndE64 _ _ _ _ => 288 | _ => 0

/-- The stretches of AM that a word names with the lanes they belong to (03 R92, R93). -/
def amSpans (o : Op) : List (Mask × Nat × Nat) :=
  match o.word with
  | .aczr _ _ _ => [(o.act, o.a.toNat, o.d.toNat)]
  | w => if amLen w = 0 then [] else o.lanes.map (fun x => (BitVec.ofNat 64 (2 ^ x.lane), (x.a.setWidth 32).toNat, amLen w))

/-- Two operations name a common AM byte in one lane. -/
def amMeet (o q : Op) : Bool :=
  (amSpans o).any (fun x => (amSpans q).any (fun y => (x.1 &&& y.1) != 0#64 && !apart x.2.1 x.2.2 y.2.1 y.2.2))

/-- An earlier word of the group on the same AM bytes in the same lane is not complete (03 R93). -/
def amBehind (d : Dev) (id : Nat) (o : Op) : Bool := d.ops.any (fun q => decide (q.1 < id) && q.2.gid == o.gid && amMeet o q.2)

/-- A lane's AM offset is aligned and its bytes lie in the allotment (R73, R283 to R285). -/
def amOk (d : Dev) (o : Op) (x : LaneIn) : Bool :=
  let a := (x.a.setWidth 32).toNat
  let n := amLen o.word
  decide (a % n = 0) && decide (a + n ≤ amSize d o.tid)

/-- The record or word of a lane. -/
def amRead (d : Dev) (o : Op) (x : LaneIn) : List Byte :=
  ((tget d.teams o.tid).map (fun t => readBytes t.am (x.a.setWidth 32).toNat (amLen o.word))).getD []
/-- The team's AM with a lane's bytes written. -/
def amWrite (d : Dev) (o : Op) (x : LaneIn) (bs : List Byte) : Dev :=
  modTeam d o.tid (fun t => { t with am := writeBytes t.am (x.a.setWidth 32).toNat bs })

/-- The lanes of an AM word once every offset is in order: the lowest bad lane is 0x22. -/
def amWordGo (d : Dev) (id : Nat) (o : Op) (f : Dev → Dev) : Dev :=
  match o.lanes.find? (fun x => !amOk d o x) with
  | some x => engErr d id o x.lane (.prot 0x22 0)
  | none => f d

/-- The lanes of an AM word that have still to take their turn, of which a step takes all, or, where it makes fewer accesses, any: each
4-byte word is read or written alone, so that what a matrix command writes may come between them (R283, R307). -/
def amTake (o : Op) (fi n : Nat) (left : List LaneIn) : List LaneIn :=
  if left.length ≤ n then left else left.filter (fun x => bit (Config.freeWord (fi * 2 ^ 16 + o.slot)).toNat x.lane)

/-- acld: lanes' 4 bytes read; once every lane has its own, the registers. -/
def doAcld (d : Dev) (id : Nat) (o : Op) (dst : Operand) (fi n : Nat) : Dev :=
  amWordGo d id o (fun d =>
    let xs := amTake o fi n (o.lanes.filter (fun x => (tget o.outs x.lane).isNone))
    let q := { o with outs := xs.foldl (fun t x => tput t x.lane [(0, leNat (amRead d o x))]) o.outs }
    if lanesDone q then
      engDone d id o (fun g => o.lanes.foldl (fun g x => putDest g dst false x.lane (BitVec.ofNat 64 (((tgetD q.outs x.lane []).headD (0, 0)).2))) g)
    else modOp d id (fun _ => q))

/-- acst: in ascending lane order among the lanes of one offset, so the highest lane's bytes remain. -/
def doAcst (d : Dev) (id : Nat) (o : Op) (fi n : Nat) : Dev :=
  amWordGo d id o (fun d =>
    let left := o.lanes.filter (fun x => !mbit o.fin x.lane)
    let ys := amTake o fi n left
    let xs := ys.filter (fun x => left.all (fun y => !decide (y.lane < x.lane) || y.a.setWidth 32 != x.a.setWidth 32 || ys.contains y))
    let d1 := xs.foldl (fun d x => amWrite d o x (leBytes x.d.toNat 4)) d
    let q := { o with fin := xs.foldl (fun m x => m ||| BitVec.ofNat 64 (2 ^ x.lane)) o.fin }
    if q.lanes.all (fun x => mbit q.fin x.lane) then engDone d1 id o (fun g => g) else modOp d1 id (fun _ => q))

/-- aczr: D bytes from offset A set to 0; D = 0 changes nothing (R283, R308). -/
def doAczr (d : Dev) (id : Nat) (o : Op) : Dev :=
  let a := o.a.toNat
  let n := o.d.toNat
  if n = 0 then engDone d id o (fun g => g)
  else if a % 64 ≠ 0 ∨ n % 64 ≠ 0 ∨ amSize d o.tid < a + n then wordErr d id o (.prot 0x22 0)
  else engDone (modTeam d o.tid (fun t => { t with am := zeroRange t.am a (a + n) })) id o (fun g => g)

/-! ## Exact records (R284, R285) -/

/-- xacc: each lane's value added exactly into its record. -/
def doXacc (d : Dev) (id : Nat) (o : Op) (k : ExaKind) (val : LaneIn → XVal) : Dev :=
  amWordGo d id o (fun d => engDone (o.lanes.foldl (fun d x => amWrite d o x (exaAdd k (amRead d o x) (val x))) d) id o (fun g => g))

/-- The format xrnd names. -/
def xfcOf : XFc → FC
  | .s => .fp32 | .d => .fp64 | .h => .fp16 | .bf => .bf16

/-- The trap of an xrnd, with FPE as it stood when its packet issued (R285); of two in one packet the lower slot's stays. -/
def xrndTrap (g : Group) (o : Op) (dst : Operand) (ms : List Mask) : Option TrapReq :=
  match (firstCause g.fpeAtIssue ms).map (fun r => ({ cause := BitVec.ofNat 8 r.1, code := 0, mask := r.2, slot := o.slot, dest := dst.code } : TrapReq)), g.bound.xtrap with
  | some t, some u => if t.slot < u.slot then some t else some u
  | some t, none => some t
  | none, u => u

/-- xrnd: each lane's record rounded; its flags set and its trap due at completion. -/
def doXrnd (d : Dev) (id : Nat) (o : Op) (k : ExaKind) (fd : XFc) (dst : Operand) : Dev :=
  amWordGo d id o (fun d =>
    let r := fun x => exaRound k (amRead d o x) (xfcOf fd)
    let fl := fun l => match o.lanes.find? (fun x => x.lane == l) with
      | some x => (r x).2
      | none => 0#5
    let ms := flagMasks (o.lanes.map (fun x => x.lane)) fl
    engDone d id o (fun g =>
      let g := o.lanes.foldl (fun g x => putDest g dst (fd == .d) x.lane (BitVec.ofNat 64 (r x).1)) g
      { g with fps := orFps g.fps (flagsOf [(0, 0, ms)]), bound := { g.bound with xtrap := xrndTrap g o dst ms } }))

/-! ## xmov (R286) -/

/-- LEN and AOFF of a move word. -/
def xmovLen (o : Op) : Nat := bits o.d.toNat 32 21
def xmovOff (o : Op) : Nat := bits o.d.toNat 0 20

/-- The lowest reason of an xmov that breaks a rule (16 R453, R455, R460): a LEN of 0 moves nothing, whatever the other fields (R308);
a LEN that is not a multiple of 32 is an alignment break under R286 (log 65). -/
def xmovReason (d : Dev) (o : Op) : Option Nat :=
  if xmovLen o = 0 then none
  else if 2 ^ 56 ≤ o.a.toNat then some 0x20
  else if xmovOff o % 32 ≠ 0 ∨ xmovLen o % 32 ≠ 0 ∨ amSize d o.tid < xmovOff o + xmovLen o then some 0x22
  else if o.a.toNat % 32 ≠ 0 then some 0x27
  else none

/-- xmov.st: AM to memory, going on from the byte it had reached. -/
def doXmovSt (d : Dev) (id : Nat) (o : Op) (fi : Nat) : Dev :=
  match xmovReason d o with
  | some r => wordErr d id o (.prot r 0)
  | none =>
    let bs := ((tget d.teams o.tid).map (fun t => readBytes t.am (xmovOff o + o.prog) (xmovLen o - o.prog))).getD []
    match unitWrite d o.part (.team o.tid) (.remove o.core) (o.a.toNat + o.prog) bs fi with
    | (d1, _, none) => engDone d1 id o (fun g => g)
    | (d1, n, some e) => wordErr (modOp d1 id (fun o => { o with prog := o.prog + n })) id o e

/-- xmov.ld: memory to AM, going on from the byte it had reached. -/
def doXmovLd (d : Dev) (id : Nat) (o : Op) (fi : Nat) : Dev :=
  match xmovReason d o with
  | some r => wordErr d id o (.prot r 0)
  | none =>
    let x := unitReadList o.part (.team o.tid) fi ((List.range (xmovLen o - o.prog)).map (fun i => o.a.toNat + o.prog + i)) d
    let d1 := modTeam x.2.1 o.tid (fun t => { t with am := writeBytes t.am (xmovOff o + o.prog) x.1 })
    match x.2.2 with
    | none => engDone d1 id o (fun g => g)
    | some e => wordErr (modOp d1 id (fun o => { o with prog := o.prog + x.1.length })) id o e

end Sys2Proof.Machine
end

