-- ==== Sys2Proof/Machine/Trace.lean ====
section
/-! DEFINITION. The traversal unit: structures, the exact box and triangle tests, trace, ovq and refit (08 R287 to R293). -/

namespace Sys2Proof.Machine

/-! ## Structures (R287, R288) -/

/-- A structure header. -/
structure TuHdr where
  root : Nat
  vbase : Nat
  nvert : Nat
  flags : Nat
  reflist : Nat
  nref : Nat
  deriving DecidableEq, Repr, Inhabited

def parseTu (bs : List Byte) : TuHdr :=
  { root := at_ bs 0 8, vbase := at_ bs 8 8, nvert := at_ bs 16 4, flags := at_ bs 20 4, reflist := at_ bs 24 8, nref := at_ bs 32 4 }

/-- A header within its limits. -/
def tuOk (bs : List Byte) : Bool :=
  let h := parseTu bs
  h.root % 256 == 0 && h.vbase % 16 == 0 && bits h.flags 3 29 == 0 && h.reflist % 8 == 0 && zeros bs 36 28

/-- A child word: count, type and address. -/
structure Child where
  count : Nat
  kind : Nat
  addr : Nat
  deriving DecidableEq, Repr, Inhabited

/-- Child c of a node's 256 bytes. -/
def childOf (bs : List Byte) (c : Nat) : Child :=
  let w := at_ bs (192 + 8 * c) 8
  { count := bits w 58 6, kind := bits w 56 2, addr := bits w 0 56 }
/-- The six FP32 patterns of child c's box: lo x, y, z and hi x, y, z. -/
def boxOf (bs : List Byte) (c : Nat) : List Nat := (List.range 6).map (fun i => at_ bs (24 * c + 4 * i) 4)

/-- A triangle record with its three vertices' patterns; none when an index is NVERT or more. -/
structure TuTri where
  addr : Nat
  id : Nat
  verts : Option (List (List Nat))
  deriving DecidableEq, Repr, Inhabited

/-- Vertices by index: x, y and z each. -/
def tuVerts (h : TuHdr) : List Nat → Script (List (List Nat))
  | [] => .done []
  | i :: t => (readRun (h.vbase + 16 * i) 12).bind (fun bs =>
      (tuVerts h t).bind (fun vs => .done ((List.range 3).map (fun j => at_ bs (4 * j) 4) :: vs)))

/-- The triangle record at an address. -/
def tuTri (h : TuHdr) (va : Nat) : Script TuTri :=
  (readRun va 32).bind (fun bs =>
    let ix := (List.range 3).map (fun j => at_ bs (4 * j) 4)
    if ix.any (fun i => decide (h.nvert ≤ i)) then .done { addr := va, id := at_ bs 16 8, verts := none }
    else (tuVerts h ix).bind (fun vs => .done { addr := va, id := at_ bs 16 8, verts := some vs }))

/-- The triangle records of a leaf, in address order. -/
def tuLeaf (h : TuHdr) : Nat → Nat → Script (List TuTri)
  | 0, _ => .done []
  | n + 1, va => (tuTri h va).bind (fun t => (tuLeaf h n (va + 32)).bind (fun ts => .done (t :: ts)))

/-! ## The exact tests (R289) -/

/-- A vector of three finite patterns. -/
def vec3 (xs : List Nat) : Vec3 := ⟨q32 (xs.getD 0 0), q32 (xs.getD 1 0), q32 (xs.getD 2 0)⟩

/-- One axis of the box test: the interval narrowed, or none where a ray parallel to the axis misses. -/
def boxAxis (o d : Rat) (lo hi : ERat) (ab : ERat × ERat) : Option (ERat × ERat) :=
  if d = 0 then (if (ERat.q o).lt lo || hi.lt (.q o) then none else some ab)
  else
    let t1 := lo.slab o d
    let t2 := hi.slab o d
    some (ab.1.max (t1.min t2), ab.2.min (t1.max t2))

/-- box of R289: the entry of a hit, none for a miss. -/
def boxTest (o d : Vec3) (box : List Nat) (tlo thi : ERat) : Option ERat :=
  if box.any (fun x => (f32 x).isNan) then some tlo
  else
    let b := fun i => e32 (box.getD i 0)
    match boxAxis o.x d.x (b 0) (b 3) (tlo, thi) with
    | none => none
    | some r1 =>
      match boxAxis o.y d.y (b 1) (b 4) r1 with
      | none => none
      | some r2 =>
        match boxAxis o.z d.z (b 2) (b 5) r2 with
        | none => none
        | some r3 => if r3.1.le r3.2 then some r3.1 else none

/-- A triangle hit. -/
structure TriHit where
  t : Rat
  u : Rat
  v : Rat
  front : Bool
  deriving DecidableEq, Repr, Inhabited

/-- tri of R289. -/
def triTest (o d : Vec3) (vs : List (List Nat)) (tlo thi : ERat) : Option TriHit :=
  if vs.any (fun v => v.any (fun x => !fin32 x)) then none
  else
    let v := fun i => vec3 (vs.getD i [])
    let e1 := (v 1).sub (v 0)
    let e2 := (v 2).sub (v 0)
    let p := d.cross e2
    let det := e1.dot p
    if det = 0 then none
    else
      let s := o.sub (v 0)
      let q := s.cross e1
      let hu := s.dot p / det
      let hv := d.dot q / det
      let ht := e2.dot q / det
      if hu < 0 ∨ hv < 0 ∨ 1 < hu + hv ∨ (ERat.q ht).lt tlo ∨ thi.lt (.q ht) then none
      else some { t := ht, u := hu, v := hv, front := decide (0 < det) }

/-! ## trace (R290, R291) -/

/-- The best hit so far with its identifier, KIND replaced. -/
structure Best where
  h : TriHit
  id : Nat
  deriving DecidableEq, Repr, Inhabited

/-- The state of a lane's walk: the stack of nodes and leaves with their entries, the best hit, and the counts. -/
structure Walk3 where
  stack : List (ERat × Child)
  best : Option Best
  visits : Nat
  tests : Nat
  deriving DecidableEq, Repr, Inhabited

/-- The far end of the search: the best hit, or tmax. -/
def walkFar (w : Walk3) (tmax : ERat) : ERat :=
  match w.best with
  | some b => .q b.h.t
  | none => tmax

/-- The identifier of a hit: KIND 1 for a front face, 2 for a back face. -/
def hitId (id : Nat) (front : Bool) : Nat := id / 16 * 16 + (if front then 1 else 2)

/-- A hit is better than the best so far (R291). -/
def betterHit (b : Option Best) (h : TriHit) (id : Nat) : Bool :=
  match b with
  | none => true
  | some x => decide (h.t < x.h.t) || (h.t == x.h.t && decide (id < x.id))

/-- A triangle record tested (R291); the second result says that ANY has ended the walk. -/
def recTest (o d : Vec3) (flags : Nat) (tmin tmax : ERat) (r : TuTri) (w : Walk3) : Walk3 × Bool :=
  let w := { w with tests := w.tests + 1 }
  match r.verts.bind (fun vs => triTest o d vs tmin (walkFar w tmax)) with
  | none => (w, false)
  | some h =>
    if (h.front && bit flags 2) || (!h.front && bit flags 1) || !betterHit w.best h (hitId r.id h.front) then (w, false)
    else ({ w with best := some { h := h, id := hitId r.id h.front } }, bit flags 0)

/-- The records of a leaf read and tested in address order, each read only when its turn comes. -/
def leafWalk (h : TuHdr) (o d : Vec3) (tmin tmax : ERat) : Nat → Nat → Walk3 → Script (Walk3 × Bool)
  | 0, _, w => .done (w, false)
  | n + 1, va, w => (tuTri h va).bind (fun r =>
      match recTest o d h.flags tmin tmax r w with
      | (w1, true) => .done (w1, true)
      | (w1, false) => leafWalk h o d tmin tmax n (va + 32) w1)

/-- A child put in its place: ascending entry, then ascending number. -/
def insertChild (x : ERat × Child) : List (ERat × Child) → List (ERat × Child)
  | [] => [x]
  | y :: t => if x.1.lt y.1 then x :: y :: t else y :: insertChild x t

/-- The children of a node that the ray meets, nearest first. -/
def nodeHits (bs : List Byte) (o d : Vec3) (tmin far : ERat) : List (ERat × Child) :=
  (List.range 8).foldl (fun acc c =>
    let k := childOf bs c
    if k.kind = 1 ∨ k.kind = 2 then
      (match boxTest o d (boxOf bs c) tmin far with
       | some tn => insertChild (tn, k) acc
       | none => acc)
    else acc) []

/-- The walk of R291, within a number of pops. A push beyond 512 entries is 0x2B. -/
def walkGo (h : TuHdr) (o d : Vec3) (tmin tmax : ERat) : Nat → Walk3 → Script Walk3
  | 0, _ => .more
  | n + 1, w =>
    match w.stack with
    | [] => .done w
    | (tn, k) :: rest =>
      let w := { w with stack := rest }
      if (walkFar w tmax).lt tn then walkGo h o d tmin tmax n w
      else if k.kind = 1 then
        (readRun k.addr 256).bind (fun bs =>
          let st := nodeHits bs o d tmin (walkFar w tmax) ++ rest
          if 512 < st.length then .bad 0x2B
          else walkGo h o d tmin tmax n { w with visits := w.visits + 1, stack := st })
      else
        (leafWalk h o d tmin tmax k.count k.addr w).bind (fun r => if r.2 then .done r.1 else walkGo h o d tmin tmax n r.1)

/-- A count that saturates at 0xFFFF. -/
def sat16 (n : Nat) : Nat := min n 0xFFFF

/-- The registers of a finished walk (R290): a miss reads T = +∞, 0 and KIND 0. DESIGN CHOICE: the identifier's other bits are 0 on a miss
(log 95). -/
def walkRegs (w : Walk3) : List (Nat × Nat) :=
  let c := sat16 w.visits + sat16 w.tests * 65536
  match w.best with
  | some b => [(0, r32 b.h.t), (1, r32 b.h.u), (2, r32 b.h.v), (3, bits b.id 0 32), (4, bits b.id 32 32), (5, c), (6, 0), (7, 0)]
  | none => [(0, 0x7F800000), (1, 0), (2, 0), (3, 0), (4, 0), (5, c), (6, 0), (7, 0)]

/-- The result of a ray with an infinite origin or direction component is not stated: free values (log 2). -/
def freeRay (fi l : Nat) : List (Nat × Nat) :=
  (List.range 6).map (fun i => (i, (Config.freeWord (fi * 2 ^ 16 + 1024 + l * 8 + i)).toNat % 2 ^ 32)) ++ [(6, 0), (7, 0)]

/-- One lane of trace. A NaN component, or tmin > tmax, is a miss (R290, R308). -/
def traceLane (h : TuHdr) (fuel fi : Nat) (x : LaneIn) : Script (List (Nat × Nat)) :=
  let ray := (List.range 8).map (reg x)
  let tmin := e32 (reg x 3)
  let tmax := e32 (reg x 7)
  let start : Walk3 := { stack := [(tmin, { count := 0, kind := 1, addr := h.root })], best := none, visits := 0, tests := 0 }
  if ray.any (fun r => (f32 r).isNan) || tmax.lt tmin then .done (walkRegs { start with stack := [] })
  else if [0, 1, 2, 4, 5, 6].any (fun i => !fin32 (reg x i)) then .done (freeRay fi x.lane)
  else (walkGo h (vec3 (ray.take 3)) (vec3 ((ray.drop 4).take 3)) tmin tmax fuel start).bind (fun w => .done (walkRegs w))

/-- The bound on steps of a command's attempt: it doubles with every attempt that reached it (log 8). -/
def walkFuel (o : Op) : Nat := 2 ^ (12 + o.prog)

/-- trace: the header is read once, then every lane's ray walks; a lane that waits on a page begins again from ROOT (15 R441). -/
def doTrace (d : Dev) (id : Nat) (o : Op) (dst : Operand) (fi n : Nat) : Dev :=
  match readDesc d id o 64 tuOk fi with
  | .error e => wordErr d id o e
  | .ok (hb, d1) => blockGo d1 id o dst fi n false (traceLane (parseTu hb) (walkFuel o) fi)

/-! ## ovq (R292) -/

/-- fmin and fmax of a list of patterns, folded in order (04 R123); none of an empty list. A NaN that is left is the canonical one
(04 R117). -/
def foldMM (mx : Bool) : List Nat → Option Nat
  | [] => none
  | x :: t => some (canon32 (t.foldl (fun a b => (fminmax .fp32 mx a b).1) x))

/-- The box of a set of points: lo x, y, z and hi x, y, z; none of an empty set (R292, R293). -/
def boxPoints (los his : List (List Nat)) : Option (List Nat) :=
  let ax := fun (vs : List (List Nat)) (i : Nat) => vs.map (fun v => v.getD i 0)
  ([foldMM false (ax los 0), foldMM false (ax los 1), foldMM false (ax los 2), foldMM true (ax his 0), foldMM true (ax his 1), foldMM true (ax his 2)]).mapM id

/-- The distance from a point to an interval on one axis, as an extended value. -/
def axisGap (c lo hi : ERat) : ERat :=
  let sub := fun (a b : ERat) => match a, b with
    | .q x, .q y => ERat.q (x - y)
    | _, _ => .pinf
  if c.lt lo then sub lo c else if hi.lt c then sub c hi else .q 0

/-- The sum of three squares of extended values that are not negative. -/
def sumSq (xs : List ERat) : ERat :=
  xs.foldl (fun acc x => match acc, x with
    | .q a, .q b => .q (a + b * b)
    | _, _ => .pinf) (.q 0)

/-- A triangle's box meets the query of a block (R292): both bounds count; a NaN meets nothing. -/
def ovqMeets (x : LaneIn) (box : List Nat) : Bool :=
  let b := fun i => e32 (box.getD i 0)
  let q := fun i => e32 (reg x i)
  let nan := fun (xs : List Nat) => xs.any (fun v => (f32 v).isNan)
  if bit (reg x 6) 0 then
    !nan (box ++ (List.range 4).map (reg x)) && !(q 3).lt (.q 0) &&
    (sumSq ((List.range 3).map (fun i => axisGap (q i) (b i) (b (i + 3))))).le (sumSq [q 3])
  else !nan (box ++ (List.range 6).map (reg x)) && (List.range 3).all (fun i => (b i).le (q (i + 3)) && (q i).le (b (i + 3)))

/-- The matches of an ovq lane so far: the addresses of the first CAP records, in order, and TOTAL. -/
structure Ovq where
  stack : List Child
  list : List Nat
  total : Nat
  deriving DecidableEq, Repr, Inhabited

/-- A leaf's records matched in address order. -/
def ovqLeaf (x : LaneIn) (cap : Nat) (ts : List TuTri) (w : Ovq) : Ovq :=
  ts.foldl (fun w t =>
    match t.verts.bind (fun vs => boxPoints vs vs) with
    | some box => if ovqMeets x box then { w with total := w.total + 1, list := if w.total < cap then w.list ++ [t.addr] else w.list } else w
    | none => w) w

/-- The walk of an ovq lane: depth first, children in ascending number. -/
def ovqGo (h : TuHdr) (x : LaneIn) : Nat → Ovq → Script Ovq
  | 0, _ => .more
  | n + 1, w =>
    match w.stack with
    | [] => .done w
    | k :: rest =>
      if k.kind = 1 then
        (readRun k.addr 256).bind (fun bs =>
          let st := ((List.range 8).map (childOf bs)).filter (fun c => c.kind == 1 || c.kind == 2) ++ rest
          if 512 < st.length then .bad 0x2B else ovqGo h x n { w with stack := st })
      else (tuLeaf h k.count k.addr).bind (fun ts => ovqGo h x n (ovqLeaf x (bits (reg x 6) 16 16) ts { w with stack := rest }))

/-- The list of a lane written in the issuing team's scratchpad, entry by entry; one beyond the allotment is 0x21. -/
def ovqWrite (o : Op) (off : Nat) : List Nat → Nat → Dev → Except MemErr Dev
  | [], _, d => .ok d
  | a :: t, n, d =>
    let at_ := off + 8 * n
    match tget d.teams o.tid with
    | none => .error (.prot 0x21 at_)
    | some u =>
      if at_ + 8 ≤ spadSize d u then ovqWrite o off t (n + 1) (modTeam d o.tid (fun u => { u with spad := writeBytes u.spad at_ (leBytes a 8) }))
      else .error (.prot 0x21 at_)

/-- One lane of ovq: TOTAL, WRITTEN, and from 2 on its list. LOFF that is not a multiple of 8 is a block field outside its limits. -/
def ovqLane (h : TuHdr) (fuel : Nat) (x : LaneIn) : Script (List (Nat × Nat)) :=
  if reg x 7 % 8 ≠ 0 then .bad 0x2A
  else (ovqGo h x fuel { stack := [{ count := 0, kind := 1, addr := h.root }], list := [], total := 0 }).bind (fun w =>
    .done ((0, w.total % 2 ^ 32) :: (1, w.list.length) :: ((List.range w.list.length).zip w.list).map (fun y => (2 + y.1, y.2))))

/-- The lists of the lanes written, in ascending lane: the first lane whose list passes the allotment, and the device. -/
def ovqLists (o : Op) : List LaneIn → Dev → Option (Nat × MemErr) × Dev
  | [], d => (none, d)
  | x :: t, d =>
    match ovqWrite o (reg x 7) (((tgetD o.outs x.lane []).drop 2).map (fun y => y.2)) 0 d with
    | .error e => (some (x.lane, e), d)
    | .ok d1 => ovqLists o t d1

/-- The end of an ovq: its lists, then its registers. -/
def ovqEnd (id : Nat) (dst : Operand) (d : Dev) (o : Op) : Dev :=
  match ovqLists o o.lanes d with
  | (some (l, e), d1) => engErr d1 id o l e
  | (none, d1) => engDone d1 id o (putRuns dst ((laneOuts o).map (fun r => (r.1, r.2.take 2))))

/-- ovq: lanes in ascending order. -/
def doOvq (d : Dev) (id : Nat) (o : Op) (dst : Operand) (fi n : Nat) : Dev :=
  match readDesc d id o 64 tuOk fi with
  | .error e => wordErr d id o e
  | .ok (hb, d1) => commandGo d1 id o fi n false (ovqLane (parseTu hb) (walkFuel o)) (ovqEnd id dst)

/-! ## refit (R293) -/

/-- The box of a child from the vertices of its leaf or the boxes of its node, none for a child whose box is not written. -/
def refitBox (h : TuHdr) (k : Child) : Script (Option (List Nat)) :=
  let emptyBox := [0x7F800000, 0x7F800000, 0x7F800000, 0xFF800000, 0xFF800000, 0xFF800000]
  if k.kind = 2 then
    (tuLeaf h k.count k.addr).bind (fun ts =>
      let vs := ts.flatMap (fun t => t.verts.getD [])
      .done (some ((boxPoints vs vs).getD emptyBox)))
  else if k.kind = 1 then
    (readRun k.addr 256).bind (fun bs =>
      let bxs := ((List.range 8).filter (fun c => (childOf bs c).kind == 1 || (childOf bs c).kind == 2)).map (boxOf bs)
      .done (some ((boxPoints (bxs.map (fun b => b.take 3)) (bxs.map (fun b => b.drop 3))).getD emptyBox)))
  else .done none

/-- The children of a node rewritten in order. -/
def refitNode (h : TuHdr) (node : Nat) : List Nat → Script Unit
  | [] => .done ()
  | c :: t =>
    (readRun (node + 192 + 8 * c) 8).bind (fun w =>
      (refitBox h (childOf (List.replicate 192 0#8 ++ w) 0)).bind (fun box =>
        match box with
        | none => refitNode h node t
        | some xs => (writeRun (node + 24 * c) (xs.flatMap (fun x => leBytes x 4))).bind (fun _ => refitNode h node t)))

/-- List entry n of a refit. -/
def refitEntry (h : TuHdr) (n : Nat) : Script Unit :=
  (readRun (h.reflist + 8 * n) 8).bind (fun bs => refitNode h (at_ bs 0 8) (List.range 8))

/-- How a refit stops: it has done every entry, its accesses are used up, or an access failed. -/
inductive RefitEnd where
  | done | pause | err (e : MemErr)
  deriving DecidableEq, Repr, Inhabited

/-- The list entries of a refit from the one it has reached, with at most b accesses; a fault makes it redo its entry (15 R441). -/
def refitList (id : Nat) (h : TuHdr) (fi : Nat) : Nat → Nat → Dev → RefitEnd × Dev
  | 0, _, d => (.done, d)
  | k + 1, b, d =>
    match tget d.ops id with
    | none => (.pause, d)
    | some o =>
      let old := tgetD o.logs 0 []
      let r := runScript o.part (.team o.tid) (.remove o.core) fi (refitEntry h o.prog) old b d
      match r.out with
      | .ok (some _) => refitList id h fi k r.left (modOp r.dev id (fun o => { o with prog := o.prog + 1, logs := [] }))
      | .ok none => (.pause, modOp r.dev id (fun o => { o with logs := tput o.logs 0 (old ++ r.log) }))
      | .error e => (.err e, modOp r.dev id (fun o => { o with logs := [] }))

/-- refit: the list entries in order, unit by unit. -/
def doRefit (d : Dev) (id : Nat) (o : Op) (fi n : Nat) : Dev :=
  match readDesc d id o 64 tuOk fi with
  | .error e => wordErr d id o e
  | .ok (hb, d1) =>
    let h := parseTu hb
    match refitList id h fi (h.nref - o.prog) n d1 with
    | (.done, d2) => engDone d2 id o (fun g => g)
    | (.pause, d2) => d2
    | (.err e, d2) => wordErr d2 id o e

end Sys2Proof.Machine
end

