-- ==== Sys2Proof/Machine/March.lean ====
section
/-! DEFINITION. The volume-march unit (08 R294 to R297). FP32 values stand as patterns; every rounding is to nearest even. -/

namespace Sys2Proof.Machine

/-- A medium descriptor (R294). -/
structure Medium where
  maj : Nat
  den : Nat
  nx : Nat
  ny : Nat
  nz : Nat
  f : Nat
  sigma : Nat
  ratio : Bool
  given : Bool
  xf : List Nat
  key : Nat
  limit : Nat
  ndraw : Nat
  deriving DecidableEq, Repr, Inhabited

def parseMedium (bs : List Byte) : Medium :=
  let w := at_ bs 16 8
  let t := at_ bs 28 4
  { maj := at_ bs 0 8, den := at_ bs 8 8, nx := bits w 0 16, ny := bits w 16 16, nz := bits w 32 16, f := 2 ^ bits w 48 2, sigma := at_ bs 24 4,
    ratio := bit t 0, given := bit t 1, xf := (List.range 12).map (fun i => at_ bs (32 + 4 * i) 4), key := at_ bs 80 8, limit := at_ bs 88 4,
    ndraw := at_ bs 92 4 }

/-- A descriptor within its limits. -/
def mediumOk (bs : List Byte) : Bool :=
  let m := parseMedium bs
  let n := fun (x : Nat) => decide (1 ≤ x) && decide (x ≤ 4096)
  n m.nx && n m.ny && n m.nz && bits (at_ bs 16 8) 50 14 == 0 && bits (at_ bs 28 4) 2 30 == 0 && (!m.given || m.key % 4 == 0) && zeros bs 96 32

/-- One axis of a march in grid space: og, dg and the cells. -/
structure Axis where
  o : Nat
  d : Nat
  n : Nat
  deriving DecidableEq, Repr, Inhabited

/-- The pattern of a small integer. -/
def natF (n : Nat) : Nat := (rnd (ofInt n) .fp32 .rne 0).1
/-- dg of an axis is 0, or above 0. -/
def Axis.flat (a : Axis) : Bool := (f32 a.d).isZero
def Axis.up (a : Axis) : Bool := ltF 0 a.d

/-- tb(a, b) := rnd((b - og) / dg) (R296). -/
def tb (a : Axis) (b : Nat) : Nat :=
  (rnd (xDiv (xAdd .rne (ofInt b) (f32 a.o).neg).1 (f32 a.d)).1 .fp32 .rne 0).1

/-- The cell index at t on an axis (R296). -/
def cellIdx (a : Axis) (t : Nat) : Nat :=
  if a.flat then ((q32 a.o).floor).toNat
  else if a.up then (((List.range a.n).reverse.find? (fun i => i == 0 || leF (tb a i) t)).getD 0)
  else (((List.range a.n).find? (fun i => i + 1 == a.n || leF (tb a (i + 1)) t)).getD 0)

/-- The axis's next boundary at t, if it has one. -/
def nextBound (a : Axis) (t : Nat) : Option Nat :=
  let i := cellIdx a t
  if a.flat then none
  else if a.up then (if i + 1 < a.n then some (tb a (i + 1)) else none)
  else if 0 < i then some (tb a i) else none

/-- The lesser and the greater of two patterns that are not NaN. -/
def minF (a b : Nat) : Nat := if ltF b a then b else a
def maxF (a b : Nat) : Nat := if ltF a b then b else a

/-- te(t): the end of the cell (R296). -/
def cellEnd (ax : List Axis) (t t1 : Nat) : Nat := (ax.filterMap (fun a => nextBound a t)).foldl minF t1

/-- The box test of the grid on one axis: the interval narrowed, or none. -/
def gridAxis (a : Axis) (r : Nat × Nat) : Option (Nat × Nat) :=
  if a.flat then (if leF 0 a.o && ltF a.o (natF a.n) then some r else none)
  else
    let x := tb a 0
    let y := tb a a.n
    some (maxF r.1 (minF x y), minF r.2 (maxF x y))

/-- t0 and t1: the ray's stretch in the grid; none where the box is missed. -/
def gridBox (ax : List Axis) (tmin tmax : Nat) : Option (Nat × Nat) :=
  match ax.foldl (fun r a => r.bind (gridAxis a)) (some (tmin, tmax)) with
  | some r => if leF r.1 r.2 then some r else none
  | none => none

/-- An FP16 value times SIGMA, rounded to FP32. -/
def sigmaTimes (m : Medium) (h : Nat) : Nat := (rnd (xMul (f32 m.sigma) (unpack .fp16 h)).1 .fp32 .rne 0).1

/-- μ at a cell. -/
def majorant (m : Medium) (c : List Nat) : Script Nat :=
  let i := fun k => c.getD k 0
  (readRun (m.maj + 2 * (i 0 + m.nx * (i 1 + m.ny * i 2))) 2).bind (fun bs => .done (sigmaTimes m (at_ bs 0 2)))

/-- The density cell on an axis at t, in the cell of index i (R296). -/
def denIdx (a : Axis) (f i t : Nat) : Nat :=
  let x : Nat := if a.flat then a.o else fmaF a.o t a.d
  let j : Int := match f32 x with
    | .fin n d e => (finFloor (n * f) d e).1
    | .inf false => (f * i + f - 1 : Nat)
    | _ => 0
  if j < (f * i : Nat) then f * i else if (f * i + f - 1 : Nat) < j then f * i + f - 1 else j.toNat

/-- σ at t. -/
def density (m : Medium) (ax : List Axis) (c : List Nat) (t : Nat) : Script Nat :=
  let i := fun k => denIdx (ax.getD k default) m.f (c.getD k 0) t
  (readRun (m.den + 2 * (i 0 + m.f * m.nx * (i 1 + m.f * m.ny * i 2))) 2).bind (fun bs => .done (sigmaTimes m (at_ bs 0 2)))

/-- Draw n of the command is available (R295). -/
def drawReady (m : Medium) (c n : Nat) : Bool := !m.given || decide ((c + n) % 2 ^ 64 < m.ndraw)

/-- Draw n of the command as an exact value below 1 (R295). -/
def drawAt (m : Medium) (c n : Nat) : Script XVal :=
  if m.given then (readRun (m.key + 4 * ((c + n) % 2 ^ 64)) 4).bind (fun bs => .done (mkFin (at_ bs 0 4 / 256 : Nat) 1 (-24) false))
  else .done (drawU (BitVec.ofNat 64 m.key) (BitVec.ofNat 64 (c + n)))

/-- -lg(1 - u) as a pattern (R297). -/
def negLog (u : XVal) : Nat :=
  let x := (rnd (xAdd .rne (.fin 1 1 0) u.neg).1 .fp32 .rne 0).1
  (rnd (f32 (sfn .fp32 .log2 (f32 x)).1).neg .fp32 .rne 0).1

/-- The state of a lane's march: t, draws consumed, and T. -/
structure March where
  t : Nat
  k : Nat
  tr : Nat
  deriving DecidableEq, Repr, Inhabited

/-- What one free flight does: it stays in its cell, it leaves it, or the march ends with its STATUS. -/
inductive Flight where
  | stay (m : March)
  | leave (m : March)
  | stop (status : Nat) (m : March)
  deriving DecidableEq, Repr, Inhabited

/-- The tentative collision at tn inside the cell (R297). -/
def collide (m : Medium) (ax : List Axis) (c : List Nat) (c0 mu : Nat) (w : March) : Script Flight :=
  (density m ax c w.t).bind (fun sig =>
    if m.ratio then .done (.stay { w with tr := mulF w.tr (subF 0x3F800000 (divF sig mu)) })
    else (drawAt m c0 w.k).bind (fun q =>
      let w := { w with k := w.k + 1 }
      .done (if ltX (xMul q (f32 mu)).1 (f32 sig) then .stop 0 w else .stay w)))

/-- One free flight from t in a cell whose majorant is above 0. -/
def flight (m : Medium) (ax : List Axis) (c : List Nat) (c0 mu te : Nat) (w : March) : Script Flight :=
  let need := if m.ratio then 1 else 2
  if (m.limit ≠ 0 ∧ m.limit < w.k + need) ∨ !(List.range need).all (fun i => drawReady m c0 (w.k + i)) then .done (.stop 2 w)
  else (drawAt m c0 w.k).bind (fun u =>
    let tn := addF w.t (divF (negLog u) mu)
    let w := { w with k := w.k + 1 }
    if leF te tn then .done (.leave { w with t := te }) else collide m ax c c0 mu { w with t := tn })

/-- The march of R297 within a number of flights and cells: STATUS and the state at its end. A cell is visited with its number, its end
and its majorant, which is read once for the visit. -/
def marchGo (m : Medium) (ax : List Axis) (c0 t1 : Nat) : Nat → Option (List Nat × Nat × Nat) → March → Script (Nat × March)
  | 0, _, _ => .more
  | n + 1, none, w =>
    if !ltF w.t t1 then .done (1, { w with t := t1 })
    else
      let c := ax.map (fun a => cellIdx a w.t)
      let te := cellEnd ax w.t t1
      (majorant m c).bind (fun mu =>
        if !ltF 0 mu then marchGo m ax c0 t1 n none { w with t := te } else marchGo m ax c0 t1 n (some (c, te, mu)) w)
  | n + 1, some (c, te, mu), w =>
    (flight m ax c c0 mu te w).bind (fun f =>
      match f with
      | .stop st w1 => .done (st, w1)
      | .leave w1 => marchGo m ax c0 t1 n none w1
      | .stay w1 => marchGo m ax c0 t1 n (some (c, te, mu)) w1)

/-- A row of XF applied to (v, w): the exact sum rounded once. -/
def xfRow (m : Medium) (r : Nat) (v : List Nat) (w : Bool) : Nat :=
  let e := fun i => q32 (m.xf.getD (4 * r + i) 0)
  r32 (e 0 * q32 (v.getD 0 0) + e 1 * q32 (v.getD 1 0) + e 2 * q32 (v.getD 2 0) + (if w then e 3 else 0))

/-- The grid-space ray (R296). -/
def gridRay (m : Medium) (x : LaneIn) : List Axis :=
  let o := [reg x 0, reg x 1, reg x 2]
  let d := [reg x 4, reg x 5, reg x 6]
  [(0, m.nx), (1, m.ny), (2, m.nz)].map (fun (p : Nat × Nat) => { o := xfRow m p.1 o true, d := xfRow m p.1 d false, n := p.2 })

/-- The registers of a finished march (R295). The position is NaN for a ray that misses before any march begins; a NaN tmax or, in
ratio tracking, a NaN T comes back as the canonical NaN (04 R117); delta tracking leaves D+11 as it is. -/
def marchRegs (m : Medium) (x : LaneIn) (c0 status : Nat) (w : March) (nopos : Bool) : List (Nat × Nat) :=
  let c := (c0 + w.k) % 2 ^ 64
  let pos := fun i => if nopos then nan32 else fmaF (reg x i) w.t (reg x (4 + i))
  [(3, canon32 w.t), (8, c % 2 ^ 32), (9, c / 2 ^ 32), (10, status + w.k % 2 ^ 24 * 256), (11, if m.ratio then canon32 w.tr else reg x 11),
    (12, pos 0), (13, pos 1), (14, pos 2)]

/-- One lane of vmarch. -/
def marchLane (m : Medium) (fuel : Nat) (x : LaneIn) : Script (List (Nat × Nat)) :=
  let c0 := reg x 8 + reg x 9 * 2 ^ 32
  let w : March := { t := reg x 7, k := 0, tr := reg x 11 }
  let nan := fun r => (f32 r).isNan
  if [0, 1, 2, 4, 5, 6].any (fun i => !fin32 (reg x i)) || nan (reg x 3) || nan (reg x 7) || m.xf.any (fun e => !fin32 e) then
    .done (marchRegs m x c0 1 w true)
  else
    let ax := gridRay m x
    if ax.any (fun a => !fin32 a.o || !fin32 a.d) then .done (marchRegs m x c0 1 w true)
    else
      match gridBox ax (reg x 3) (reg x 7) with
      | none => .done (marchRegs m x c0 1 w false)
      | some (t0, t1) =>
        if !ltF t0 t1 then .done (marchRegs m x c0 1 w false)
        else (marchGo m ax c0 t1 fuel none { w with t := t0 }).bind (fun r => .done (marchRegs m x c0 r.1 r.2 false))

/-- vmarch: every lane marches; one that waits on a page keeps t, C + k and T, which what it has read gives, and goes on from there
(15 R441). -/
def doVmarch (d : Dev) (id : Nat) (o : Op) (dst : Operand) (fi n : Nat) : Dev :=
  match readDesc d id o 128 mediumOk fi with
  | .error e => wordErr d id o e
  | .ok (mb, d1) => blockGo d1 id o dst fi n true (marchLane (parseMedium mb) (walkFuel o))

end Sys2Proof.Machine
end

