-- ==== Sys2Proof/Machine/Shade.lean ====
section
/-! DEFINITION. The attribute engine, the sampler, slug reads, ray bins and the decoupled sampling cache (08 R298 to R306, 10 R353
and R355). -/

namespace Sys2Proof.Machine

/-! ## attr (R298, R299) -/

/-- An attribute descriptor within its limits. -/
def attrOk (bs : List Byte) : Bool := zeros bs 20 12

/-- The fields of a visibility identifier (10): instance, cluster and triangle. -/
def idInst (x : Nat) : Nat := bits x 40 24
def idClus (x : Nat) : Nat := bits x 12 28
def idTri (x : Nat) : Nat := bits x 4 8

/-- 22 registers of one value. -/
def attrAll (x : Nat) : List (Nat × Nat) := (List.range 22).map (fun i => (i, x))

/-- Vertex i's clip x, y and w; its clip patterns; interpolant n. -/
def clipVec (vs : List (List Byte)) (i : Nat) : Vec3 :=
  let b := vs.getD i []
  ⟨q32 (at_ b 0 4), q32 (at_ b 4 4), q32 (at_ b 12 4)⟩
def clipPats (vs : List (List Byte)) : List Nat := vs.flatMap (fun b => (List.range 4).map (fun j => at_ b (4 * j) 4))
def interp (vs : List (List Byte)) (i n : Nat) : Nat := at_ (vs.getD i []) (16 + 4 * n) 4

/-- A product of a weight and a pattern is -0; a weight of 0 counts as +0. DESIGN CHOICE: log 87. -/
def negZeroTerm (l : Rat) (x : Nat) : Bool := (decide (l = 0) || decide (q32 x = 0)) && (decide (l < 0) != bit x 31)

/-- D+6+n: the interpolant at the pixel, -0 where every addend is -0 (04 R119), and the canonical NaN where a vertex's value is not
finite. -/
def attrInterp (vs : List (List Byte)) (lam : Nat → Rat) (n : Nat) : Nat :=
  if (List.range 3).all (fun i => fin32 (interp vs i n)) then
    (if (List.range 3).all (fun i => negZeroTerm (lam i) (interp vs i n)) then 0x80000000
     else r32 (lam 0 * q32 (interp vs 0 n) + lam 1 * q32 (interp vs 1 n) + lam 2 * q32 (interp vs 2 n)))
  else nan32

/-- The 22 registers of a triangle with finite inputs (R299). A λ or a derivative that is exactly 0 is +0 (log 87). -/
def attrRegs (vs : List (List Byte)) (ni : Nat) (px py vw vh : Rat) : List (Nat × Nat) :=
  let v := clipVec vs
  let pt : Vec3 := ⟨2 * px / vw - 1, 1 - 2 * py / vh, 1⟩
  let c := fun i => (v ((i + 1) % 3)).cross (v ((i + 2) % 3))
  let e := fun i => (c i).dot pt
  let s := e 0 + e 1 + e 2
  let g := (c 0).x + (c 1).x + (c 2).x
  let h := (c 0).y + (c 1).y + (c 2).y
  if s = 0 then attrAll nan32
  else
    let lam := fun i => e i / s
    let dx := fun i => r32 (2 / vw * (((c i).x * s - e i * g) / (s * s)))
    let dy := fun i => r32 (-2 / vh * (((c i).y * s - e i * h) / (s * s)))
    [(0, r32 (lam 1)), (1, r32 (lam 2)), (2, dx 1), (3, dy 1), (4, dx 2), (5, dy 2)] ++
      (List.range 16).map (fun n => (6 + n, if n < ni then attrInterp vs lam n else 0))

/-- One lane of attr. -/
def attrLane (desc : List Byte) (x : LaneIn) : Script (List (Nat × Nat)) :=
  let id := reg x 0 + reg x 1 * 2 ^ 32
  if id % 16 = 0 then .done (attrAll 0)
  else (triTables (at_ desc 0 8) (at_ desc 8 4) (idInst id) (idClus id) (idTri id) true).bind (fun t =>
    match t with
    | none => .bad 0x2E
    | some t => (triVerts t (16 + 4 * t.ni)).bind (fun vs =>
        let ins := [reg x 2, reg x 3, at_ desc 12 4, at_ desc 16 4]
        let q := fun i => q32 (ins.getD i 0)
        .done (if !(ins ++ clipPats vs).all fin32 || decide (q 2 = 0) || decide (q 3 = 0) then attrAll nan32
          else attrRegs vs t.ni (q 0) (q 1) (q 2) (q 3))))

/-- attr. -/
def doAttr (d : Dev) (id : Nat) (o : Op) (dst : Operand) (fi n : Nat) : Dev :=
  match readDesc d id o 32 attrOk fi with
  | .error e => wordErr d id o e
  | .ok (bs, d1) => blockGo d1 id o dst fi n true (attrLane bs)

/-! ## tex (R305, R306, 04 R141) -/

/-- A texture descriptor. -/
structure Tex where
  base : Nat
  wid : Nat
  hgt : Nat
  levels : Nat
  fmt : Nat
  filt : Nat
  clampTo : Bool
  deriving DecidableEq, Repr, Inhabited

def parseTex (bs : List Byte) : Tex :=
  let w := at_ bs 8 8
  { base := at_ bs 0 8, wid := bits w 0 16, hgt := bits w 16 16, levels := bits w 32 4, fmt := bits w 36 2, filt := bits w 38 2, clampTo := bit w 40 }

/-- A texture descriptor within its limits. -/
def texOk (bs : List Byte) : Bool :=
  let t := parseTex bs
  let size := fun (n : Nat) => decide (1 ≤ n) && decide (n ≤ 16384)
  t.base % 256 == 0 && size t.wid && size t.hgt && decide (1 ≤ t.levels) && t.fmt != 3 && t.filt != 3 && bits (at_ bs 8 8) 41 23 == 0 && zeros bs 16 16

/-- The size of a texel, and of a level's side. -/
def texelSize (t : Tex) : Nat := if t.fmt = 1 then 8 else 4
def levelSide (n m : Nat) : Nat := max 1 (n / 2 ^ m)
/-- The address at which level m starts. -/
def levelBase (t : Tex) : Nat → Nat
  | 0 => t.base
  | m + 1 => (levelBase t m + levelSide t.wid m * levelSide t.hgt m * texelSize t + 255) / 256 * 256

/-- A texel coordinate brought into its level. -/
def texWrap (t : Tex) (i : Int) (n : Nat) : Nat :=
  if t.clampTo then (if i < 0 then 0 else min i.toNat (n - 1)) else (i % (n : Int)).toNat

/-- The four channels of a texel's bytes as FP32 patterns (04 R141). -/
def texel (fmt : Nat) (bs : List Byte) : List Nat :=
  match fmt with
  | 0 => (List.range 4).map (fun i => r32 (mkRat (at_ bs i 1) 255))
  | 1 => (List.range 4).map (fun i => (rnd (unpack .fp16 (at_ bs (2 * i) 2)) .fp32 .rne 0).1)
  | _ => [canon32 (at_ bs 0 4), 0, 0, 0x3F800000]

/-- Terms of a filtered sample: a weight, a level and a texel. -/
structure TexTerm where
  w : Rat
  m : Nat
  i : Int
  j : Int
  deriving DecidableEq, Repr, Inhabited

/-- q8(f). -/
def q8 (f : Rat) : Rat := mkRat (f * 256).floor 256

/-- bil(m, u, v): its four terms. -/
def bilinear (t : Tex) (m : Nat) (u v : Rat) : List TexTerm :=
  let x := u * (levelSide t.wid m : Rat) - 1 / 2
  let y := v * (levelSide t.hgt m : Rat) - 1 / 2
  let i := x.floor
  let j := y.floor
  let a := q8 (x - i)
  let b := q8 (y - j)
  [⟨(1 - a) * (1 - b), m, i, j⟩, ⟨a * (1 - b), m, i + 1, j⟩, ⟨(1 - a) * b, m, i, j + 1⟩, ⟨a * b, m, i + 1, j + 1⟩]

/-- floor of lod + h limited to the levels. -/
def lodLevel (t : Tex) (lod : XVal) (h : Rat) : Nat :=
  match lod with
  | .inf neg => if neg then 0 else t.levels - 1
  | .nan _ => 0
  | y => let k := (y.rat + h).floor
         if k < 0 then 0 else min k.toNat (t.levels - 1)

/-- The terms of a sample that have a weight (R306). -/
def texTerms (t : Tex) (u v : Rat) (lod : XVal) : List TexTerm :=
  let near := lodLevel t lod (1 / 2)
  let all : List TexTerm := match t.filt with
    | 0 => [⟨1, near, (u * (levelSide t.wid near : Rat)).floor, (v * (levelSide t.hgt near : Rat)).floor⟩]
    | 1 => bilinear t near u v
    | _ =>
      let m0 := lodLevel t lod 0
      let m1 := min (m0 + 1) (t.levels - 1)
      let l := lod.rat
      let f := if lod.isFin && decide (0 ≤ l) && decide (l < ((t.levels - 1 : Nat) : Rat)) then q8 (l - l.floor) else 0
      (bilinear t m0 u v).map (fun (x : TexTerm) => { x with w := (1 - f) * x.w }) ++ (bilinear t m1 u v).map (fun (x : TexTerm) => { x with w := f * x.w })
  all.filter (fun x => x.w != 0)

/-- The texels of the terms, each with its weight. -/
def texFetch (t : Tex) : List TexTerm → Script (List (Rat × List Nat))
  | [] => .done []
  | x :: r =>
    let w := levelSide t.wid x.m
    let a := levelBase t x.m + (texWrap t x.j (levelSide t.hgt x.m) * w + texWrap t x.i w) * texelSize t
    (readRun a (texelSize t)).bind (fun bs => (texFetch t r).bind (fun ts => .done ((x.w, texel t.fmt bs) :: ts)))

/-- One term's value in a channel: exact. -/
def texValue (c : Nat) (x : Rat × List Nat) : XVal := (xMul (ratX x.1) (f32 (x.2.getD c 0))).1

/-- A channel: the exact sum of its terms, rounded once. -/
def texChannel (xs : List (Rat × List Nat)) (c : Nat) : Nat :=
  match xs.map (texValue c) with
  | [] => 0
  | y :: ys => canon32 (rnd (ys.foldl (fun a b => (xAdd .rne a b).1) y) .fp32 .rne 0).1

/-- One lane of tex. -/
def texLane (t : Tex) (x : LaneIn) : Script (List (Nat × Nat)) :=
  let uv := fun i => if fin32 (reg x i) then q32 (reg x i) else 0
  let lod := if (f32 (reg x 2)).isNan then ofInt 0 else f32 (reg x 2)
  (texFetch t (texTerms t (uv 0) (uv 1) lod)).bind (fun xs => .done ((List.range 4).map (fun c => (c, texChannel xs c))))

/-- tex. -/
def doTex (d : Dev) (id : Nat) (o : Op) (dst : Operand) (fi n : Nat) : Dev :=
  match readDesc d id o 32 texOk fi with
  | .error e => wordErr d id o e
  | .ok (bs, d1) => blockGo d1 id o dst fi n true (texLane (parseTex bs))

/-! ## slg (R304, 10 R353) -/

/-- The sixteen registers of 64 bytes. -/
def slgRegs (bs : List Byte) : List (Nat × Nat) := (List.range 16).map (fun i => (i, at_ bs (4 * i) 4))

/-- One lane of slg: an entry that is not in the batch reads 64 zero bytes. -/
def slgLane (g : Group) (y : GalDesc) (x : LaneIn) : Script (List (Nat × Nat)) :=
  match tget g.batch ((x.a.setWidth 32).toNat % g.width) with
  | none => .done (slgRegs [])
  | some i => (readRun (recAddr y i) 32).bind (fun rb => (readRun (slugAddr y i) 32).bind (fun sb => .done (slgRegs (rb ++ sb))))

/-- slg: in a group that no galley launched it is 0x2F. -/
def doSlg (d : Dev) (id : Nat) (o : Op) (dst : Operand) (fi n : Nat) : Dev :=
  match tget d.groups o.gid with
  | none => d
  | some g =>
    match g.galley with
    | none => wordErr d id o (.prot 0x2F 0)
    | some gal =>
      if (galley d o.part gal).bad || waiting d (.galley o.part gal) then d
      else
        match galDesc d o.part gal fi with
        | .error e => galFail d o.part gal e
        | .ok (y, d1) => blockGo d1 id o dst fi n true (slgLane g y)

/-! ## rbin (R302, R303) -/

/-- A galley set descriptor within its limits. -/
def gsetOk (bs : List Byte) : Bool := zeros bs 24 8

/-- The material and galley of an identifier (R303): an INST or a CLUS out of range is 0x2E (R298). -/
def rbinGalley (g : GalSet) (id : Nat) : Script (Nat × Nat) :=
  if id % 16 = 0 then .done (0xFFFF, g.missg)
  else if g.ninst ≤ idInst id then .bad 0x2E
  else (readRun (g.itab + 32 * idInst id + 8) 8).bind (fun bs =>
    let mat := at_ bs 4 2
    if at_ bs 0 4 ≤ idClus id then .bad 0x2E
    else if g.nmat ≤ mat then .done (mat, g.missg)
    else (readRun (g.gtab + 2 * mat) 2).bind (fun gb => .done (mat, at_ gb 0 2)))

/-- A lane's record and slug. -/
def rbinRecord (o : Op) (x : LaneIn) (mat : Nat) : List Byte :=
  recBytes (reg x 3 + reg x 4 * 2 ^ 32) (reg x 0) (reg x 1) (reg x 2) (reg x 5) (mat + 65536) (x.lane + bits o.d.toNat 0 26 * 64)
def rbinSlug (x : LaneIn) : List Byte := (List.range 8).flatMap (fun i => leBytes (reg x (6 + i)) 4)

/-- A lane's reserved record written and committed; a write that waits on a page keeps the reservation (R303). -/
def rbinCommit (d : Dev) (id : Nat) (o : Op) (x : LaneIn) (i gal mat : Nat) (g : GalDesc) (fi : Nat) : Dev :=
  match writeRec d o.part (.team o.tid) (.remove o.core) g i (rbinRecord o x mat) (rbinSlug x) fi with
  | .error e => engErr d id o x.lane e
  | .ok d1 =>
    let d2 := putGalley d1 o.part gal (commitRec (galley d1 o.part gal) i d1.cyc)
    modOp d2 id (fun o => { o with fin := o.fin ||| BitVec.ofNat 64 (2 ^ x.lane), wait := false, prog := 0 })

/-- A lane's record reserved, or a wait for room in its galley, with the material and galley that the lane has read (R303). -/
def rbinDeposit (d : Dev) (id : Nat) (o : Op) (x : LaneIn) (mat gal fi : Nat) : Dev :=
  match reserveRec d o.part gal none fi with
  | .full d1 => modOp d1 id (fun o => { o with wait := true, prog := gal + 1, outs := tput o.outs x.lane [(1, gal), (2, mat)] })
  | .got i g d1 => rbinCommit (modOp d1 id (fun o => { o with outs := tput o.outs x.lane [(0, i), (1, gal), (2, mat)] })) id o x i gal mat g fi

/-- The lane's record as it was reserved: its index, galley and material. -/
def rbinHeld (o : Op) (l : Nat) : Option (Nat × Nat × Nat) :=
  match tget o.outs l with
  | some [(_, i), (_, gal), (_, mat)] => some (i, gal, mat)
  | _ => none

/-- The galley and material that a lane has read and for which it has no record yet. -/
def rbinChosen (o : Op) (l : Nat) : Option (Nat × Nat) :=
  match tget o.outs l with
  | some [(1, gal), (2, mat)] => some (gal, mat)
  | _ => none

/-- rbin: its next lane, in ascending order; complete once every lane's record is committed. -/
def doRbin (d : Dev) (id : Nat) (o : Op) (fi : Nat) : Dev :=
  match o.lanes.find? (fun x => !mbit o.fin x.lane) with
  | none => engDone d id o (fun g => g)
  | some x =>
    match rbinHeld o x.lane, rbinChosen o x.lane with
    | some (i, gal, mat), _ =>
      (match galDesc d o.part gal fi with
       | .error e => galFail d o.part gal e
       | .ok (g, d1) => rbinCommit d1 id o x i gal mat g fi)
    | none, some (gal, mat) => rbinDeposit d id o x mat gal fi
    | none, none =>
      match readDesc d id o 32 gsetOk fi with
      | .error e => wordErr d id o e
      | .ok (bs, d1) =>
        match runWhole d1 o.part (.team o.tid) (rbinGalley (parseGset bs) (reg x 3 + reg x 4 * 2 ^ 32)) fi with
        | .error e => engErr d1 id o x.lane e
        | .ok ((mat, gal), d2) => rbinDeposit d2 id o x mat gal fi

end Sys2Proof.Machine
end

