-- ==== Sys2Proof/Machine/Dsc.lean ====
section
/-! DEFINITION. The decoupled sampling cache, the completion of engine commands, and what resumes after a wait (08 R300, R301 and
R307; 10 R355; 09 R330). -/

namespace Sys2Proof.Machine

/-! ## Descriptors, keys and sets (R300) -/

/-- A DSC descriptor. -/
structure DscDesc where
  sbase : Nat
  nsets : Nat
  ssize : Nat
  seed : DWord
  deriving DecidableEq, Repr, Inhabited

def parseDsc (bs : List Byte) : DscDesc :=
  { sbase := at_ bs 0 8, nsets := at_ bs 8 4, ssize := at_ bs 12 4, seed := BitVec.ofNat 64 (at_ bs 16 8) }

/-- A DSC descriptor within its limits. -/
def dscOk (bs : List Byte) : Bool :=
  let x := parseDsc bs
  x.sbase % 16 == 0 && (List.range 21).any (fun k => x.nsets == 2 ^ k) && x.ssize % 16 == 0 && decide (16 ≤ x.ssize) &&
  decide (x.ssize ≤ 4096) && zeros bs 24 8

/-- A lane's key: identifier, cell and bucket, and the descriptor's address. -/
def dscKey (o : Op) (x : LaneIn) : List DWord :=
  [BitVec.ofNat 64 (reg x 0 + reg x 1 * 2 ^ 32), BitVec.ofNat 64 (reg x 2), BitVec.ofNat 64 (reg x 3), o.a]
/-- A lane's operation. -/
def dscOpOf (x : LaneIn) : Nat := bits (reg x 4) 0 2

/-- The set of a key. -/
def dscSetOf (y : DscDesc) (x : LaneIn) : Nat :=
  let id := BitVec.ofNat 64 (reg x 0 + reg x 1 * 2 ^ 32)
  (draw y.seed (id ^^^ BitVec.ofNat 64 (reg x 2 * 2 ^ 32 + reg x 3))).toNat % y.nsets

/-- The address of way w of a set. -/
def dscSlot (y : DscDesc) (s w : Nat) : Nat := y.sbase + (8 * s + w) * y.ssize

/-- The eight ways of a new entry. -/
def emptyWays : List Way := List.replicate 8 { st := .empty, key := [], stamp := 0 }

/-- An entry all of whose ways are READY, with its latest publish. -/
def allReady (e : DscSet) : Bool := e.ways.all (fun w => w.st == .ready)
def lastPublish (e : DscSet) : Nat := e.ways.foldl (fun n w => max n w.stamp) 0

/-- The entry that a full section gives up: of those with every way READY, the one whose latest publish is oldest (R355). -/
def dscVictim (d : Dev) (slice : Nat) : Option Nat :=
  (d.dsc.foldl (fun (best : Option (Nat × Nat)) e =>
    if e.2.slice == slice && allReady e.2 then
      (match best with
       | some b => if lastPublish e.2 < b.2 then some (e.1, lastPublish e.2) else best
       | none => some (e.1, lastPublish e.2))
    else best) none).map (fun b => b.1)

/-- The entry of set s of the descriptor at an address (R355). -/
def dscEntry (d : Dev) (p a s : Nat) : Option (Nat × DscSet) := d.dsc.find? (fun e => e.2.part == p && e.2.desc == a && e.2.set == s)

/-- A new entry for a set whose slot 0 stands at pa; none where the section is full and gives nothing up. -/
def dscAlloc (d : Dev) (p a s pa : Nat) : Option (Nat × DscSet × Dev) :=
  let sl := homeSlice pa
  let e : DscSet := { part := p, slice := sl, desc := a, set := s, ways := emptyWays }
  let put := fun (t : Tab DscSet) => some (d.fresh, e, { d with dsc := tput t d.fresh e, fresh := d.fresh + 1 })
  if (d.dsc.filter (fun e => e.2.slice == sl)).length < 2048 then put d.dsc
  else
    match dscVictim d sl with
    | some k => put (tdel d.dsc k)
    | none => none

/-! ## One lane (R301) -/

/-- What a lane's turn does: its result is known, it waits for a way or an entry, it waits for a publish, or it breaks the
protocol. -/
inductive DscTurn where
  | done (status way : Nat) (d : Dev)
  | retry
  | follow (way : Nat) (d : Dev)
  | bad (reason : Nat)
  deriving DecidableEq, Repr, Inhabited

/-- The way of a key in an entry, and the number of a way that satisfies a predicate. -/
def wayWhere (e : DscSet) (f : Way → Bool) : Option Nat := (List.range 8).find? (fun i => f (e.ways.getD i default))
def wayOf (e : DscSet) (key : List DWord) : Option Nat := wayWhere e (fun w => w.st != .empty && w.key == key)

/-- The READY way published earliest. -/
def oldestReady (e : DscSet) : Option Nat :=
  ((List.range 8).foldl (fun (best : Option (Nat × Nat)) i =>
    let w := e.ways.getD i default
    if w.st == .ready then
      (match best with
       | some b => if w.stamp < b.2 then some (i, w.stamp) else best
       | none => some (i, w.stamp))
    else best) none).map (fun b => b.1)

/-- The device with a way of an entry set. -/
def putWay (d : Dev) (k : Nat) (e : DscSet) (i : Nat) (w : Way) : Dev := { d with dsc := tput d.dsc k { e with ways := lset e.ways i w } }

/-- A lookup in an entry. -/
def dscLookup (d : Dev) (gid k : Nat) (e : DscSet) (key : List DWord) : DscTurn :=
  match wayOf e key with
  | some i =>
    let w := e.ways.getD i default
    if w.st == .ready then .done 0 i d else if w.stamp = gid then .done 2 i d else .follow i d
  | none =>
    let own := fun i => DscTurn.done 1 i (putWay d k e i { st := .pending, key := key, stamp := gid })
    match wayWhere e (fun w => w.st == .empty) with
    | some i => own i
    | none =>
      match oldestReady e with
      | some i => own i
      | none => .retry

/-- A lane of the partition that waits for the publish of a key has its result. -/
def wakeLane (p : Nat) (key : List DWord) (q : Op) : Op :=
  let hit := fun (x : LaneIn) => q.part == p && q.resv.any (fun r => r.1 == x.lane) && dscKey q x == key
  { q with
    lanes := q.lanes.map (fun x => if hit x then { x with a := 1 } else x)
    resv := q.resv.filter (fun r => !(q.lanes.any (fun x => x.lane == r.1 && hit x))) }

/-- A publish: the slot becomes READY, and every lane that waits for it has its result. -/
def dscPublish (d : Dev) (gid k : Nat) (e : DscSet) (key : List DWord) : DscTurn :=
  match wayOf e key with
  | some i =>
    let w := e.ways.getD i default
    if w.st == .pending && w.stamp == gid then
      let d1 := putWay d k e i { w with st := .ready, stamp := d.fresh }
      .done 0 i { d1 with fresh := d.fresh + 1, ops := d1.ops.map (fun q => (q.1, wakeLane e.part key q.2)) }
    else .bad 0x60
  | none => .bad 0x60

/-- A drop: the slot becomes EMPTY. -/
def dscDrop (d : Dev) (k : Nat) (e : DscSet) (key : List DWord) : DscTurn :=
  match wayOf e key with
  | some i => if (e.ways.getD i default).st == .ready then .done 0 i (putWay d k e i { st := .empty, key := [], stamp := 0 }) else .bad 0x60
  | none => .bad 0x60

/-- A lane's turn at the section that holds its set, whose first slot stands at pa. -/
def dscTurn (d : Dev) (o : Op) (x : LaneIn) (s pa : Nat) : DscTurn :=
  let key := dscKey o x
  let a := o.a.toNat
  match dscOpOf x with
  | 0 =>
    (match dscEntry d o.part a s with
     | some (k, e) => dscLookup d o.gid k e key
     | none =>
       match dscAlloc d o.part a s pa with
       | some (k, e, d1) => dscLookup d1 o.gid k e key
       | none => .retry)
  | 1 => (match dscEntry d o.part a s with
     | some (k, e) => dscPublish d o.gid k e key
     | none => .bad 0x60)
  | 2 => (match dscEntry d o.part a s with
     | some (k, e) => dscDrop d k e key
     | none => .bad 0x60)
  | _ => .bad 0x61

/-! ## The word -/

/-- A lane's result kept with the operation: status, set and way, and the slot's address. The mark in a says that the result has
come. -/
def dscKeep (o : Op) (l status s way addr : Nat) (came : Bool) : Op :=
  { o with
    lanes := o.lanes.map (fun x => if x.lane = l then
      { x with
        a := if came then 1 else 0
        d := BitVec.ofNat 128 (status + (s * 8 + way) * 2 ^ 32 + addr * 2 ^ 64) }
      else x)
    fin := o.fin ||| BitVec.ofNat 64 (2 ^ l)
    resv := if came then o.resv else o.resv ++ [(l, way)] }

/-- The lanes that have had no turn yet, in ascending order; a lane that meets a translation fault waits (15 R441), and a violation
stops them. A lane whose key a lower lane that waits has too takes its turn after that one: ks holds those keys (R307). DESIGN CHOICE: the other later lanes go before a lane that waits (log 88). -/
def dscLanes (id : Nat) (y : DscDesc) (fi : Nat) : List Nat → List (List DWord) → Dev → Dev
  | [], _, d => d
  | l :: t, ks, d =>
    match tget d.ops id with
    | none => d
    | some o =>
      if mbit o.fin l then dscLanes id y fi t ks d
      else
        let x := laneIn o l
        let s := dscSetOf y x
        let wait := dscKey o x :: ks
        if ks.contains (dscKey o x) then dscLanes id y fi t ks d
        else if waiting d (.lane id l) then dscLanes id y fi t wait d
        else
        match xlUnit d o.part (.team o.tid) (dscSlot y s 0) .read fi with
        | .error e =>
          let d1 := engErr d id o l e
          (match e with
           | .xl _ _ _ _ => dscLanes id y fi t wait d1
           | _ => d1)
        | .ok (.dev pa _, d1) =>
          (match dscTurn d1 o x s pa with
           | .done st w d2 => dscLanes id y fi t ks (modOp d2 id (fun o => dscKeep o l st s w (dscSlot y s w) true))
           | .follow w d2 => dscLanes id y fi t ks (modOp d2 id (fun o => dscKeep o l 0 s w (dscSlot y s w) false))
           | .retry => dscLanes id y fi t wait d1
           | .bad r => engErr d1 id o l (.prot r 0))
        | .ok _ => engErr d id o l (.prot 0x2A 0)

/-- Every lane has its result. -/
def dscAll (o : Op) : Bool := o.lanes.all (fun x => mbit o.fin x.lane && x.a == 1)

/-- The four registers of a lane's result. -/
def dscRegs (x : LaneIn) : List (Nat × Nat) := (List.range 4).map (fun i => (i, bits x.d.toNat (32 * i) 32))

/-- The word complete: its registers, and the acquire of a lookup that answered READY (03 R97). -/
def dscFinish (d : Dev) (id : Nat) (o : Op) (dst : Operand) : Dev :=
  let d1 := engDone d id o (putRuns dst (o.lanes.map (fun x => (x.lane, dscRegs x))))
  if o.lanes.any (fun x => dscOpOf x == 0 && bits x.d.toNat 0 32 == 0) then dcEmpty d1 o.core else d1

/-- The lanes of the word that have had no turn, and the word's end. SBASE must lie in KIND 0 memory of the partition (R355). -/
def dscGo (d : Dev) (id : Nat) (o : Op) (dst : Operand) (fi : Nat) : Dev :=
  match readDesc d id o 32 dscOk fi with
  | .error e => wordErr d id o e
  | .ok (bs, d1) =>
    match xlUnit d1 o.part (.team o.tid) (parseDsc bs).sbase .read fi with
    | .error e => wordErr d1 id o e
    | .ok (.dev _ _, d2) =>
      let d3 := dscLanes id (parseDsc bs) fi (lanesOf o.act) [] (modOp d2 id (fun o => { o with applied := true }))
      (match tget d3.ops id with
       | some q => if dscAll q then dscFinish d3 id q dst else d3
       | none => d3)
    | .ok _ => wordErr d1 id o (.prot 0x2A 0)

/-- dsc as a command: its first turn, or its end once every result has come. -/
def doDsc (d : Dev) (id : Nat) (o : Op) (dst : Operand) (fi : Nat) : Dev :=
  if dscAll o then dscFinish d id o dst else if o.applied then d else dscGo d id o dst fi

/-! ## The events -/

/-- A command taken on by its unit: its reads, computation and writes, of which a walk, a march, a sample or a refit makes at most n
accesses. -/
def doEngine (d : Dev) (id : Nat) (o : Op) (fi n : Nat) : Dev :=
  let f32 := fun (x : LaneIn) => unpack .fp32 (x.d.setWidth 32).toNat
  let f64 := fun (x : LaneIn) => unpack .fp64 (x.d.setWidth 64).toNat
  match o.word with
  | .acld _ dst _ => doAcld d id o dst fi n
  | .acst _ _ _ => doAcst d id o fi n
  | .aczr _ _ _ => doAczr d id o
  | .xaccE32 _ _ _ => doXacc d id o exa32 f32
  | .xaccE64 _ _ _ => doXacc d id o exa64 f64
  | .xrndE32 _ fd dst _ => doXrnd d id o exa32 fd dst
  | .xrndE64 _ fd dst _ => doXrnd d id o exa64 fd dst
  | .xmovSt _ _ _ => doXmovSt d id o fi
  | .xmovLd _ _ _ => doXmovLd d id o fi
  | .trace _ dst _ => doTrace d id o dst fi n
  | .vmarch _ dst _ => doVmarch d id o dst fi n
  | .ovq _ dst _ => doOvq d id o dst fi n
  | .refit _ _ => doRefit d id o fi n
  | .attr _ dst _ => doAttr d id o dst fi n
  | .dsc _ dst _ => doDsc d id o dst fi
  | .rbin _ _ _ => doRbin d id o fi
  | .tex _ dst _ => doTex d id o dst fi n
  | .slg _ dst _ => doSlg d id o dst fi n
  | _ => d

/-- A matrix word, which its passes complete (R272). -/
def isMatrix : Instr → Bool
  | .mxd _ _ => true | .mxb _ _ => true | .mxg _ _ => true | _ => false

/-- The scratchpad and AM of the command's team are in place: a team swapped out keeps its commands until it returns (15 R448). -/
def teamHere (d : Dev) (o : Op) : Bool := ((tget d.teams o.tid).map (fun t => t.st != .swapped)).getD false

/-- The lanes in which a command is next to go on: of an rbin the lowest that has no record, else every lane with no result. -/
def lanesLeft (o : Op) : List Nat :=
  match o.word with
  | .rbin _ _ _ => ((o.lanes.find? (fun x => !mbit o.fin x.lane)).map (fun x => x.lane)).toList
  | .dsc _ _ _ => (o.lanes.filter (fun x => !mbit o.fin x.lane)).map (fun x => x.lane)
  | _ => (o.lanes.filter (fun x => (tget o.outs x.lane).isNone)).map (fun x => x.lane)

/-- A command waits on a page as a whole, or in every lane that is left: the other lanes go on (15 R441). -/
def opStuck (d : Dev) (id : Nat) (o : Op) : Bool :=
  waiting d (.op id) || (opWaits d id && (lanesLeft o).all (fun l => waiting d (.lane id l)))

/-- A command may be taken up by its unit (R99): its predecessors are complete and it waits on nothing. -/
def engineOpen (d : Dev) (id : Nat) (o : Op) : Bool :=
  isEngine o.word && !isMatrix o.word && !o.wait && opReady d o && unitRuns d o.part (engineUnit o.core o.word) &&
  !opStuck d id o && !amBehind d id o && !slotBehind d id o && teamHere d o

/-- A command taken on by at most n accesses of its unit. -/
def engineStep (id n : Nat) (s : State) : Out :=
  let d := s.dev
  match tget d.ops id with
  | none => withDev s d
  | some o => if engineOpen d id o then withDev s (stepped (doEngine d id o s.tick n) (engineUnit o.core o.word)) else withDev s d

/-- ENGINE_COMMAND_COMPLETE (03 R99): the command as far as it goes. -/
def execEngineCommandComplete (id : Nat) (s : State) : Out := engineStep id allAccesses s

/-- DSC_LOOKUP_RESUME (R301): the lanes of a dsc that found no way, or no entry, have their turn again. -/
def execDscLookupResume (id : Nat) (s : State) : Out :=
  let d := s.dev
  match tget d.ops id with
  | none => withDev s d
  | some o =>
    match o.word with
    | .dsc _ dst _ => if engineOpen d id o && o.applied then withDev s (dscGo d id o dst s.tick) else withDev s d
    | _ => withDev s d

/-- The rbin that waits on galley g. -/
def waitingRbin (d : Dev) (p g : Nat) : Option (Nat × Op) :=
  d.ops.find? (fun q => q.2.part == p && q.2.wait && q.2.prog == g + 1 && (match q.2.word with
    | .rbin _ _ _ => true
    | _ => false))
/-- The tile whose CLE waits on galley g, with its draw. -/
def waitingTile (d : Dev) (p g : Nat) : Option (Nat × Tile × Nat × Draw) :=
  d.tiles.findSome? (fun t =>
    if t.2.part == p && t.2.full == some g && ((galley d p g).quad.isNone || (galley d p g).quad == some t.1) then
      (d.draws.find? (fun w => w.2.d.op == 2 && w.2.keys.contains t.1)).map (fun w => (t.1, t.2, w.1, w.2))
    else none)
/-- The draw that waits on galley g. -/
def waitingDraw (d : Dev) (p g : Nat) : Option (Nat × Draw) := d.draws.find? (fun w => w.2.part == p && w.2.full && w.2.d.rgal == g)

/-- The CLE of a waiting tile tries its reservation again. -/
def resumeTile (d : Dev) (x : Nat × Tile × Nat × Draw) (fi : Nat) : Dev :=
  if cleOpen d x.2.2.1 (x.2.1.slice / 6) x.2.2.2 && !x.2.1.dead then cleStep d x.2.2.1 (x.2.1.slice / 6) x.1 x.2.2.2 x.2.1 fi else d

/-- A producer that waits on a galley tries its reservation again: the CLE that holds a quad entry half reserved, else the first. -/
def resumeGalley (d : Dev) (p g fi : Nat) : Dev :=
  match (if (galley d p g).quad.isSome then none else waitingRbin d p g), waitingTile d p g, waitingDraw d p g with
  | some (id, o), _, _ => if unitRuns d p (unitAe o.core) && !opStuck d id o then doRbin d id o fi else d
  | none, some x, _ => resumeTile d x fi
  | none, none, some (id, w) => if rasterOpen d id w then rasterStep d id w fi else d
  | none, none, none => d

/-- GALLEY_RESERVE_RESUME (09 R330). -/
def execGalleyReserveResume (p g : Nat) (s : State) : Out :=
  let d := s.dev
  if halted d p then withDev s d else withDev s (resumeGalley d p g s.tick)

end Sys2Proof.Machine
end

