-- ==== Sys2Proof/Machine/Clock.lean ====
section
/-! DEFINITION. A cycle of the device: its counters, the refill of the token buckets and the grants, the injection of flits, and what
the watchdogs count (07 R262; 02 R66; 09 R333; 11 R357 and R365; 14 R404; 17 R464 and R477). -/

namespace Sys2Proof.Machine

/-! ## The refill (09 R333, 17 R477) -/

/-- TREF of a cycle, halved while THR holds. -/
def refillOf (d : Dev) : Nat := regBits d offPwrbud 16 16 / (if bit (regGet d offPwrst).toNat 1 then 2 else 1)
/-- The capacity of the shared bucket. -/
def sharedCap (d : Dev) : Nat := regBits d offPwrbud 32 24 / 8

/-- One partition's part of the refill: what its bucket holds no more goes to the shared bucket, which loses the rest; a new
cycle begins in its window of grants. -/
def refillPart (d : Dev) (p : Nat) : Dev :=
  match tget d.parts p with
  | none => d
  | some q =>
    let t := q.bucket + refillOf d / 8 * (asgOcts d p).length
    let cap := bucketCap d p
    let d1 := { d with parts := tput d.parts p { q with bucket := min t cap, window := ((0, 0) :: q.window).take 1024 } }
    { d1 with shared := min (d1.shared + (t - cap)) (sharedCap d) }

/-- The refill of a cycle: the remainder of the division and the parts of octants of no partition go to the shared bucket. -/
def refill (d : Dev) : Dev :=
  let free := ((List.range 8).filter (fun o => !octAsg d o)).length
  let d1 := { d with shared := min (d.shared + refillOf d % 8 + refillOf d / 8 * free) (sharedCap d) }
  (List.range 8).foldl refillPart d1

/-! ## Claims (09 R333) -/

/-- A grant counted in the partition's window: tokens of matrix passes, and all. -/
def noteGrant (q : Part) (n : Nat) (mx : Bool) : Part :=
  match q.window with
  | [] => q
  | x :: t => { q with window := (x.1 + (if mx then n else 0), x.2 + n) :: t }

/-- A claim of a partition: granted from its own bucket, or else from the shared one. -/
def claim (d : Dev) (p n : Nat) (mx : Bool) : Option Dev :=
  match tget d.parts p with
  | none => none
  | some q =>
    if n ≤ q.bucket then some { d with parts := tput d.parts p (noteGrant { q with bucket := q.bucket - n } n mx) }
    else if n ≤ d.shared then some { d with parts := tput d.parts p (noteGrant q n mx), shared := d.shared - n }
    else none

/-! ## Flits (11 R357, R365) -/

/-- What a cycle has injected: flits, and flits by leaf and by channel. -/
structure Inject where
  d : Dev
  flits : Nat
  leafs : Tab Nat
  chans : Tab Nat
  deriving DecidableEq, Repr, Inhabited

/-- Flits that a leaf injects in a cycle at most (11 R357). -/
def leafRate (leaf : Nat) : Nat :=
  if leaf < 48 then 4 else if leaf < 96 then 8 else if leaf < 104 then 2 else if leaf < 110 then 18 else if leaf = 110 then 8 else 1

/-- The leaf and a channel of it may take one more flit in this cycle: quad and slice leaves put one in two cycles into a channel of a
partition held by MXHOLD (11 R365). Channels 0 to 7 are request, 8 to 15 response, 16 management. -/
def leafOpen (x : Inject) (leaf ch : Nat) : Bool :=
  decide (tgetD x.leafs leaf 0 < leafRate leaf) &&
  (decide (96 ≤ leaf) || decide (16 ≤ ch) || !((tget x.d.parts (ch % 8)).map (fun q => q.mxhold)).getD false ||
    (x.d.cyc % 2 == 0 && tgetD x.chans (32 * leaf + ch) 0 == 0))

/-- A flit's claim: for the partition of its channel, or, in the management channel, from the shared bucket alone. -/
def claimFlit (d : Dev) (ch : Nat) : Option Dev :=
  if ch < 16 then claim d (ch % 8) 2 false else if 2 ≤ d.shared then some { d with shared := d.shared - 2 } else none

/-- One flit injected at a leaf into a channel, where its claim is granted and the limit is not reached. -/
def injectOne (limit : Nat) (x : Inject) (leaf ch : Nat) (f : Dev → Dev) : Inject :=
  if limit ≤ x.flits ∨ !leafOpen x leaf ch then x
  else
    match claimFlit x.d ch with
    | none => x
    | some d => { d := f d, flits := x.flits + 1, leafs := tput x.leafs leaf (tgetD x.leafs leaf 0 + 1),
                  chans := tput x.chans (32 * leaf + ch) (tgetD x.chans (32 * leaf + ch) 0 + 1) }

/-- Part j of an operation with one flit fewer to inject: its channel has credits out. -/
def partSent (id j chan : Nat) (d : Dev) : Dev :=
  let d1 := modOp d id (fun o => { o with accs := match o.accs[j]? with
    | some a => lset o.accs j { a with flits := a.flits - 1 }
    | none => o.accs })
  creditTaken d1 chan

/-- One flit of part j of an operation injected. -/
def injectFlit (limit : Nat) (x : Inject) (f : Nat × Nat) : Inject :=
  match tget x.d.ops f.1 with
  | none => x
  | some o => injectOne limit x (coreLeaf o.core) o.part (partSent f.1 f.2 (channelOf o.core o.part))

/-- One of the flits that wait in a channel of a leaf injected: a credit of the channel is out until its receiver takes it. -/
def netSent (chan : Nat) (d : Dev) : Dev :=
  let n := tgetD d.net chan 0
  creditTaken { d with
    net := if n ≤ 1 then tdel d.net chan else tput d.net chan (n - 1)
    links := { d.links with flight := tput d.links.flight chan (tgetD d.links.flight chan 0 + 1) } } chan

/-- The flits of other packets that wait in a channel of a leaf, as many as the cycle takes. -/
def injectNet (limit : Nat) (x : Inject) (e : Nat × Nat) : Inject :=
  (List.range (min e.2 (leafRate (e.1 / 32)))).foldl (fun x _ => injectOne limit x (e.1 / 32) (e.1 % 32) (netSent e.1)) x

/-- The flits of an operation that its leaf may inject: its predecessors are complete and its core has not stopped (17 R471). -/
def opFlits (d : Dev) (id : Nat) (o : Op) : List (Nat × Nat) :=
  if o.wait || !opReady d o || !unitRuns d o.part (unitCore o.core) then []
  else (List.range o.accs.length).flatMap (fun j => match o.accs[j]? with
    | some a => if a.done || a.tgt.isNone then [] else List.replicate (min a.flits 4) (id, j)
    | none => [])

/-- Flits injected up to a limit on the cycle's count. -/
def injectAll (limit : Nat) (x : Inject) : Inject :=
  let y := (x.d.ops.flatMap (fun o => opFlits x.d o.1 o.2)).foldl (injectFlit limit) x
  y.d.net.foldl (injectNet limit) y

/-! ## Credits (11 R359, 14 R404; log 85) -/

/-- The receiver of a part's packet, which is wholly injected, may take it: a free choice. -/
def takePacket (fi : Nat) (d : Dev) (x : Nat × Nat) : Dev :=
  match tget d.ops x.1 with
  | none => d
  | some o =>
    match o.accs[x.2]? with
    | none => d
    | some a =>
      if creditOut o a && a.flits == 0 && Config.freeBool ((fi * 2 ^ 32 + x.1) * 256 + x.2) then
        creditBack (modOp d x.1 (fun o => { o with accs := lset o.accs x.2 { a with taken := true } })) (channelOf o.core o.part)
      else d

/-- The receivers of a channel take some of the other packets' flits in it: a free number. -/
def takeFlits (fi : Nat) (d : Dev) (e : Nat × Nat) : Dev :=
  let n := (Config.freeWord (fi * 2 ^ 32 + e.1)).toNat % (e.2 + 1)
  if n = 0 then d
  else creditBack { d with links := { d.links with flight := if n = e.2 then tdel d.links.flight e.1 else tput d.links.flight e.1 (e.2 - n) } } e.1

/-- What receivers take in a cycle. -/
def takeAll (d : Dev) (fi : Nat) : Dev :=
  let d1 := (d.ops.flatMap (fun o => (List.range o.2.accs.length).map (fun j => (o.1, j)))).foldl (takePacket fi) d
  d1.links.flight.foldl (takeFlits fi) d1

/-! ## Matrix passes and issue words (09 R333) -/

/-- An operand from a ring whose COMMITTED slots do not reach the pass. -/
def ringShort (d : Dev) (o : Op) (x : MxBlk) (q : MxOpnd) (rows p0 : Nat) (m : MxRing) : Bool :=
  match q.src, ringOf d o.tid q.ring with
  | 0, _ => false
  | _, some r => decide ((popTo (spanNeed x q (mxSpan x q rows p0)) 64 r m).2.have_ < spanNeed x q (mxSpan x q rows p0))
  | _, none => true

/-- The next pass of a command waits on a ring slot. -/
def passShort (d : Dev) (c : MxCmd) (o : Op) : Bool :=
  let x := parseMx (mxKind o.word) c.blk
  ringShort d o x x.a x.rowsA c.rprog c.ra || (x.kind != 2 && ringShort d o x x.b x.rowsB c.rprog c.rb)

/-- The claim of a core's next pass. -/
def grantPass (d : Dev) (core : Nat) : Dev :=
  match mxHead d core with
  | none => d
  | some (c, o) =>
    if c.started && !c.tok && mxRuns d core c o then
      (match claim d o.part (passCost (parseMx (mxKind o.word) c.blk).f) true with
       | some d1 => modHead d1 core (fun c => { c with tok := true })
       | none => d)
    else d

/-- What a group's next packet claims: its words' tokens, once everything else it waits for is there. -/
def packetClaim (d : Dev) (gid : Nat) (g : Group) (fi : Nat) : Option Nat :=
  if g.tok || !baseReady d gid g || !yieldOver d g fi then none
  else
    match minPc g with
    | none => none
    | some pc =>
      match fetchPacket d g pc fi with
      | .words ws _ _ =>
        let is := instrsOf (slotsOf ws)
        if interlocked d gid (carryOf d g) is || !gateOpen d g (activeSet g pc) is then none
        else some (pktTokens g.width is)
      | _ => none

/-- The claim of a group's next packet. -/
def grantGroup (fi : Nat) (d : Dev) (x : Nat × Group) : Dev :=
  match packetClaim d x.1 x.2 fi with
  | none => d
  | some n =>
    match claim d (teamPart d x.2.tid) n false with
    | some d1 => modGroup d1 x.1 (fun g => { g with tok := true })
    | none => d

/-- The claims of the issue words, in ascending core. -/
def grantWords (d : Dev) (fi : Nat) : Dev :=
  (List.range 192).foldl (fun d c => (d.groups.filter (fun x => x.2.core == c)).foldl (grantGroup fi) d) d

/-- MXHOLD (R333): matrix passes took more than three quarters of the tokens granted over the last 1,024 cycles. -/
def holdOf (q : Part) : Part :=
  let mx := q.window.foldl (fun n x => n + x.1) 0
  let all := q.window.foldl (fun n x => n + x.2) 0
  { q with mxhold := decide (3 * all < 4 * mx) }

/-- The grants of a cycle, in the order of R333. -/
def grants (d : Dev) (fi : Nat) : Dev :=
  let x := injectAll 256 { d := takeAll d fi, flits := 0, leafs := [], chans := [] }
  let d1 := (List.range 192).foldl grantPass x.d
  let d2 := grantWords d1 fi
  let d3 := (injectAll (x.flits + 1048576) { x with d := d2 }).d
  { d3 with parts := d3.parts.map (fun q => (q.1, holdOf q.2)) }

/-! ## What the watchdogs count (14 R404, 17 R464) -/

/-- A galley's descriptor waits on a page, or its check has failed: what needs the descriptor waits with it (15 R442, 17 R463). -/
def galleyWaits (d : Dev) (p : Nat) (gal : Option Nat) : Bool :=
  match gal with
  | some g => waiting d (.galley p g) || (galley d p g).bad
  | none => false

/-- An engine command at its unit that waits on nothing. -/
def engineBusy (d : Dev) (id : Nat) (o : Op) : Bool :=
  engineOpen d id o && (match o.word with
    | .dsc _ _ _ => !o.applied || dscAll o
    | .slg _ _ _ => !galleyWaits d o.part ((tget d.groups o.gid).bind (fun g => g.galley))
    | .rbin _ _ _ => !galleyWaits d o.part ((o.lanes.find? (fun x => !mbit o.fin x.lane)).bind (fun x => (rbinHeld o x.lane).map (fun h => h.2.1)))
    | _ => true)

/-- The head command of an array that waits on nothing: not on a predecessor, a token or a ring slot. -/
def matrixBusy (d : Dev) (core : Nat) : Option (Nat × Nat) :=
  match mxHead d core with
  | none => none
  | some (c, o) =>
    if mxRuns d core c o && (if c.started then c.tok && !passShort d c o else opReady d o) then some (unitMx core, o.part) else none

/-- A ring whose feeder or drain holds work and waits on nothing. -/
def ringBusy (d : Dev) (tid : Nat) (t : Team) (n : Nat) (r : Ring) : Bool :=
  feedReady d tid n t r &&
  (((fillSlot r).isSome && ((patternOpen d tid n t r && (decide (r.fed < patLen r.cfg) || (r.cfg.feos && !r.feosDone))) || !r.notices.isEmpty)) ||
   (r.cfg.cons == 1 && (drainPick r).isSome))

/-- A draw whose rasteriser, or whose CLEs, hold work that waits on nothing: their units. -/
def drawUnits (d : Dev) (id : Nat) (w : Draw) : List Nat :=
  (if rasterOpen d id w && !w.slotWait && !w.full then [rasterUnit w] else []) ++
  (octsOf d w.part).filterMap (fun o => match cleTile d w o with
    | some (_, t) => if cleOpen d id o w && t.full.isNone && !t.dead && !galleyWaits d w.part t.gal then some (unitOct o 1) else none
    | none => none)

/-- The units that hold accepted work that waits on nothing, with their partitions. -/
def busyUnits (d : Dev) : List (Nat × Nat) :=
  d.ops.filterMap (fun o => if engineBusy d o.1 o.2 then some (engineUnit o.2.core o.2.word, o.2.part) else none) ++
  (List.range 192).filterMap (matrixBusy d) ++
  d.teams.flatMap (fun t => t.2.rings.filterMap (fun r => if ringBusy d t.1 t.2 r.1 r.2 then some (unitFeed t.2.core, t.2.part) else none)) ++
  d.draws.flatMap (fun w => (drawUnits d w.1 w.2).map (fun u => (u, w.2.part))) ++
  (List.range 8).filterMap (fun o => if cxBusy d o then some (unitOct o 2, octPn d o) else none)

/-- The watchdogs' stamps: a unit that holds such work keeps the cycle since which it has made no step. -/
def watch (d : Dev) : Dev :=
  { d with progress := (busyUnits d).foldl (fun t u => tput t u.1 (tgetD d.progress u.1 d.cyc)) [] }

/-- Since when each graph run has been stalled (17 R464). -/
def stalls (d : Dev) : Dev :=
  d.parts.foldl (fun d q => q.2.runs.foldl (fun d r =>
    let stall := if runStalled d q.1 r.1 r.2 then (if r.2.stall.isSome then r.2.stall else some d.cyc) else none
    modPart d q.1 (fun q => { q with runs := tmod q.runs r.1 (fun r => { r with stall := stall }) })) d) d

/-- GCYC counts while the group holds a residency slot (02 R66). -/
def countCycle (g : Group) : Group := if holdsSlot g then { g with gcyc := g.gcyc + 1 } else g

/-- The device one cycle later: its cycle count, and GCYC of the groups that hold a slot. -/
def nextCycle (d : Dev) : Dev := { d with cyc := d.cyc + 1, groups := d.groups.map (fun g => (g.1, countCycle g.2)) }

/-- A part in flight taken up, whatever its word is. -/
def takePart (d : Dev) (id j : Nat) : Dev :=
  match tget d.ops id with
  | none => d
  | some o => if isLoad o.word then bindPart d id j else if isStore o.word then applyPart d id j else rmwPart d id j

/-- A part was handed off: its packet is wholly injected, or it needs none, and its predecessors are complete (14 R407, 17 R471). -/
def handedOff (d : Dev) (o : Op) (a : Acc) : Bool := pending d o a && a.tgt.isSome && a.flits == 0 && opReady d o

/-- Some operation of a partition that was handed off has been neither applied nor refused. -/
def inFlight (d : Dev) (p : Nat) : Bool := d.ops.any (fun o => o.2.part == p && o.2.accs.any (handedOff d o.2))

/-- A part that nothing lets be applied any more, at a failing word or a scratchpad that is out of place, is refused (14 R407). -/
def dropPart (d : Dev) (id j : Nat) : Dev :=
  match tget d.ops id with
  | none => d
  | some o =>
    match o.accs[j]? with
    | none => d
    | some a => if handedOff d o a then modOp d id (fun o => { o with wait := true, accs := lset o.accs j { a with tgt := none, tgt2 := none } }) else d

/-- The parts of a partition's operations. -/
def partsOf (d : Dev) (p : Nat) : List (Nat × Nat) :=
  (d.ops.filter (fun o => o.2.part == p)).flatMap (fun o => (List.range o.2.accs.length).map (fun j => (o.1, j)))

/-- Parts taken up in the order of their operations, as often as one may wait for another of them; what is left then is refused. -/
def drainGo (p : Nat) : Nat → Dev → Dev
  | 0, d => (partsOf d p).foldl (fun d x => dropPart d x.1 x.2) d
  | n + 1, d => if inFlight d p then drainGo p n ((partsOf d p).foldl (fun d x => takePart d x.1 x.2) d) else d

/-- The channels of a partition are empty 2 µs, 2,500 cycles, after its halt: what was handed off before has been applied at its home
or refused, and none is in flight (14 R407). -/
def skidPart (d : Dev) (p : Nat) : Dev :=
  let at_ := ((tget d.parts p).map (fun q => q.haltAt)).getD 0
  if halted d p ∧ d.cyc = at_ + 2500 then drainGo p 4 d else d

/-- TOKEN_CYCLE: one cycle of the device, while it has power. -/
def execTokenCycle (s : State) : Out :=
  withDev s (if s.dev.pow.on then (List.range 8).foldl skidPart (watch (stalls (grants (refill (nextCycle s.dev)) s.tick))) else s.dev)

end Sys2Proof.Machine
end

