-- ==== Sys2Proof/Machine/Reports.lean ====
section
/-! DEFINITION. Faults that wait or halt a group before it issues, the walks of translation reports, and the replay of the side log
(15 R433 to R441, 16 R452 to R457). -/

namespace Sys2Proof.Machine

/-! ## Walks of reports (15 R439, R440) -/

/-- The instruction that a waiter belongs to: one word of one group, or one command of one engine. -/
def instOf : Waiter → Waiter
  | .logged id _ => .op id
  | .lane id _ => .op id
  | w => w

/-- The reports of an octant that are queued for a walk. -/
def queuedWalks (d : Dev) (oct : Nat) : List (Nat × Report) := d.reports.filter (fun r => r.2.oct == oct && r.2.st == .walk)
/-- The queued walks of one instruction. -/
def walksOf (d : Dev) (oct : Nat) (w : Waiter) : List (Nat × Report) := (queuedWalks d oct).filter (fun r => r.2.who.any (fun x => instOf x == w))

/-- The instruction that a free walker takes (R440): the fewest walks, the earliest first walk. -/
def walkPick (d : Dev) (oct : Nat) : Option Waiter :=
  match (queuedWalks d oct).flatMap (fun r => r.2.who.map instOf) with
  | [] => none
  | x :: t => some (t.foldl (fun a b => if (walksOf d oct b).length < (walksOf d oct a).length then b else a) x)

/-- The walks that one walker takes together: those of the instruction that share va[55:21] with its first, at most 32 pages. -/
def walkBatch (d : Dev) (oct : Nat) (w : Waiter) : List Nat :=
  match walksOf d oct w with
  | [] => []
  | x :: t => ((x :: t).filter (fun r => r.2.va / 2 ^ 21 == x.2.va / 2 ^ 21)).map (fun r => r.1) |>.take 32

/-- The lines of the table entries that a walk from a table reads at their home slices (03 R86). -/
def walkLines (d : Dev) (p oct va : Nat) : Nat → Nat → List Touch
  | lvl + 1, t =>
    let a := t + 8 * vaIndex va lvl
    let e := readNat d.mem a 8
    if !inPart d p a then []
    else .line oct a :: (if !pteValid e lvl || pteLeaf e then [] else walkLines d p oct va lvl (bits e 8 44 * 256))
  | 0, _ => []

/-- Everything the walk of a report uses; a walk that meets a failing word does not complete (14 R403). -/
def walkTouches (d : Dev) (p oct va : Nat) : List Touch :=
  (if regBits d (offPtroot p) 0 1 = 0 then [] else walkLines d p oct va 4 (regBits d (offPtroot p) 16 36 * 2 ^ 16)) ++ (xlWalk d p va (walk d p va)).2

/-- One report walked (R439): on success what waited on it resumes; else it reports again. -/
def walkReport (d : Dev) (id : Nat) : Dev :=
  match tget d.reports id with
  | none => d
  | some r =>
    let ts := walkTouches d r.part r.oct r.va
    if ts.any (badTouch d) then d
    else match walk d r.part r.va with
    | .bad e lvl =>
      let x := reportPass (tlbTouchAll d ts) { r with lvl := lvl, entry := BitVec.ofNat 64 e }
      { x.1 with reports := tput x.1.reports id x.2 }
    | _ => tlbTouchAll { d with reports := tdel d.reports id } ts

/-- The walk scheduler of an octant serves walks: its partition has not stopped it. -/
def walkerRuns (d : Dev) (oct : Nat) : Bool :=
  match unitPart d (unitOct oct 4) with
  | some p => unitRuns d p (unitOct oct 4)
  | none => false

/-- One walker takes the walks of one instruction. -/
def walkOnce (d : Dev) (oct : Nat) : Dev :=
  match walkPick d oct with
  | none => d
  | some w => (walkBatch d oct w).foldl walkReport d

/-- WALK_SCHEDULE (R440). -/
def execWalkSchedule (oct : Nat) (s : State) : Out :=
  withDev s (if walkerRuns s.dev oct then walkOnce s.dev oct else s.dev)

/-- The 64 walkers of an octant at work. -/
def walkAll (d : Dev) (oct : Nat) : Nat → Dev
  | 0 => d
  | n + 1 => walkAll (walkOnce d oct) oct n

/-- A record count n is retired as HHEAD moves from old to new (15 R439). -/
def retires (old new n : Nat) : Bool := decide ((n + 2048 - old) % 2048 < (new + 2048 - old) % 2048)

/-- A write of FLTQ.HHEAD (15 R437, R439): every unit that waits on a record now retired walks again. -/
def writeHhead (d : Dev) (oct v : Nat) : Dev :=
  let old := regBits d (offFltq oct + 8) 0 11
  let again := fun (r : Report) => match r.st with
    | .record o n => if o == oct && retires old (v % 2048) n then { r with st := .walk } else r
    | _ => r
  let d1 := regPut { d with reports := d.reports.map (fun r => (r.1, again r.2)) } (offFltq oct + 8) 0 11 v
  if walkerRuns d1 oct then walkAll d1 oct 64 else d1

/-- FLTQ_HHEAD_WRITE. -/
def execFltqHheadWrite (oct : Nat) (v : BitVec 11) (s : State) : Out :=
  withDev s (if s.dev.pow.on && decide (oct < 8) then writeHhead s.dev oct v.toNat else s.dev)

/-- REPORT_BACKOFF_EXPIRY (R439): a refused unit walks again once its delay is over. -/
def execReportBackoffExpiry (rep : Nat) (s : State) : Out :=
  let d := s.dev
  match tget d.reports rep with
  | none => withDev s d
  | some r =>
    match r.st with
    | .backoff until_ delay =>
      if until_ ≤ d.cyc ∧ unitRuns d r.part r.unit then
        withDev s (walkReport { d with reports := tput d.reports rep { r with delay := delay } } rep)
      else withDev s d
    | _ => withDev s d

/-! ## Fetch and encoding (15 R434, 16 R452 to R457) -/

/-- INSTRUCTION_FETCH_FAULT: the group holds for the page of its minimum-PC packet, or the fault is context-fatal. -/
def execInstructionFetchFault (gid : Nat) (s : State) : Out :=
  let d := s.dev
  match tget d.groups gid with
  | none => withDev s d
  | some g =>
    match minPc g with
    | none => withDev s d
    | some pc =>
      if baseReady d gid g && yieldOver d g s.tick then
        (match fetchPacket d g pc s.tick with
         | .fault va lvl e => withDev s (groupWait d gid g.core 0 va lvl e .fetch)
         | .bad reason => withDev s (groupFatal d gid reason 0 0 pc)
         | _ => withDev s d)
      else withDev s d

/-- ILLEGAL_ENCODING (05 R180): the packet that its port chooses for issue (09 R332), which waits for nothing more, fails stage D and
does not commit. -/
def execIllegalEncoding (gid : Nat) (s : State) : Out :=
  let d := s.dev
  match tget d.groups gid with
  | none => withDev s d
  | some g =>
    match minPc g with
    | none => withDev s d
    | some pc =>
      if baseReady d gid g && yieldOver d g s.tick && portChoice d g.core (g.rslot % 2) s.tick == some gid then
        (match fetchPacket d g pc s.tick with
         | .words ws _ _ =>
           (match stageD g ws with
            | some (slot, reason) =>
              if packetReady d gid g pc (slotsOf ws) then withDev s (groupFatal d gid reason 0 slot pc) else withDev s d
            | none => withDev s d)
         | _ => withDev s d)
      else withDev s d

/-- A group whose packet was cancelled, or whose fetch held it, waits on nothing more. -/
def reissueReady (d : Dev) (gid : Nat) (g : Group) : Bool :=
  g.place == .resident && g.bound.fault && !g.bound.dead && !groupWaits d gid && g.bound.slide.isNone && (boundTrap g).isNone &&
  !g.bound.tret && !g.bound.timer && coreRuns d (teamPart d g.tid) g.core

/-- PACKET_REISSUE (15 R433, R434): the group may issue again, and its turn comes next. -/
def execPacketReissue (gid : Nat) (s : State) : Out :=
  let d := s.dev
  match tget d.groups gid with
  | none => .next s
  | some g =>
    if reissueReady d gid g then
      .next { s with
        agenda := s.agenda ++ [.group gid]
        dev := modGroup d gid (fun g => { g with bound := { g.bound with fault := false } }) }
    else .next s

/-! ## The replay of the side log (15 R435, R436) -/

/-- The access of a word that enters the side log. -/
def logAcc (i : Instr) : AccKind := if isStore i then .write else .atomic

/-- The place of a lane's access in log order. -/
def logOrder (o : Op) (lane : Nat) : Nat :=
  ((o.accs.find? (fun a => a.lane == lane)).bind (fun a => a.log.map (fun x => x.2))).getD 0

/-- An earlier entry of the same lane of the group is still in the log. -/
def logBehind (d : Dev) (core id lane : Nat) (o : Op) : Bool :=
  (tgetD d.cores core default).slog.any (fun e =>
    match tget d.ops e.2.1 with
    | some q => q.gid == o.gid && e.2.2 == lane && decide (logOrder q lane < logOrder o lane) && !(e.2.1 == id)
    | none => false)

/-- The parts of a lane's access that have no translation yet. -/
def logParts (o : Op) (lane : Nat) : List Acc := o.accs.filter (fun a => a.lane == lane && !a.done && a.tgt.isNone && a.log.isSome)

/-- The addresses to be translated: of each part, or of both pages of a record that crosses into another. -/
def logVas (o : Op) (as : List Acc) : List Nat :=
  match rmwForm o.word, as with
  | some f, a :: _ => if nextPage a.va < a.va + rmwLen f then [a.va, nextPage a.va] else [a.va]
  | _, _ => as.map (fun a => a.va)

/-- A part with its translation. -/
def logTarget (o : Op) (as : List Acc) (ts : List Target) (a : Acc) : Acc :=
  let i := (as.map (fun b => b.va)).idxOf a.va
  let b := { a with
    tgt := ts[i]?
    tgt2 := if (rmwForm o.word).isSome then (ts[1]?).map (fun t => (nextPage a.va - a.va, t)) else none }
  { b with flits := partFlits o b }

/-- The lane's access goes to memory with the translation found. -/
def replayTo (d : Dev) (id lane : Nat) (as : List Acc) (ts : List Target) : Dev :=
  modOp d id (fun o => { o with accs := o.accs.map (fun a => if a.lane == lane && a.tgt.isNone && !a.done then logTarget o as ts a else a) })

/-- One side-log entry replayed: its access is made, it reports again, or it meets a protection fault. -/
def logReplay (d : Dev) (id lane : Nat) (o : Op) (fi : Nat) : Dev :=
  let as := logParts o lane
  let va := (as.head?.map (fun a => a.va)).getD 0
  let isCas := match rmwForm o.word with
    | some (.cas _) => true
    | _ => false
  let r := laneXl d o.part o.tid fi (BitVec.ofNat 64 va) 1 (logAcc o.word) isCas (logVas o as)
  if r.2.any (badTouch d) then d
  else match r.1 with
  | .bad reason => opFatal d id (unitCore o.core) reason lane
  | .fault x lvl e => addReport d o.part (unitCore o.core) 1 x lvl e (logAcc o.word) (.logged id lane)
  | .ok ts => replayTo (tlbTouchAll d r.2) id lane as ts

/-- SIDE_LOG_REPLAY: a walk of the entry's page has succeeded, and no earlier entry of its lane is left. -/
def execSideLogReplay (core slot : Nat) (s : State) : Out :=
  let d := s.dev
  match tget (tgetD d.cores core default).slog slot with
  | none => withDev s d
  | some (id, lane) =>
    match tget d.ops id with
    | none => withDev s d
    | some o =>
      if !o.wait && !waiting d (.logged id lane) && !(logParts o lane).isEmpty && !logBehind d core id lane o &&
          unitRuns d o.part (unitCore core) then
        withDev s (logReplay d id lane o s.tick)
      else withDev s d

end Sys2Proof.Machine
end

