-- ==== Sys2Proof/Machine/Halts.lean ====
section
/-! DEFINITION. The halt of a partition: the event arbiters, the stop of its units, stop records and watchdogs (14 R404 to R412, R414
to R418; 15 R443; 17 R471). -/

namespace Sys2Proof.Machine

/-! ## The event arbiters (14 R406, R408, R414 to R417) -/

/-- The halt line of partition p rises (R406, R408): HALTST takes HALT, CAUSE, UNIT and PEND, and the adapter raises vector
2p + 1. -/
def raiseLine (d : Dev) (p seq : Nat) (e : Event) : Dev :=
  let x := 2 ^ 63 + e.cause * 2 ^ 48 + e.unit * 2 ^ 32 + (unitsOf d p).length
  let d1 := modPart d p (fun q => { q with haltAt := d.cyc, haltSeq := seq, haltDet := e.detail, haltGrp := e.grp })
  raiseMsix (regSet d1 (offHaltst p) (BitVec.ofNat 64 x)) (2 * p + 1)

/-- The 32 bytes of an event record (R415). -/
def eventRecord (q seq kind : Nat) (e : Event) : List Byte :=
  leBytes seq 8 ++ leBytes (kind + e.cause * 2 ^ 8 + e.unit * 2 ^ 16 + (if q < 8 then q * 2 ^ 32 else 0)) 8 ++
    leBytes e.detail.toNat 8 ++ leBytes e.cyc 8

/-- The record of an event written to its queue (R414): only while EN = 1, and MISS counts it when the queue is full. It
leaves in the management channel, a header and a flit (11 R359, log 68). -/
def writeEvent (d : Dev) (q seq kind : Nat) (e : Event) : Dev :=
  let r := offEvq q + 8
  let tail := regBits d r 16 8
  if regBits d r 0 1 = 0 then d
  else if (tail + 1) % 256 = regBits d r 8 8 then regPut d r 32 8 (min (regBits d r 32 8 + 1) 255)
  else
    let d1 := netAdd (hostWrite d (regBits d (offEvq q) 13 51 * 8192 + 32 * tail) (eventRecord q seq kind e)) 111 16 2
    let d2 := regPut d1 r 16 8 (tail + 1)
    if q = 8 then raiseMsix d2 16 else d2

/-- A context-fatal cause as it is accepted: of KIND 3 it halts a partition that is not halted; of a halted one it is of KIND 4. -/
def eventKind (d : Dev) (q : Nat) (e : Event) : Nat := if e.kind = 3 ∧ halted d q then 4 else e.kind

/-- An event accepted (R416): it takes the queue's next SEQ, may raise the halt line, and its record is written. -/
def acceptEvent (d : Dev) (q : Nat) (e : Event) : Dev :=
  let seq := tgetD d.seqs q 0
  let kind := eventKind d q e
  let d1 := { d with seqs := tput d.seqs q (seq + 1) }
  let d2 := if kind = 3 ∧ q < 8 then raiseLine d1 q seq e else d1
  let d3 := if kind = 3 ∨ kind = 4 then
      modPart d2 q (fun x => { x with causes := if (tget x.causes e.unit).isSome then x.causes else tput x.causes e.unit e.cause })
    else d2
  writeEvent d3 q seq kind e

/-- Every event waiting at an arbiter, accepted in the order in which they stand. -/
def acceptAll (d : Dev) (q : Nat) : Dev :=
  (tgetD d.events q []).foldl (fun d e => acceptEvent d q e) { d with events := tdel d.events q }

/-- An event may be the next: no earlier one of its source waits, and its queue is enabled if it waits for that. -/
def eventNext (d : Dev) (q idx : Nat) : Option Event :=
  let es := tgetD d.events q []
  match es[idx]? with
  | none => none
  | some e =>
    if (es.take idx).any (fun x => x.unit == e.unit) || (e.held && regBits d (offEvq q + 8) 0 1 == 0) then none else some e

/-- EVENT_ACCEPT. -/
def execEventAccept (q idx : Nat) (s : State) : Out :=
  let d := s.dev
  match eventNext d q idx with
  | some e => withDev s (acceptEvent { d with events := tput d.events q ((tgetD d.events q []).eraseIdx idx) } q e)
  | none => withDev s d

/-! ## The stop of a unit (14 R407, 17 R471) -/

/-- A part whose packet is partly injected. -/
def partlySent (o : Op) (a : Acc) : Bool := !a.done && a.tgt.isSome && decide (0 < a.flits) && decide (a.flits < partFlits o a)

/-- The operation with its partly injected packets aborted: they are never applied, and their leaf holds no allowance. -/
def abortOp (o : Op) : Op := { o with accs := o.accs.map (fun a => if partlySent o a then { a with tgt := none, flits := 0 } else a) }

/-- The abort flits of an operation: each ends a packet, whose flits its receiver will discard. -/
def abortsOf (o : Op) : List Abort :=
  (o.accs.filter (partlySent o)).map (fun a => { leaf := coreLeaf o.core, part := o.part, flits := partFlits o a - a.flits + 1 })

/-- PACKET_ABORT of the packets of a core that stops. -/
def abortCore (d : Dev) (core : Nat) : Dev :=
  let mine := d.ops.filter (fun o => o.2.core == core)
  { d with
    links := { d.links with aborts := d.links.aborts ++ mine.flatMap (fun o => abortsOf o.2) }
    ops := d.ops.map (fun o => (o.1, if o.2.core == core then abortOp o.2 else o.2)) }

/-- The stop area of a partition takes records (R409): EN = 1 and it lies in device memory of the partition's octants. -/
def stopArea (d : Dev) (p : Nat) : Bool :=
  let a := regBits d (offStopbase p) 7 45 * 128
  regBits d (offStopbase p) 0 1 == 1 && (List.range 1048).all (fun u => isDram (a + 128 * u) && inPart d p (a + 128 * u))

/-- Every unit of a partition has stopped. -/
def allStopped (d : Dev) (p : Nat) : Bool :=
  match tget d.parts p with
  | some q => (unitsOf d p).all (fun u => (tget q.stopped u).isSome)
  | none => false

/-- With no records to write, DONE becomes 1 and PEND 0 once every unit has stopped and the skid bounds have passed (R408, R409). -/
def doneUnwritten (d : Dev) (p : Nat) : Dev :=
  let at_ := ((tget d.parts p).map (fun q => q.haltAt)).getD 0
  if !stopArea d p && allStopped d p && decide (at_ + 2500 ≤ d.cyc) then regPut (regPut d (offHaltst p) 62 1 1) (offHaltst p) 0 16 0
  else d

/-- A unit stopped at a cycle. -/
def stopUnit (d : Dev) (p u : Nat) : Dev :=
  let d1 := modPart d p (fun q => { q with stopped := tput q.stopped u (min d.cyc (q.haltAt + stopBound u)) })
  if u < 960 ∧ u % 5 = 0 then abortCore d1 (u / 5) else d1

/-- UNIT_STOP: a unit of a halted partition stops. -/
def execUnitStop (u : Nat) (s : State) : Out :=
  let d := s.dev
  match unitPart d u with
  | none => withDev s d
  | some p =>
    if halted d p then
      withDev s (doneUnwritten (if (((tget d.parts p).bind (fun q => tget q.stopped u))).isSome then d else stopUnit d p u) p)
    else withDev s d

/-- ABORT_FLIT_RECEIVE: the receiver discards an aborted packet's flits and returns their credits. -/
def execAbortFlitReceive (idx : Nat) (s : State) : Out :=
  let d := s.dev
  match d.links.aborts[idx]? with
  | none => withDev s d
  | some a =>
    withDev s (creditBack { d with links := { d.links with aborts := d.links.aborts.eraseIdx idx } } (32 * a.leaf + a.part))

/-! ## Stop records (14 R411, 15 R443) -/

/-- The number whose bit n is set for each n of a list. -/
def bitSet (xs : List Nat) : Nat := xs.foldl (fun a n => if bit a n then a else a + 2 ^ n) 0

/-- The payload of a core's record. -/
def corePayload (d : Dev) (p c : Nat) : List Byte :=
  let gs := d.groups.filter (fun g => g.2.core == c)
  let slots := fun (f : Nat → Group → Bool) => bitSet ((gs.filter (fun g => holdsSlot g.2 && f g.1 g.2)).map (fun g => g.2.rslot))
  let log := (tgetD d.cores c default).slog
  let order := fun (e : Nat × Nat × Nat) => ((tget d.ops e.2.1).map (fun o => logOrder o e.2.2)).getD 0
  let oldest := match log with
    | [] => 0
    | x :: t =>
      let e := t.foldl (fun a b => if order b < order a then b else a) x
      ((tget d.ops e.2.1).bind (fun o => (o.accs.find? (fun a => a.lane == e.2.2)).map (fun a => a.va))).getD 0
  let halter := match (tget d.parts p).bind (fun q => q.haltGrp) with
    | some (k, x) => if k = c then x.toNat else 2 ^ 64 - 1
    | none => 2 ^ 64 - 1
  leBytes (slots (fun _ _ => true)) 8 ++ leBytes log.length 8 ++ leBytes oldest 8 ++ leBytes (slots (fun i g => g.bound.fault || groupWaits d i)) 8 ++
    leBytes ((gs.filter (fun g => g.2.place == .evicted)).length) 8 ++ leBytes halter 8

/-- The payload of a matrix array's record. -/
def mxPayload (d : Dev) (c : Nat) : List Byte :=
  let k := tgetD d.cores c default
  match k.mq with
  | [] => []
  | m :: _ =>
    let o := (tget d.ops m.op).getD default
    let team := ((tget d.teams o.tid).map (fun t => t.slot * 2 ^ 56 + t.core * 2 ^ 48 + t.tidx)).getD 0
    leBytes k.mq.length 8 ++ leBytes o.a.toNat 8 ++ leBytes m.rprog 8 ++ leBytes team 8

/-- The lanes of a command that have no result yet. -/
def openLanes (o : Op) : Mask := maskOf 64 (fun l => mbit o.act l && !mbit o.fin l && (rbinWord o.word || (tget o.outs l).isNone))
where
  rbinWord : Instr → Bool
    | .rbin _ _ _ => true
    | _ => false

/-- The lanes of a command that wait on a page: all that have no result, where the word as a whole does. -/
def waitLanes (d : Dev) (id : Nat) (o : Op) : Mask :=
  if waiting d (.op id) then openLanes o else maskOf 64 (fun l => mbit (openLanes o) l && waiting d (.lane id l))

/-- The lanes with a command in progress at an engine of a core, and those that wait on a fault. -/
def engineLanes (d : Dev) (u c : Nat) : Mask × Mask :=
  let os := d.ops.filter (fun o => o.2.core == c && isEngine o.2.word && !isMatrix o.2.word && engineUnit c o.2.word == u)
  (os.foldl (fun m o => m ||| openLanes o.2) 0, os.foldl (fun m o => m ||| waitLanes d o.1 o.2) 0)

/-- A ring of a feeder or drain with a slot in hand. -/
def slotInHand (r : Ring) : Bool :=
  (r.cfg.prod != 1 && r.slots.any (fun x => x.st == .reserved)) || (r.cfg.cons == 1 && r.slots.any (fun x => x.st == .popped)) || decide (0 < r.taken)

/-- The bytes of a ring's pattern that are done: of a drain, or of a feeder that fills it; a ring of notices has no pattern. -/
def patternDone (r : Ring) : Nat := if r.cfg.cons = 1 then r.drained + r.taken else if r.cfg.prod = 0 then r.fed + r.taken else 0

/-- The payload of a feeder and drain's record: the ring it has a slot in hand for, and the notices it has still to pull. -/
def feedPayload (d : Dev) (c : Nat) : List Byte :=
  let ts := d.teams.filter (fun t => t.2.core == c)
  let busy := ts.flatMap (fun t => (t.2.rings.filter (fun r => slotInHand r.2)).map (fun r => (r.1, t.2.slot, r.2)))
  let left := ts.foldl (fun n t => t.2.rings.foldl (fun n r => n + (r.2.notices.foldl (fun n x => n + (x.len - x.pulled)) 0 - (if r.2.cfg.prod = 2 then r.2.taken else 0))) n) 0
  match busy with
  | [] => leBytes 0 8 ++ leBytes 0 8 ++ leBytes left 8
  | (n, slot, r) :: _ => leBytes (n + slot * 8) 8 ++ leBytes (patternDone r) 8 ++ leBytes left 8

/-- An extent of a grid, or of a galley's task, waits on a report. -/
def extentReport (r : Report) : Bool :=
  r.src == 6 && r.who.any (fun w => match w with
    | .grid _ k => k != 0
    | .galley _ _ => true
    | _ => false)

/-- The payload of a TD's record: the launch in progress at the partition's serving TD, and the extent records outstanding. -/
def tdPayload (d : Dev) (p o : Nat) : List Byte :=
  let gs := (d.grids.filter (fun g => g.2.part == p && decide (g.2.nextCl < g.2.task.grid))).map (fun g => g.2.task.addr)
  let n := (d.reports.filter (fun r => r.2.oct == o && extentReport r.2 && (match r.2.st with
    | .record _ _ => true
    | _ => false))).length
  leBytes (if o = servingOct d p then gs.headD 0 else 0) 8 ++ leBytes n 8

/-- Bytes 32 to 127 of a unit's record. -/
def stopPayload (d : Dev) (p u : Nat) : List Byte :=
  let c := u / 5
  let bs :=
    if 960 ≤ u then (if u < 1000 ∧ u % 5 = 0 then tdPayload d p ((u - 960) / 5) else [])
    else if u % 5 = 0 then corePayload d p c
    else if u % 5 = 1 then mxPayload d c
    else if u % 5 = 2 then leBytes (engineLanes d u c).1.toNat 8 ++ leBytes (engineLanes d u c).2.toNat 8
    else if u % 5 = 3 then leBytes (engineLanes d u c).1.toNat 8
    else feedPayload d c
  (bs ++ List.replicate 96 0#8).take 96

/-- A unit that stops holding work. -/
def holdsWork (d : Dev) (p u : Nat) : Bool :=
  let c := u / 5
  if u < 960 then
    (if u % 5 = 0 then d.groups.any (fun g => g.2.core == c) || d.ops.any (fun o => o.2.core == c && !isEngine o.2.word)
     else if u % 5 = 1 then !(tgetD d.cores c default).mq.isEmpty
     else if u % 5 = 4 then d.teams.any (fun t => t.2.core == c && t.2.rings.any (fun r => slotInHand r.2 || !r.2.notices.isEmpty))
     else (engineLanes d u c).1 != 0#64)
  else if u < 1000 then
    (let o := (u - 960) / 5
     if u % 5 = 0 then o == servingOct d p && (d.grids.any (fun g => g.2.part == p) ||
       ((tget d.parts p).map (fun q => q.queues.any (fun r => !r.2.isEmpty) || !q.runs.isEmpty)).getD false)
     else if u % 5 = 1 then d.draws.any (fun w => w.2.part == p && w.2.d.op == 2 && w.2.took)
     else if u % 5 = 2 then (cxOf d o).own.isSome
     else if u % 5 = 3 then d.draws.any (fun w => w.2.part == p && w.2.d.op == 0 && w.2.oct == o)
     else d.reports.any (fun r => r.2.oct == o))
  else false

/-- The word at offset 24: the detail word where this unit raised the halt and one is defined, else the unit's own cause or 0. -/
def stopDetail (d : Dev) (p u : Nat) (q : Part) : Nat :=
  if regBits d (offHaltst p) 32 16 = u ∧ q.haltDet ≠ 0 ∧ regBits d (offHaltst p) 48 8 ≠ 4 then q.haltDet.toNat else tgetD q.causes u 0

/-- A unit's stop record. -/
def stopRecord (d : Dev) (p u : Nat) (q : Part) : List Byte :=
  let st := if q.failed.contains u then 3 else if holdsWork d p u then 2 else 1
  leBytes (1 + st * 2 ^ 8 + u * 2 ^ 16) 8 ++ leBytes q.haltSeq 8 ++ leBytes (tgetD q.stopped u 0) 8 ++ leBytes (stopDetail d p u q) 8 ++
    stopPayload d p u

/-- PEND falls by one for a unit, and DONE becomes 1 with the last (R408). -/
def pendFalls (d : Dev) (p u : Nat) : Dev :=
  let n := regBits d (offHaltst p) 0 16 - 1
  let d1 := regPut (modPart d p (fun q => { q with written := q.written ++ [u] })) (offHaltst p) 0 16 n
  if n = 0 then regPut d1 (offHaltst p) 62 1 1 else d1

/-- The stop watchdog of a unit has run out: 10 µs are 12,500 cycles. -/
def stopLate (d : Dev) (p u : Nat) : Bool :=
  match tget d.parts p with
  | some q => halted d p && stopArea d p && !q.written.contains u && decide (q.haltAt + 12500 ≤ d.cyc)
  | none => false

/-- STOP_RECORD_WRITE: a unit that has stopped writes its record, until its 10 µs have run out: from then on it counts as failed and its
area stays as it is (R412). -/
def execStopRecordWrite (u : Nat) (s : State) : Out :=
  let d := s.dev
  match unitPart d u with
  | none => withDev s d
  | some p =>
    match tget d.parts p with
    | none => withDev s d
    | some q =>
      if halted d p && (tget q.stopped u).isSome && !q.written.contains u && !stopLate d p u then
        (if stopArea d p then withDev s (pendFalls (devWrite d (regBits d (offStopbase p) 7 45 * 128 + 128 * u) (stopRecord d p u q)) p u)
         else withDev s (doneUnwritten d p))
      else withDev s d

/-! ## Withdrawal (14 R421) -/

/-- An octant is withdrawn: its CLR stays 1 until device reset, from now on or, while it is assigned, from its release. -/
def loseOct (d : Dev) (o : Nat) : Dev :=
  let d1 := { d with links := { d.links with octLost := if d.links.octLost.contains o then d.links.octLost else o :: d.links.octLost } }
  if octAsg d1 o then d1 else regPut d1 offOctpart (8 * o + 6) 1 1

/-- Every lane of a link withdrawn. -/
def losePort (d : Dev) (u : Nat) : Dev :=
  { d with links := { d.links with lost := d.links.lost ++ ((List.range linkLanes).filter (fun l => !d.links.lost.contains (u, l))).map (fun l => (u, l)) } }

/-- The unit of a lasting fault is withdrawn: its core, its octant, or its port. -/
def withdraw (d : Dev) (u : Nat) : Dev :=
  if u < 960 then regPut d (offWdcore (u / 5 / 64)) (u / 5 % 64) 1 1
  else if u < 1048 then loseOct d (unitOctant u)
  else if u < 1066 then losePort d u
  else d

/-- The cause byte of an event that halts nothing (R415, R418): an uncorrectable error and a stop watchdog have a code of R418, and
the others have 0 (log 59). -/
def kindCause (kind : Nat) : Nat := if kind = 6 then 0x04 else if kind = 5 then 0x05 else 0

/-- An event that halts nothing put at its arbiter. -/
def postKind (d : Dev) (q unit kind : Nat) (loc : DWord) : Dev :=
  postEvent d q { held := false, unit := unit, kind := kind, cause := kindCause kind, detail := loc, cyc := d.cyc }

/-! ## Watchdogs (14 R404, R412) -/

/-- STOP_WATCHDOG (R412): the unit counts as having failed the self-test that now begins (R419), and PEND falls by one for it. -/
def execStopWatchdog (u : Nat) (s : State) : Out :=
  let d := s.dev
  match unitPart d u with
  | none => withDev s d
  | some p =>
    if stopLate d p u then
      let d1 := if (((tget d.parts p).bind (fun q => tget q.stopped u))).isSome then d else stopUnit d p u
      let d2 := modPart (postKind d1 p u 5 0) p (fun q => { q with failed := u :: q.failed })
      withDev s (pendFalls { d2 with tests := d2.tests ++ [{ queue := p, unit := u, struct_ := 0x0F, corrected := false, loc := 0, late := true }] } p u)
    else withDev s d

/-- ENGINE_WATCHDOG (R404): WDP cycles have passed since a unit that holds accepted work made a step. -/
def execEngineWatchdog (u p : Nat) (s : State) : Out :=
  let d := s.dev
  let wdp := regBits d offWdcfg 0 32
  match tget d.progress u with
  | none => withDev s d
  | some t =>
    if wdp ≠ 0 ∧ t + wdp ≤ d.cyc ∧ octOf d p (unitOctant u) = true ∧ unitRuns d p u = true then
      withDev s (raiseHalt { d with progress := tput d.progress u d.cyc } p u 0x05 0)
    else withDev s d

/-- CREDIT_WATCHDOG (R404): a partition's request or response channel of a leaf has returned no credit for 65,536 cycles. Which unit the
event names is not stated: one of the partition's own (log 2). -/
def execCreditWatchdog (leaf chan : Nat) (s : State) : Out :=
  let d := s.dev
  let p := chan % 8
  let us := unitsOf d p
  match tget d.links.credit (32 * leaf + chan) with
  | none => withDev s d
  | some t =>
    if t + 65536 ≤ d.cyc ∧ chan < 16 ∧ ¬ us.isEmpty then
      let u := us.getD ((Config.freeWord s.tick).toNat % us.length) 0
      withDev s (raiseHalt { d with links := { d.links with credit := tdel d.links.credit (32 * leaf + chan) } } p u 0x05 0)
    else withDev s d

end Sys2Proof.Machine
end

