-- ==== Sys2Proof/Machine/Errors.lean ====
section
/-! DEFINITION. Errors of storage, datapaths and links, their self-tests, and what is withdrawn (14 R401 to R403, R419 to R425,
R489). -/

namespace Sys2Proof.Machine

/-! ## Where an error is (14 R401, R417, R489) -/

/-- The form of a location word. -/
def locForm (loc : DWord) : Nat := bits loc.toNat 62 2
/-- The structure code of a location of form 2. -/
def locStruct (loc : DWord) : Nat := bits loc.toNat 32 8

/-- The arbiter of an error: its unit's partition's, or the device's for a unit of no partition; of a network flit, that of the partition
of its channel, and for the management channel the device's (R401, R417). -/
def errorQueue (d : Dev) (u : Nat) (loc : DWord) (chan : Nat) : Nat :=
  if locForm loc = 2 ∧ locStruct loc = 0x0E then (if chan < 8 ∧ assigned d chan = true then chan else 8) else (unitPart d u).getD 8

/-- A unit has storage of form 2 that SECDED protects (R401): registers and scratchpad a core, AM a core or its array, tags, directory and
DSC section a slice, fault buffers an octant, network buffers and other storage any unit. -/
def secdedAt (u c : Nat) : Bool :=
  if c ≤ 2 then decide (u < 960) && u % 5 == 0
  else if c = 3 then decide (u < 960) && decide (u % 5 ≤ 1)
  else if c ≤ 6 then decide (1000 ≤ u) && decide (u < 1048)
  else if c = 7 then decide (960 ≤ u) && decide (u < 1000)
  else (c == 0x0E || c == 0x0F) && decide (u < 1068)
/-- The bits of a location that its form does not name are 0, and its address is one of memory, aligned to a 64-bit word (R489). -/
def locPlain (loc : DWord) : Bool :=
  if locForm loc = 0 then
    bits loc.toNat 52 2 == 0 && bits loc.toNat 0 3 == 0 &&
      (isDram (bits loc.toNat 0 52) || (decide (0x4000000000 ≤ bits loc.toNat 0 52) && decide (bits loc.toNat 0 52 < 0x4020000000)))
  else bits loc.toNat 48 14 == 0
/-- A location names memory of a slice, or SECDED storage of the unit. -/
def storageAt (u : Nat) (loc : DWord) : Bool :=
  locPlain loc &&
  (if locForm loc = 0 then decide (1000 ≤ u) && decide (u < 1048) && homeSlice (bits loc.toNat 0 52) == u - 1000
   else locForm loc == 2 && secdedAt u (locStruct loc))
/-- A location names a datapath checked by residue: an array's, a slice's adders', a TU's, with index 0. -/
def residueAt (u : Nat) (loc : DWord) : Bool :=
  locForm loc == 2 && locPlain loc && bits loc.toNat 0 32 == 0 &&
  ((locStruct loc == 0x0B && decide (u < 960) && u % 5 == 1) || (locStruct loc == 0x0C && decide (1000 ≤ u) && decide (u < 1048)) ||
    (locStruct loc == 0x0D && decide (u < 960) && u % 5 == 2))

/-- A targeted self-test begins (R402, R419). -/
def startTest (d : Dev) (q u : Nat) (loc : DWord) (corrected : Bool) : Dev :=
  { d with tests := d.tests ++ [{ queue := q, unit := u, struct_ := if locForm loc = 2 then locStruct loc else 0xFF, corrected := corrected, loc := loc }] }

/-- CORRECTED_ERROR (R402): the corrected value is written back, so no value changes; the event, and a self-test of the word. -/
def execCorrectedError (u : Nat) (at_ : ErrAt) (s : State) : Out :=
  let d := s.dev
  let loc := at_.word
  if d.pow.on && storageAt u loc then
    let q := errorQueue d u loc at_.chan
    withDev s (startTest (postKind d q u 0 loc) q u loc true)
  else withDev s d

/-- The list without its element n. -/
def without {α : Type} (n : Nat) (xs : List α) : List α := xs.eraseIdx n

/-- The entry of a parity-checked structure that holds the failing 64-bit word, invalidated: a line of the data cache or of the
instruction cache, or an entry of the TLB and walker copies. -/
def dropEntry (d : Dev) (u c index : Nat) : Dev :=
  if c = 0x08 ∧ u < 960 ∧ u % 5 = 0 then modCore d (u / 5) (fun k => { k with dc := without (index / 16) k.dc })
  else if c = 0x09 ∧ u < 960 ∧ u % 5 = 0 then modCore d (u / 5) (fun k => { k with ic := without (index / 16) k.ic })
  else if c = 0x0A ∧ index < d.tlb.length then { d with tlb := without index d.tlb }
  else if c = 0x0A then { d with copies := without (index - d.tlb.length) d.copies }
  else d

/-- A unit has storage that parity protects: a core's caches, and the TLB with the walkers' copies. -/
def parityAt (u c : Nat) : Bool := ((c == 8 || c == 9) && decide (u < 960) && u % 5 == 0) || (c == 10 && decide (960 ≤ u) && decide (u < 1068))

/-- PARITY_ERROR (R401): the entry is invalidated and will be fetched again; nothing halts. -/
def execParityError (u c index : Nat) (s : State) : Out :=
  let d := s.dev
  if d.pow.on && parityAt u c && decide (index < 2 ^ 32) then
    withDev s (postKind (dropEntry d u c index) ((unitPart d u).getD 8) u 0 (BitVec.ofNat 64 (2 ^ 63 + c * 2 ^ 32 + index)))
  else withDev s d

/-- What is held until the partition's release, so that no consumer of a bad value completes (R403): the failing word of memory, or the
unit of the failing structure (log 69). A network flit's own check keeps it from its receiver. -/
def holdBad (d : Dev) (u : Nat) (loc : DWord) : Dev :=
  if locForm loc = 0 then { d with links := { d.links with badWords := bits loc.toNat 0 52 / 8 :: d.links.badWords } }
  else if locStruct loc = 0x0E then d
  else { d with links := { d.links with badUnits := u :: d.links.badUnits } }

/-- UNCORRECTABLE_ERROR (R403, R417): a halting cause of the owning partition with its location word; outside any partition an
event of KIND 6. A self-test follows once the unit has stopped. -/
def execUncorrectableError (u : Nat) (at_ : ErrAt) (s : State) : Out :=
  let d := s.dev
  let loc := at_.word
  if d.pow.on && (storageAt u loc || residueAt u loc) then
    let q := errorQueue d u loc at_.chan
    let d1 := if q < 8 then holdBad (raiseHalt d q u 0x04 loc) u loc else postKind d 8 u 6 loc
    withDev s (startTest d1 q u loc false)
  else withDev s d

/-! ## The end of a self-test (14 R419 to R423) -/

/-- The field of TRANS that counts a structure's transient faults (R423), by its first bit; a location in device memory is the LLC's or
the GDDR-7's (log 2), and one in direct store, which has no GDDR-7 behind it, the LLC's (03 R85). -/
def transField (t : SelfTest) (llc : Bool) : Nat :=
  if t.struct_ = 0xFF then (if llc ∨ isDram (bits t.loc.toNat 0 52) = false then 16 else 32)
  else if t.struct_ = 0x0E ∨ 1048 ≤ t.unit then 48
  else if 1000 ≤ t.unit then 16
  else if 4 ≤ t.struct_ ∧ t.struct_ ≤ 6 then 16
  else 0

/-- A field of TRANS one higher, up to 0xFFFF. -/
def countTrans (d : Dev) (lo : Nat) : Dev := regPut d offTrans lo 16 (min (regBits d offTrans lo 16 + 1) 0xFFFF)

/-- The unit of a self-test has stopped, where the test waits for that (R419). -/
def testReady (d : Dev) (t : SelfTest) : Bool :=
  t.corrected || t.queue == 8 ||
  (match tget d.parts t.queue with
   | some q => (tget q.stopped t.unit).isSome || q.clearing.isSome
   | none => true)

/-- What a lasting fault withdraws (R421): of a network flit buffer the upward link or the octant below it (log 2), else the unit. -/
def lostOf (t : SelfTest) (up : Bool) : Lost := if t.struct_ = 0x0E ∧ t.unit < 1048 then (if up then .up else .octant) else .unit

/-- The withdrawal made. -/
def withdrawLost (d : Dev) (u : Nat) (w : Lost) : Dev :=
  match w with
  | .unit => withdraw d u
  | .up => { d with links := { d.links with upLost := u :: d.links.upLost } }
  | .octant => loseOct d (unitOctant u)

/-- A test that failed: an event of KIND 2, in queue 8 where a link is withdrawn (R417), and the withdrawal, which after a corrected error
waits for the partition's release. -/
def testFails (d : Dev) (t : SelfTest) (up : Bool) : Dev :=
  let w := lostOf t up
  let d1 := modPart (postKind d (if w = .up ∨ (1048 ≤ t.unit ∧ t.unit ≤ 1066) then 8 else t.queue) t.unit 2 t.loc) t.queue
    (fun q => { q with failed := t.unit :: q.failed })
  if t.corrected ∧ t.queue < 8 ∧ (tget d.parts t.queue).isSome then
    { d1 with links := { d1.links with later := d1.links.later ++ [(t.queue, t.unit, w)] } }
  else withdrawLost d1 t.unit w

/-- STRUCTURE_SELF_TEST_DONE: the unit of a stop watchdog is treated as failing (R412). -/
def execStructureSelfTestDone (idx : Nat) (pass : Bool) (s : State) : Out :=
  let d := s.dev
  match d.tests[idx]? with
  | none => withDev s d
  | some t =>
    if testReady d t then
      let d1 := { d with tests := d.tests.eraseIdx idx }
      let free := Config.freeBool s.tick
      withDev s (if pass ∧ t.late = false then countTrans (postKind d1 t.queue t.unit 1 t.loc) (transField t free) else testFails d1 t free)
    else withDev s d

/-! ## Links (14 R424, R425) -/

/-- A lane of the Coltur link or of a Tvedli port that works. -/
def laneWorks (d : Dev) (u lane : Nat) : Bool := decide (1048 ≤ u) && decide (u ≤ 1066) && decide (lane < linkLanes) && !d.links.lost.contains (u, lane)

/-- LINK_CRC_ERROR (R424): the flit is retried; where its 16 attempts have failed (log 2) the lane is retrained. -/
def execLinkCrcError (u lane : Nat) (s : State) : Out :=
  let d := s.dev
  if decide (2 ≤ d.pow.stage) && laneWorks d u lane && !d.links.retrain.contains (u, lane) && Config.freeBool s.tick then
    withDev s { d with links := { d.links with retrain := d.links.retrain ++ [(u, lane)] } }
  else withDev s d

/-- The location word of a link lane. -/
def laneLoc (lane : Nat) : DWord := BitVec.ofNat 64 (3 * 2 ^ 62 + lane)

/-- LINK_LOST of the Coltur link (R425): every assigned partition halts with cause 0x0B. -/
def colturLost (d : Dev) : Dev :=
  (List.range 8).foldl (fun d p => if assigned d p then raiseHalt d p unitColtur 0x0B 0 else d) d

/-- A lane withdrawn. -/
def loseLane (d : Dev) (u lane : Nat) : Dev :=
  let d1 := postKind { d with links := { d.links with lost := d.links.lost ++ [(u, lane)] } } 8 u 2 (laneLoc lane)
  if u = unitColtur ∧ linkDown d1 u = true then colturLost d1 else d1

/-- RETRAIN_DONE (R424). -/
def execRetrainDone (u lane : Nat) (ok : Bool) (s : State) : Out :=
  let d := s.dev
  if d.links.retrain.contains (u, lane) then
    let d1 := { d with links := { d.links with retrain := d.links.retrain.filter (fun x => x != (u, lane)) } }
    withDev s (if ok then countTrans (postKind d1 8 u 1 (laneLoc lane)) 48 else loseLane d1 u lane)
  else withDev s d

end Sys2Proof.Machine
end

