-- ==== Sys2Proof/Machine/Lms.lean ====
section
/-! DEFINITION. SHA-256 and the LMS signatures of the boot ROM and of quotes: LMS_SHA256_M32_H20 with LMOTS_SHA256_N32_W8 of RFC 8554
(11 R375, R376; log 9). -/

namespace Sys2Proof.Machine

/-! ## SHA-256 -/

/-- The constants of the rounds. -/
def shaK : List Word :=
  [0x428A2F98#32, 0x71374491#32, 0xB5C0FBCF#32, 0xE9B5DBA5#32, 0x3956C25B#32, 0x59F111F1#32, 0x923F82A4#32, 0xAB1C5ED5#32] ++
  [0xD807AA98#32, 0x12835B01#32, 0x243185BE#32, 0x550C7DC3#32, 0x72BE5D74#32, 0x80DEB1FE#32, 0x9BDC06A7#32, 0xC19BF174#32] ++
  [0xE49B69C1#32, 0xEFBE4786#32, 0x0FC19DC6#32, 0x240CA1CC#32, 0x2DE92C6F#32, 0x4A7484AA#32, 0x5CB0A9DC#32, 0x76F988DA#32] ++
  [0x983E5152#32, 0xA831C66D#32, 0xB00327C8#32, 0xBF597FC7#32, 0xC6E00BF3#32, 0xD5A79147#32, 0x06CA6351#32, 0x14292967#32] ++
  [0x27B70A85#32, 0x2E1B2138#32, 0x4D2C6DFC#32, 0x53380D13#32, 0x650A7354#32, 0x766A0ABB#32, 0x81C2C92E#32, 0x92722C85#32] ++
  [0xA2BFE8A1#32, 0xA81A664B#32, 0xC24B8B70#32, 0xC76C51A3#32, 0xD192E819#32, 0xD6990624#32, 0xF40E3585#32, 0x106AA070#32] ++
  [0x19A4C116#32, 0x1E376C08#32, 0x2748774C#32, 0x34B0BCB5#32, 0x391C0CB3#32, 0x4ED8AA4A#32, 0x5B9CCA4F#32, 0x682E6FF3#32] ++
  [0x748F82EE#32, 0x78A5636F#32, 0x84C87814#32, 0x8CC70208#32, 0x90BEFFFA#32, 0xA4506CEB#32, 0xBEF9A3F7#32, 0xC67178F2#32]

/-- The eight words of a hash in progress. -/
structure Sha where
  a : Word
  b : Word
  c : Word
  d : Word
  e : Word
  f : Word
  g : Word
  h : Word
  deriving DecidableEq, Repr, Inhabited

/-- The words of the empty hash. -/
def Sha.start : Sha :=
  { a := 0x6A09E667#32, b := 0xBB67AE85#32, c := 0x3C6EF372#32, d := 0xA54FF53A#32,
    e := 0x510E527F#32, f := 0x9B05688C#32, g := 0x1F83D9AB#32, h := 0x5BE0CD19#32 }

/-- The three rotations of a word combined. -/
def shaMix (x : Word) (i j k : Nat) : Word := x.rotateRight i ^^^ x.rotateRight j ^^^ x.rotateRight k

/-- One round with its constant and its word of the schedule. -/
def shaRound (s : Sha) (kw : Word × Word) : Sha :=
  let t1 := s.h + shaMix s.e 6 11 25 + ((s.e &&& s.f) ^^^ (~~~s.e &&& s.g)) + kw.1 + kw.2
  let t2 := shaMix s.a 2 13 22 + ((s.a &&& s.b) ^^^ (s.a &&& s.c) ^^^ (s.b &&& s.c))
  { a := t1 + t2, b := s.a, c := s.b, d := s.c, e := s.d + t1, f := s.e, g := s.f, h := s.g }

/-- The message schedule with n more words, the last word first. -/
def shaSchedule : Nat → List Word → List Word
  | 0, ws => ws
  | n + 1, ws =>
    let x := ws.getD 14 0
    let y := ws.getD 1 0
    let s0 := x.rotateRight 7 ^^^ x.rotateRight 18 ^^^ x >>> 3
    let s1 := y.rotateRight 17 ^^^ y.rotateRight 19 ^^^ y >>> 10
    shaSchedule n ((s1 + ws.getD 6 0 + s0 + ws.getD 15 0) :: ws)

/-- A number of bytes with the most significant first. -/
def beBytes (x n : Nat) : List Byte := (leBytes x n).reverse
/-- The number whose bytes stand with the most significant first. -/
def beNat (bs : List Byte) : Nat := leNat bs.reverse

/-- A block of 64 bytes taken into a hash. -/
def shaBlock (s : Sha) (bs : List Byte) : Sha :=
  let ws := (List.range 16).map (fun i => BitVec.ofNat 32 (beNat ((bs.drop (4 * i)).take 4)))
  let r := (shaK.zip (shaSchedule 48 ws.reverse).reverse).foldl shaRound s
  { a := s.a + r.a, b := s.b + r.b, c := s.c + r.c, d := s.d + r.d, e := s.e + r.e, f := s.f + r.f, g := s.g + r.g, h := s.h + r.h }

/-- A message padded to whole blocks: a one bit, zeros, and its length in bits. -/
def shaPad (bs : List Byte) : List Byte :=
  bs ++ 0x80#8 :: (List.replicate ((119 - bs.length % 64) % 64) 0#8 ++ beBytes (8 * bs.length) 8)

/-- SHA-256: 32 bytes. -/
def sha256 (bs : List Byte) : List Byte :=
  let m := shaPad bs
  let s := (List.range (m.length / 64)).foldl (fun s i => shaBlock s ((m.drop (64 * i)).take 64)) Sha.start
  [s.a, s.b, s.c, s.d, s.e, s.f, s.g, s.h].flatMap (fun w => beBytes w.toNat 4)

/-! ## LM-OTS (RFC 8554 section 4) -/

/-- The type codes of LMOTS_SHA256_N32_W8 and LMS_SHA256_M32_H20. -/
def lmotsType : Nat := 4
def lmsType : Nat := 8
/-- The height of the tree. -/
def lmsHeight : Nat := 20

/-- The 34 digits of a message hash and its checksum. -/
def lmotsDigits (q : List Byte) : List Nat :=
  let xs := q.map (fun b => b.toNat)
  xs ++ (beBytes (xs.foldl (fun n x => n + (255 - x)) 0) 2).map (fun b => b.toNat)

/-- Steps of a hash chain: n of them from step j on. -/
def lmotsChain (id : List Byte) (q i : Nat) : Nat → Nat → List Byte → List Byte
  | 0, _, x => x
  | n + 1, j, x => lmotsChain id q i n (j + 1) (sha256 (id ++ beBytes q 4 ++ beBytes i 2 ++ beBytes j 1 ++ x))

/-- The public value of a leaf from the ends of its chains. -/
def lmotsPub (id : List Byte) (q : Nat) (ys : List (List Byte)) : List Byte :=
  sha256 (id ++ beBytes q 4 ++ beBytes 0x8080 2 ++ ys.flatten)

/-- The hash of a message under a leaf and a randomizer. -/
def lmotsHash (id : List Byte) (q : Nat) (c msg : List Byte) : List Byte :=
  sha256 (id ++ beBytes q 4 ++ beBytes 0x8181 2 ++ c ++ msg)

/-- The one-time signature of a message with the secrets of a leaf. -/
def lmotsSign (id : List Byte) (q : Nat) (secret : Nat → List Byte) (c msg : List Byte) : List Byte :=
  let ds := lmotsDigits (lmotsHash id q c msg)
  beBytes lmotsType 4 ++ c ++ ((List.range 34).map (fun i => lmotsChain id q i (ds.getD i 0) 0 (secret i))).flatten

/-- The public value that a one-time signature of a message leads to. -/
def lmotsLead (id : List Byte) (q : Nat) (sig msg : List Byte) : List Byte :=
  let ds := lmotsDigits (lmotsHash id q ((sig.drop 4).take 32) msg)
  lmotsPub id q ((List.range 34).map (fun i => lmotsChain id q i (255 - ds.getD i 0) (ds.getD i 0) ((sig.drop (36 + 32 * i)).take 32)))

/-! ## LMS (RFC 8554 section 5) -/

/-- The leaf of the tree above a one-time public value. -/
def lmsLeaf (id : List Byte) (r : Nat) (pub : List Byte) : List Byte := sha256 (id ++ beBytes r 4 ++ beBytes 0x8282 2 ++ pub)
/-- The node above two others. -/
def lmsJoin (id : List Byte) (r : Nat) (x y : List Byte) : List Byte := sha256 (id ++ beBytes r 4 ++ beBytes 0x8383 2 ++ x ++ y)

/-- Node r of a tree, h levels above its leaves. -/
def lmsNode (id : List Byte) (secret : Nat → Nat → List Byte) : Nat → Nat → List Byte
  | 0, r =>
    let q := r - 2 ^ lmsHeight
    lmsLeaf id r (lmotsPub id q ((List.range 34).map (fun i => lmotsChain id q i 255 0 (secret q i))))
  | h + 1, r => lmsJoin id r (lmsNode id secret h (2 * r)) (lmsNode id secret h (2 * r + 1))

/-- The signature of a message with leaf q: 1,772 bytes. -/
def lmsSign (id : List Byte) (secret : Nat → Nat → List Byte) (q : Nat) (c msg : List Byte) : List Byte :=
  beBytes q 4 ++ lmotsSign id q (secret q) c msg ++ beBytes lmsType 4 ++
    (List.range lmsHeight).flatMap (fun i => lmsNode id secret i ((2 ^ lmsHeight + q) / 2 ^ i ^^^ 1))

/-- The root that a node and the path above it lead to. -/
def lmsClimb (id : List Byte) : List (List Byte) → Nat → List Byte → List Byte
  | [], _, x => x
  | y :: t, r, x => lmsClimb id t (r / 2) (if r % 2 = 1 then lmsJoin id (r / 2) y x else lmsJoin id (r / 2) x y)

/-- A signature of a message verifies with a public key. -/
def lmsVerify (key sig msg : List Byte) : Bool :=
  let id := (key.drop 8).take 16
  let q := beNat (sig.take 4)
  let ots := (sig.drop 4).take 1124
  let path := (List.range lmsHeight).map (fun i => (sig.drop (1132 + 32 * i)).take 32)
  key.length == 56 && beNat (key.take 4) == lmsType && beNat ((key.drop 4).take 4) == lmotsType &&
    sig.length == 1772 && beNat (ots.take 4) == lmotsType && beNat ((sig.drop 1128).take 4) == lmsType && decide (q < 2 ^ lmsHeight) &&
    lmsClimb id path (2 ^ lmsHeight + q) (lmsLeaf id (2 ^ lmsHeight + q) (lmotsLead id q ots msg)) == key.drop 24

/-! ## The ROM's image and the attestation key -/

/-- What a slot of the sideband flash holds verifies: its signature over its image, with the key whose SHA-256 hash is fused (11 R375). -/
def romVerifies (slot : List Byte) : Bool :=
  sha256 (Config.slotKey slot) == leBytes Config.romKey.toNat 32 && lmsVerify (Config.slotKey slot) (Config.slotSig slot) (Config.slotImage slot)

/-- FWHASH of what a slot holds: the first byte of the hash is its lowest (11 R375). -/
def fwHash (slot : List Byte) : BitVec 256 := BitVec.ofNat 256 (leNat (sha256 (Config.slotImage slot)))

/-- The signature of a message by the device attestation key, with a leaf (11 R376). -/
def attSign (leaf : Nat) (msg : List Byte) : List Byte :=
  lmsSign (leBytes Config.attId.toNat 16) (fun q i => leBytes (Config.attSecret q i).toNat 32) leaf (leBytes (Config.attRandom leaf).toNat 32) msg

end Sys2Proof.Machine
end

