-- ==== Sys2Proof/Machine/Manage.lean ====
section
/-! DEFINITION. The management block: every register that a write or a read acts on (00 R7 and R9; 01 R30 to R34; 03 R79, R80 and
R84; 09 R322, R329 and R334; 11 R361 to R371, R376 and R487; 14 R405 to R423; 15 R437 and R444; 17 R470), and the assignment and
release of partitions. -/

namespace Sys2Proof.Machine

/-! ## Assignment and release (01 R32, R33) -/

/-- Some octant of a mask. -/
def maskOcts (mask : Nat) : List Nat := (List.range 8).filter (fun o => bit mask o)

/-- A release of partition p has not yet completed. -/
def releasing (d : Dev) (p : Nat) : Bool := ((tget d.parts p).map (fun q => q.releasing)).getD false

/-- STATUS of a command: the first row of R32 that holds; before step 2 of bring-up every command is refused (11 R378). -/
def octStatus (d : Dev) (op pn mask : Nat) : Nat :=
  let os := maskOcts mask
  if d.pow.stage < 2 then 1
  else if op = 0 then 0
  else if op = 3 ∨ (op = 1 ∧ os.isEmpty) then 3
  else if op = 1 ∧ os.any (fun o => octAsg d o || octClr d o) then 1
  else if op = 1 ∧ (assigned d pn || releasing d pn) then 2
  else if op = 2 ∧ !assigned d pn then 2
  else 0

/-- Octants taken by a partition: ASG := 1, PNUM := PN. -/
def takeOcts (d : Dev) (pn : Nat) (os : List Nat) : Dev :=
  os.foldl (fun d o => regPut (regPut d offOctpart (8 * o + 7) 1 1) offOctpart (8 * o) 3 pn) d

/-- The base of an octant's device memory and of its direct store (03 R81). -/
def dramBase (o : Nat) : Nat := 0x480000000 * o
def storeBase (o : Nat) : Nat := 0x4000000000 + 0x4000000 * o

/-- The direct store of an octant reads as 0 (03 R85). -/
def zeroStore (d : Dev) (o : Nat) : Dev := { d with mem := zeroRange d.mem (storeBase o) (storeBase o + 0x4000000) }

/-- A partition assigned: its queue and service pointers take their reset values (11 R367), its dispatcher begins (09 R323), its
carved direct store reads as 0 (03 R85). DESIGN CHOICE for what keeps its value: log 41. -/
def assign (d : Dev) (pn : Nat) (os : List Nat) : Dev :=
  let d1 := (List.range 64).foldl (fun d q => regSet d (offQptr pn q) 0) (regSet (takeOcts d pn os) (offSvcptr pn) 0)
  let d2 := os.foldl zeroStore d1
  { d2 with parts := tput d2.parts pn (newPart os (regBits d2 (offTdqcfg pn 0) 0 4 + 1) 0) }

/-- The partition is idle (R33). DESIGN CHOICE for waiting events: log 73. -/
def idle (d : Dev) (p : Nat) : Bool :=
  !d.teams.any (fun t => t.2.part == p && t.2.st != .retired) && !d.ops.any (fun o => o.2.part == p) && !d.grids.any (fun g => g.2.part == p) &&
  !d.draws.any (fun w => w.2.part == p) && !d.reports.any (fun r => r.2.part == p) && !(tgetD d.events p []).any (fun e => e.kind == 3) &&
  ((tget d.parts p).map (fun q => q.queues.all (fun r => r.2.isEmpty) && q.runs.isEmpty && q.comps.isEmpty &&
    q.galleys.all (fun g => g.2.ready.isEmpty && g.2.batches.all (fun b => b.tid.isSome || b.freed)))).getD true &&
  (octsOf d p).all (fun o => (cxOf d o).own.isNone && cxDrained d o)

/-- The halting event of a release or of HREQ (14 R406): cause 0x0C, unit 1067. -/
def hostHalt (d : Dev) (p : Nat) : Dev :=
  acceptEvent d p { held := false, unit := unitMgmt, kind := 3, cause := 0x0C, detail := 0, cyc := d.cyc }

/-- Octants given up: ASG = 0, PNUM = 0, CLR = 1 in the same access. -/
def giveOcts (d : Dev) (os : List Nat) : Dev :=
  os.foldl (fun d o => regPut d offOctpart (8 * o) 8 0x40) d

/-- A release accepted: the octants are given up, and a partition that is not idle is halted. -/
def release (d : Dev) (p : Nat) : Dev :=
  let busy := !idle d p
  let d1 := modPart (giveOcts d (asgOcts d p)) p (fun q => { q with releasing := true })
  if busy && !halted d p then hostHalt d1 p else d1

/-- A write to OCTCMD (R31, R32). -/
def writeOctcmd (d : Dev) (v : Nat) : Dev :=
  let op := bits v 12 2
  let pn := bits v 8 3
  let mask := bits v 0 8
  let st := octStatus d op pn mask
  let d1 := regSet d offOctcmd (BitVec.ofNat 64 (st * 2 ^ 16 + op * 2 ^ 12 + pn * 2 ^ 8 + mask))
  if st ≠ 0 then d1 else if op = 1 then assign d1 pn (maskOcts mask) else if op = 2 then release d1 pn else d1

/-- OCTCMD_NONE. -/
def execOctcmdNone (v : Word) (s : State) : Out :=
  withDev s (if s.dev.pow.on && (bits v.toNat 12 2 == 0 || bits v.toNat 12 2 == 3) then writeOctcmd s.dev v.toNat else s.dev)
/-- OCTCMD_ASSIGN. -/
def execOctcmdAssign (v : Word) (s : State) : Out :=
  withDev s (if s.dev.pow.on && bits v.toNat 12 2 == 1 then writeOctcmd s.dev v.toNat else s.dev)
/-- OCTCMD_RELEASE. -/
def execOctcmdRelease (v : Word) (s : State) : Out :=
  withDev s (if s.dev.pow.on && bits v.toNat 12 2 == 2 then writeOctcmd s.dev v.toNat else s.dev)

/-- The channels of a halted partition have emptied: nothing that was handed off is in flight, or the 2 µs of its skid have passed
(14 R407). -/
def skidOver (d : Dev) (p : Nat) (q : Part) : Bool := !inFlight d p || decide (q.haltAt + 2500 ≤ d.cyc)

/-- The partition whose release may clear: idle, or with every stop record accounted for and its channels empty. -/
def clearReady (d : Dev) (p : Nat) (q : Part) : Bool :=
  q.releasing && q.clearing.isNone && (!halted d p || (regBits d (offHaltst p) 62 1 == 1 && skidOver d p q))

/-- The links' record with nothing of a partition. -/
def linksWithout (d : Dev) (p : Nat) : Links :=
  { d.links with
    aborts := d.links.aborts.filter (fun a => a.part != p)
    credit := d.links.credit.filter (fun c => c.1 % 32 / 16 != 0 || c.1 % 8 != p)
    flight := d.links.flight.filter (fun c => c.1 % 32 / 16 != 0 || c.1 % 8 != p)
    badWords := d.links.badWords.filter (fun a => !inPart d p (8 * a))
    badUnits := d.links.badUnits.filter (fun u => !(octsOf d p).contains (unitOctant u)) }

/-- Everything of a partition that its cores, engines and dispatcher hold is gone (R33 step 2). -/
def clearPart (d : Dev) (p : Nat) : Dev :=
  let tids := (d.teams.filter (fun t => t.2.part == p)).map (fun t => t.1)
  let os := octsOf d p
  { d with
    groups := d.groups.filter (fun g => !tids.contains g.2.tid)
    teams := d.teams.filter (fun t => t.2.part != p)
    clusters := d.clusters.filter (fun c => c.2.part != p)
    grids := d.grids.filter (fun g => g.2.part != p)
    draws := d.draws.filter (fun w => w.2.part != p)
    tiles := d.tiles.filter (fun t => t.2.part != p)
    dsc := d.dsc.filter (fun x => x.2.part != p)
    ops := d.ops.filter (fun o => o.2.part != p)
    reports := d.reports.filter (fun r => r.2.part != p)
    tlb := d.tlb.filter (fun t => t.part != p)
    copies := d.copies.filter (fun t => t.part != p)
    cores := d.cores.filter (fun c => !os.contains (coreOct c.1))
    cx := d.cx.filter (fun x => !os.contains x.1)
    acks := d.acks.filter (fun a => a.2.1 != p)
    progress := d.progress.filter (fun u => !os.contains (unitOctant u.1))
    links := linksWithout d p
    rels := d.rels.filter (fun r => r.part != p)
    net := d.net.filter (fun x => x.1 % 32 / 16 != 0 || x.1 % 8 != p) }

/-- The partition's record while its octants clear: nothing is queued, no graph runs. -/
def clearedPart (q : Part) (cyc : Nat) : Part :=
  { newPart q.octs 0 0 with releasing := true, clearing := some cyc, haltAt := q.haltAt, haltSeq := q.haltSeq, haltDet := q.haltDet, stopped := q.stopped, written := q.written }

/-- The withdrawals that waited for a partition's release (14 R420). -/
def applyLater (d : Dev) (p : Nat) : Dev :=
  let xs := d.links.later.filter (fun x => x.1 == p)
  xs.foldl (fun d x => withdrawLost d x.2.1 x.2.2) { d with links := { d.links with later := d.links.later.filter (fun x => x.1 != p) } }

/-- RELEASE_CLEAR (R33 step 2): the clearing begins; events still at the arbiter are taken first. -/
def execReleaseClear (p : Nat) (s : State) : Out :=
  let d := s.dev
  match tget d.parts p with
  | none => withDev s d
  | some q =>
    if clearReady d p q then withDev s (applyLater (modPart (clearPart (acceptAll d p) p) p (fun q => clearedPart q d.cyc)) p)
    else withDev s d

/-- The cycles an octant's clearing takes at least (R34): 18 GiB at 480 GB/s. -/
def clearCycles : Nat := 50331648

/-- The partition whose clearing holds an octant. -/
def clearingPart (d : Dev) (o : Nat) : Option (Nat × Nat) :=
  d.parts.findSome? (fun q => if q.2.octs.contains o then q.2.clearing.map (fun c => (q.1, c)) else none)

/-- An octant's memory written with zeros. -/
def zeroOct (d : Dev) (o : Nat) : Dev :=
  { d with
    mem := zeroRange (zeroRange d.mem (dramBase o) (dramBase o + 0x480000000)) (storeBase o) (storeBase o + 0x4000000)
    llc := d.llc.filter (fun t => t.1 * 512 / 0x480000000 != o) }

/-- A release completes when every octant the partition held has CLR = 0: HALTST takes its reset value (14 R408), and the self-tests that
still run report to the device (14 R417). -/
def endRelease (d : Dev) (p : Nat) : Dev :=
  if (octsOf d p).all (fun o => !octClr d o) then { regSet d (offHaltst p) 0 with parts := tdel d.parts p, tests := d.tests.map (fun t => if t.queue = p then { t with queue := 8 } else t) }
  else d

/-- OCTANT_CLEAR_DONE (R33 step 3): CLR returns to 0, but never for a withdrawn octant (14 R421). -/
def execOctantClearDone (o : Nat) (s : State) : Out :=
  let d := s.dev
  match clearingPart d o with
  | none => withDev s d
  | some (p, c) =>
    if octClr d o && !d.links.octLost.contains o && decide (o < 8) && decide (c + clearCycles ≤ d.cyc) then
      withDev s (endRelease (regPut (zeroOct d o) offOctpart (8 * o + 6) 1 0) p)
    else withDev s d

/-! ## Registers whose writes act (03, 09, 11) -/

/-- A write to DSTORE (03 R84). -/
def writeDstore (d : Dev) (o v : Nat) : Dev :=
  if !octAsg d o && !octClr d o && decide (bits v 0 6 ≤ 32) then regSet d (offDstore o) (BitVec.ofNat 64 (bits v 0 6)) else d

/-- DSTORE_WRITE. -/
def execDstoreWrite (o : Nat) (v : DWord) (s : State) : Out :=
  withDev s (if s.dev.pow.on && decide (o < 8) then writeDstore s.dev o v.toNat else s.dev)

/-- The size of a TLBINV range as a power of two; 56 bits for SIZE 0, all entries (03 R80). -/
def invBits (size : Nat) : Nat := if size = 0 then 56 else if size = 1 then 16 else if size = 2 then 21 else 29

/-- Two stretches of the address space of 2^a and 2^b bytes share a byte. -/
def stretchesMeet (x a y b : Nat) : Bool := x / 2 ^ max a b == y / 2 ^ max a b

/-- An access touches a byte of a range. -/
def accMeets (a : Acc) (va k : Nat) : Bool :=
  k == 56 || !apart a.va (accSpan a) (va / 2 ^ k * 2 ^ k) (2 ^ k)

/-- Part of an access in flight may still be applied (17 R471): a stopped core sends nothing more. -/
def stillGoes (d : Dev) (o : Op) (a : Acc) : Bool := !a.done && a.tgt.isSome && !neverGoes d o a

/-- The operations of a partition in flight with a translated access not yet applied that touches a range: those that may have used
a removed entry. -/
def invUsers (d : Dev) (pn va k : Nat) : List Nat :=
  (d.ops.filter (fun o => o.2.part == pn && o.2.accs.any (fun a => stillGoes d o.2 a && accMeets a va k))).map (fun o => o.1)

/-- The extents of a table that do not meet a range (09 R315). -/
def dropExtents (xs : List Extent) (va k : Nat) : List Extent :=
  xs.filter (fun x => !(decide (x.va < va / 2 ^ k * 2 ^ k + 2 ^ k) && decide (va / 2 ^ k * 2 ^ k < x.va + x.size)))

/-- A write to TLBINV (03 R80): with BUSY = 0, every entry that maps a byte of the range goes, of extent tables too, those that are being
built among them (09 R315). -/
def writeTlbinv (d : Dev) (v : Nat) : Dev :=
  if regBits d offTlbinv 63 1 = 1 then d
  else
    let pn := bits v 56 3
    let k := invBits (bits v 0 2)
    let va := if k = 56 then 0 else bits v 16 40 * 65536
    let mine := fun (gid : Nat) => ((tget d.grids gid).map (fun g => g.part == pn)).getD false
    let cut := fun (t : Tab (List Extent)) => t.map (fun e => (e.1, dropExtents e.2 va k))
    let cutWalk := fun (w : ExtWalk) => { w with found := dropExtents w.found va k }
    let d1 := regSet d offTlbinv (BitVec.ofNat 64 (2 ^ 63 + pn * 2 ^ 56 + bits v 16 40 * 65536 + bits v 0 2))
    { d1 with
      inval := invUsers d pn va k
      tlb := d1.tlb.filter (fun t => !(t.part == pn && stretchesMeet t.va (pageBits t.lvl) va k))
      copies := d1.copies.filter (fun t => !(t.part == pn && stretchesMeet t.va (pageBits t.lvl) va k))
      grids := d1.grids.map (fun g => (g.1, if g.2.part == pn then { g.2 with exts := cut g.2.exts, walks := g.2.walks.map cutWalk } else g.2))
      parts := tmod d1.parts pn (fun q => { q with galleys := q.galleys.map (fun g => (g.1, { g.2 with walk := g.2.walk.map cutWalk })) })
      cores := d1.cores.map (fun c => (c.1, { c.2 with exts := c.2.exts.map (fun e => (e.1, if mine e.1 then dropExtents e.2 va k else e.2)) })) }

/-- TLBINV_WRITE. -/
def execTlbinvWrite (v : DWord) (s : State) : Out := withDev s (if s.dev.pow.on then writeTlbinv s.dev v.toNat else s.dev)

/-- TLBINV_DONE: every access that used a removed entry is complete. -/
def execTlbinvDone (s : State) : Out :=
  let d := s.dev
  if regBits d offTlbinv 63 1 = 1 ∧ d.inval.all (fun i => ((tget d.ops i).map (fun o => !o.accs.any (stillGoes d o))).getD true) then withDev s { regPut d offTlbinv 63 1 0 with inval := [] }
  else withDev s d

/-- A write of QPTR.TAIL (11 R367): only one that neither moves back nor passes HEAD takes effect. -/
def writeTail (d : Dev) (p q w : Nat) : Dev :=
  let r := offQptr p q
  let head := regBits d r 16 8
  if (w % 256 + 256 - head) % 256 < (regBits d r 0 8 + 256 - head) % 256 then d else regPut d r 0 8 w

/-- QPTR_TAIL_WRITE. -/
def execQptrTailWrite (p q : Nat) (v : Byte) (s : State) : Out :=
  withDev s (if s.dev.pow.on && decide (p < 8) && decide (q < 64) then writeTail s.dev p q v.toNat else s.dev)

/-- The group whose record a service slot holds: it wrote the slot, and TEAMID and GRPID there are its own (11 R368). -/
def svcGroup (d : Dev) (p i : Nat) : Option (Nat × Group) :=
  let r := readBytes d.bar2 (svcAt p i) 24
  d.groups.find? (fun g => g.2.bound.svcSlot == some i && teamPart d g.2.tid == p && r.drop 8 == leBytes (teamid d g.2).toNat 8 ++ leBytes (grpid g.2).toNat 8)

/-- A write to SVCREP (11 R368, 07 R258): the reply goes to s0 of the group that the record names, its core's data cache is emptied,
for an evicted group at its return (15 R449), and the hold ends. A halted partition's hold ends only by release (14 R428). -/
def writeSvcrep (d : Dev) (p i : Nat) : Dev :=
  match svcGroup d p i with
  | none => d
  | some (gid, g) =>
    if halted d p then d
    else
      let x := BitVec.ofNat 64 (readNat d.bar2 (svcAt p i + 48) 8)
      let away := g.place == .evicted
      let d1 := if away then d else dcEmpty d g.core
      modGroup (putS d1 gid 0 x) gid (fun g => { g with bound := { g.bound with svc := g.bound.svc.drop 1, svcSlot := none, empty := away } })

/-- SVCREP_WRITE. -/
def execSvcrepWrite (p : Nat) (v : Byte) (s : State) : Out :=
  withDev s (if s.dev.pow.on && decide (p < 8) then writeSvcrep s.dev p v.toNat else s.dev)

/-- SVCPTR_HHEAD_WRITE (11 R367, R368): service slots are retired, so an svc that waits for one may write its record. -/
def execSvcptrHheadWrite (p : Nat) (v : Byte) (s : State) : Out :=
  withDev s (if s.dev.pow.on && decide (p < 8) then regPut s.dev (offSvcptr p) 0 8 v.toNat else s.dev)

/-- A write to DOMID (11 R370). -/
def writeDomid (d : Dev) (v : Nat) : Dev :=
  if regBits d offDomid 10 1 = 1 ∧ bits v 0 9 ≠ regBits d offDomid 0 9 then d
  else regSet d offDomid (BitVec.ofNat 64 (bits v 10 1 * 1024 + bits v 0 9))

/-- DOMID_WRITE. -/
def execDomidWrite (v : DWord) (s : State) : Out := withDev s (if s.dev.pow.on then writeDomid s.dev v.toNat else s.dev)

/-- HREQ (14 R408): a partition that is assigned and not halted halts. -/
def writeHreq (d : Dev) (p : Nat) : Dev := if assigned d p && !halted d p then hostHalt d p else d

/-- HREQ_WRITE. -/
def execHreqWrite (p : Nat) (s : State) : Out := withDev s (if s.dev.pow.on && decide (p < 8) then writeHreq s.dev p else s.dev)

/-- A write to GTBASE (09 R329): every galley's descriptor is checked again at its next reservation (17 R463). -/
def writeGtbase (d : Dev) (p v : Nat) : Dev :=
  modPart (regSet d (offGtbase p) (BitVec.ofNat 64 (bits v 6 50 * 64))) p (fun q =>
    { q with galleys := q.galleys.map (fun g => (g.1, { g.2 with desc := none, bad := false })) })

/-! ## Attestation (11 R376, 14 R426, R427) -/

/-- Leaves of the attestation key: those of a tree of height 20 (R375, log 9). -/
def attLeaves : Nat := 1048576

/-- BOOTST.ATTX and ATTLOW as the leaf index gives them. -/
def bootLeaf (d : Dev) : Dev :=
  regPut (regPut d offBootst 5 1 (if attLeaves ≤ d.pow.leaf then 1 else 0)) offBootst 4 1 (if attLeaves < d.pow.leaf + 1024 then 1 else 0)

/-- The 32 bytes of ATTNONCE. -/
def nonceBytes (d : Dev) : List Byte := (List.range 4).flatMap (fun i => leBytes (regGet d (offAttnonce + 8 * i)).toNat 8)

/-- A write to ATTCMD: with GO, a quote starts, or is refused for a partition that is not assigned or when every leaf is used. -/
def writeAtt (d : Dev) (v : Nat) : Dev :=
  let pn := bits v 0 3
  let go := bit v 3
  if go && regBits d offAttcmd 4 1 == 1 then d
  else
    let d1 := regPut d offAttcmd 0 3 pn
    if !go then d1
    else if !assigned d pn || decide (attLeaves ≤ d.pow.leaf) then regPut d1 offAttcmd 5 1 1
    else { regPut (regPut d1 offAttcmd 4 1 1) offAttcmd 5 1 0 with pow := { d.pow with quote := some (pn, nonceBytes d) } }

/-- ATTCMD_GO. -/
def execAttcmdGo (v : DWord) (s : State) : Out := withDev s (if s.dev.pow.on then writeAtt s.dev v.toNat else s.dev)

/-- Bytes 0 to 159 of a quote (R376). -/
def quoteHead (d : Dev) (pn : Nat) (nonce : List Byte) : List Byte :=
  leBytes (1 + regBits d offDomid 0 9 * 2 ^ 8 + pn * 2 ^ 19) 8 ++ leBytes Config.serial.toNat 8 ++ leBytes d.pow.fwhash.toNat 32 ++
    leBytes (bitSet (asgOcts d pn)) 8 ++ leBytes (regGet d (offPnet pn)).toNat 8 ++
    (List.range 8).flatMap (fun o => leBytes (regBits d (offDstore o) 0 6) 1) ++ leBytes 0 56 ++ nonce

/-- The 2,048 bytes of a quote signed with a leaf. -/
def quoteBytes (d : Dev) (pn leaf : Nat) (nonce : List Byte) : List Byte :=
  let h := quoteHead d pn nonce
  h ++ attSign leaf h ++ leBytes 0 116

/-- The end of a quote: BUSY clears, with ERR as given. -/
def endQuote (d : Dev) (err : Nat) : Dev :=
  { regPut (regPut d offAttcmd 5 1 err) offAttcmd 4 1 0 with pow := { d.pow with quote := none } }

/-- QUOTE_COMPLETE (R376, 14 R427): the leaf index is written back first; where that fails, or the adapter refuses the write to
HADDR (each a free choice, log 2), ERR = 1 and no quote is written. -/
def execQuoteComplete (s : State) : Out :=
  let d := s.dev
  match d.pow.quote with
  | none => withDev s d
  | some (pn, nonce) =>
    if Config.freeBool (2 * s.tick) then withDev s (endQuote d 1)
    else
      let leaf := d.pow.leaf
      let d1 := bootLeaf { d with pow := { d.pow with leaf := leaf + 1 } }
      if Config.freeBool (2 * s.tick + 1) then withDev s (endQuote d1 1)
      else withDev s (endQuote (hostWrite d1 (regGet d offAttdst).toNat (quoteBytes d pn leaf nonce)) 0)

/-! ## Reads that act (00 R7, 11 R487) -/

/-- The device with a value returned to a read. -/
def readReturns (d : Dev) (x : DWord) : Dev := { d with readOut := x }

/-- EVQ_MISS_READ (14 R414): a read of the second register of a queue's pair clears MISS. -/
def execEvqMissRead (q : Nat) (s : State) : Out :=
  let d := s.dev
  if d.pow.on && decide (q < 9) then withDev s (regPut (readReturns d (regGet d (offEvq q + 8))) (offEvq q + 8) 32 8 0) else withDev s d

/-- TRANS_READ (14 R423): the addressed halves are returned, and their counts cleared. -/
def execTransRead (halves : BitVec 2) (s : State) : Out :=
  let d := s.dev
  let lo := halves.getLsbD 0
  let hi := halves.getLsbD 1
  let x := regGet d offTrans
  let d1 := if lo && hi then readReturns d x else if lo then readReturns d (x &&& 0xFFFFFFFF#64) else if hi then readReturns d (x >>> 32) else d
  let d2 := if lo then regPut d1 offTrans 0 32 0 else d1
  withDev s (if d.pow.on then (if hi then regPut d2 offTrans 32 32 0 else d2) else d)

/-- FLTQ_REFUSE_READ (15 R437). -/
def execFltqRefuseRead (o : Nat) (s : State) : Out :=
  let d := s.dev
  if d.pow.on && decide (o < 8) then withDev s (regPut (readReturns d (regGet d (offFltq o + 8))) (offFltq o + 8) 32 16 0) else withDev s d

/-- NTCLOST_READ (17 R470). -/
def execNtclostRead (p : Nat) (s : State) : Out :=
  let d := s.dev
  if d.pow.on && decide (p < 8) then withDev s (regPut (readReturns d (regGet d (offNtclost p))) (offNtclost p) 48 16 0) else withDev s d

/-- DBGDATA_READ (14 R413): 8 bytes at DBGADDR where that lies in the octants of a halted partition, else 0. A failing word never leaves
its structure (R403), and what the read then returns is not stated: a free value (log 69). -/
def execDbgdataRead (s : State) : Out :=
  let d := s.dev
  let a := regBits d offDbgaddr 3 49 * 8
  let open_ := (List.range 8).any (fun p => halted d p && inPart d p a)
  withDev s (if d.pow.on then readReturns d (if !open_ then 0 else if badWord d a then Config.freeWord s.tick else BitVec.ofNat 64 (readNat d.mem a 8)) else d)

/-! ## The register map (00 R7, R9; 11 R487) -/

/-- Which register of a run an offset names. -/
def runIndex (off base step n : Nat) : Option Nat :=
  if base ≤ off ∧ off < base + step * n ∧ (off - base) % step = 0 then some ((off - base) / step) else none

/-- The bits that a write sets in a register whose writes only set RW fields; 0 for a read-only register, none where no register
lies (R487). Registers whose writes act have the bits they read. -/
def rwMask (off : Nat) : Option DWord :=
  if off = offOctpart then some 0
  else if off = offOctcmd then some 0
  else if (runIndex off 0x200 8 8).isSome then some 0
  else if (runIndex off 0x300 8 8).isSome then some 0x000FFFFFFFFF0001#64
  else if off = offTlbinv then some 0
  else if off = offPwrbud then some 0x00FFFFFFFFFFFF00#64
  else if off = offPwrst then some 0
  else if (runIndex off 0x500 8 8).isSome then some 0x00FFFFFFFFFFFFC0#64
  else if (runIndex off 0x600 8 8).isSome then some 0x0000FFFF01FFFFFF#64
  else if (runIndex off 0x700 16 8).isSome then some 0xFFFFFFFFFFFF0000#64
  else if (runIndex off 0x708 16 8).isSome then some 0x000FFFFFFFFF0000#64
  else if (runIndex off 0x800 8 8).isSome then some 0xFFFFFFFFFFFFFFC1#64
  else if off = offDomid then some 0
  else if off = offAttcmd then some 0
  else if off = offAttdst then some 0xFFFFFFFFFFFFFFFF#64
  else if (runIndex off 0xA20 8 4).isSome then some 0xFFFFFFFFFFFFFFFF#64
  else if (runIndex off 0xB00 8 8).isSome then some 0
  else if (runIndex off 0xB40 8 8).isSome then some 0x000FFFFFFFFFFF81#64
  else if (runIndex off 0xC00 16 9).isSome then some 0xFFFFFFFFFFFFE000#64
  else if (runIndex off 0xC08 16 9).isSome then some 0x000000000000FF01#64
  else if off = offWdcfg then some 0x00000000FFFFFFFF#64
  else if (runIndex off 0xD10 8 3).isSome then some 0
  else if off = offBootst ∨ off = offTrans then some 0
  else if off = offDbgaddr then some 0x000FFFFFFFFFFFF8#64
  else if off = offDbgdata then some 0
  else if (runIndex off 0xE00 16 8).isSome then some 0xFFFFFFFFFFFF8000#64
  else if (runIndex off 0xE08 16 8).isSome then some 0x0001000000000000#64
  else if (runIndex off 0xE80 8 8).isSome then some 0x000FFFFFFF000001#64
  else if (runIndex off 0xF00 8 8).isSome then some 0
  else if (runIndex off 0x10000 8 512).isSome then some 0x000000000000010F#64
  else if (runIndex off 0x30000 8 512).isSome then some 0
  else if (runIndex off 0x31000 8 8).isSome then some 0x00000000000000FF#64
  else if (runIndex off 0x31800 8 8).isSome then some 0
  else none

/-- A write of RW fields: bits outside them keep their values. -/
def writePlain (d : Dev) (off : Nat) (v : DWord) : Dev :=
  match rwMask off with
  | some m => regSet d off ((regGet d off &&& ~~~m) ||| (v &&& m))
  | none => d

/-- A write to CXBASE (11 R371): a ring that is turned off or moved leaves no notice of its TAIL behind. -/
def writeCxbase (d : Dev) (o : Nat) (v : DWord) : Dev :=
  let d1 := writePlain d (offCxbase o) v
  if regBits d1 (offCxbase o) 0 1 = 0 ∨ cxRing d1 o ≠ cxRing d o then modCx d1 o (fun x => { x with tails := [] }) else d1

/-- A write of a whole register. -/
def writeReg (d : Dev) (off : Nat) (v : DWord) : Dev :=
  let n := v.toNat
  if off = offOctcmd then writeOctcmd d n
  else if off = offTlbinv then writeTlbinv d n
  else if off = offDomid then writeDomid d n
  else if off = offAttcmd then writeAtt d n
  else
    match runIndex off 0x200 8 8, runIndex off 0x500 8 8, runIndex off 0xB00 8 8, runIndex off 0xE08 16 8, runIndex off 0x30000 8 512,
        runIndex off 0x31800 8 8 with
    | some o, _, _, _, _, _ => writeDstore d o n
    | _, some p, _, _, _, _ => writeGtbase d p n
    | _, _, some p, _, _, _ => if bit n 61 then writeHreq d p else d
    | _, _, _, some o, _, _ => writeHhead (writePlain d off v) o (bits n 0 11)
    | _, _, _, _, some i, _ => writeTail d (i / 64) (i % 64) (bits n 0 8)
    | _, _, _, _, _, some p => writeSvcrep d p (bits n 0 8)
    | _, _, _, _, _, _ =>
      (match runIndex off 0x800 8 8 with
       | some o => writeCxbase d o v
       | none => writePlain d off v)

/-- A register lies at a 4-byte half: the upper half of OCTCMD, a 32-bit register, holds none (01 R31). -/
def halfHeld (off : Nat) : Bool := (rwMask (off / 8 * 8)).isSome && off / 4 * 4 != offOctcmd + 4

/-- A write of the addressed half of a register: the other half keeps what it reads, and in SVCREP's upper half nothing lies. -/
def writeHalf (d : Dev) (off : Nat) (v : DWord) : Dev :=
  let reg := off / 8 * 8
  let x := regGet d reg
  let lo := v &&& 0xFFFFFFFF#64
  if off % 8 = 0 then writeReg d reg ((x &&& 0xFFFFFFFF00000000#64) ||| lo)
  else if (runIndex reg 0x31800 8 8).isSome then d
  else writeReg d reg ((x &&& 0x00000000FFFFFFFF#64) ||| (lo <<< 32))

/-- REGISTER_WRITE: an 8-byte write acts on the whole register, a 4-byte write on the addressed half. -/
def execRegisterWrite (off : Nat) (v : DWord) (whole : Bool) (s : State) : Out :=
  let d := s.dev
  if !d.pow.on then withDev s d
  else if whole then withDev s (if off % 8 = 0 then writeReg d off v else d)
  else withDev s (if off % 4 = 0 && halfHeld off then writeHalf d off v else d)

/-- UNMAPPED_OFFSET_ACCESS (11 R487): where no register lies, a read returns 0 and a write is ignored. -/
def execUnmappedOffsetAccess (off : Nat) (write : Bool) (_ : DWord) (s : State) : Out :=
  let d := s.dev
  withDev s (if d.pow.on && !halfHeld off && !write then readReturns d 0 else d)

end Sys2Proof.Machine
end

