-- ==== Sys2Proof/Machine/Power.lean ====
section
/-! DEFINITION. Power, boot, current and heat (11 R375, R377, R378; 14 R421, R422, R426; 17 R476, R477). -/

namespace Sys2Proof.Machine

/-! ## Power on and off (11 R375, R377, R378) -/

/-- The image slot that the ROM runs (14 R426): A, then B; none where neither verifies. -/
def bootSlot (w : Power) : Option Nat :=
  if romVerifies w.flashA then some 0 else if romVerifies w.flashB then some 1 else none

/-- What the power-on self-test withdraws for a failing unit: of a unit on the network, perhaps a link of it (14 R421). -/
def postLost (fi u : Nat) : Lost :=
  if u < 1048 ∧ Config.freeBool (fi * 8192 + 2048 + u) then (if Config.freeBool (fi * 8192 + 4096 + u) then .up else .octant) else .unit

/-- The units that fail the power-on self-test (14 R426), with what is withdrawn: which they are is free (log 2). -/
def postFailed (fi : Nat) : List (Nat × Lost) :=
  (List.range 1066).filterMap (fun u => if Config.freeBool (fi * 8192 + u) then some (u, postLost fi u) else none)

/-- One failing structure withdrawn by the power-on self-test, and reported in queue 8 once that is enabled. -/
def postWithdraw (d : Dev) (x : Nat × Lost) : Dev :=
  regPut (postEvent (withdrawLost d x.1 x.2) 8 { held := true, unit := x.1, kind := 2, cause := 0, detail := 0, cyc := d.cyc }) offBootst 3 1 1

/-- Firmware started from a slot: FWHASH, BOOTST, and the trip bits moved from the flash into PWRST (17 R476). -/
def startFirmware (d : Dev) (slot : Nat) : Dev :=
  let img := if slot = 0 then d.pow.flashA else d.pow.flashB
  let d1 := regPut (regPut (bootLeaf d) offBootst 0 1 1) offBootst 1 1 slot
  { regPut d1 offPwrst 3 3 d.pow.trip.toNat with pow := { d.pow with on := true, stage := 1, fwhash := fwHash img, trip := 0 } }

/-- POWER_ON (R378 step 1): the ROM verifies an image and starts it, and the power-on self-test runs; where no image verifies,
SIGERR. -/
def execPowerOn (s : State) : Out :=
  let d := s.dev
  if d.pow.on then withDev s d
  else
    match bootSlot d.pow with
    | some slot => withDev s ((postFailed s.tick).foldl postWithdraw (startFirmware d slot))
    | none => withDev s { regPut (bootLeaf d) offBootst 2 1 1 with pow := { d.pow with on := true, stage := 0 } }

/-- FIRMWARE_BRINGUP (R378 step 2): the links are trained and OCTPART is set to 0, but CLR stays 1 for a withdrawn octant (14
R421). -/
def execFirmwareBringup (s : State) : Out :=
  let d := s.dev
  if d.pow.on && d.pow.stage == 1 then
    let d1 := regSet { d with pow := { d.pow with stage := 2 } } offOctpart 0
    withDev s (d.links.octLost.foldl (fun d o => regPut d offOctpart (8 * o + 6) 1 1) d1)
  else withDev s d

/-- The device without power (R377): only the sideband flash keeps state. What lies outside the module, the host's memory, the
adapter and the other devices of the domain, stays. -/
def unpowered (d : Dev) (trip : BitVec 3) : Dev :=
  { Dev.reset with
    pow := { Power.reset with flashA := d.pow.flashA, flashB := d.pow.flashB, leaf := d.pow.leaf, trip := trip }
    host := d.host
    bar2 := d.bar2
    peers := d.peers
    peerOcts := d.peerOcts
    msix := d.msix }

/-- The machine as its power goes: no packet is in progress. -/
def powerOff (s : State) (trip : BitVec 3) : Out := .next { s with cur := Packet.none, dev := unpowered s.dev trip }

/-- The condition of a trip holds at a reading: the current in 1/64 A above 37.5 A, the die in °C at or above TLIM + 20, or the supply in
volts outside 40 to 60. -/
def tripHolds (d : Dev) (why : Nat) (value : BitVec 16) : Bool :=
  match why with
  | 0 => decide (2400 < value.toNat)
  | 1 => decide (tlim d + 20 ≤ value.toNat)
  | 2 => decide (value.toNat < 40) || decide (60 < value.toNat)
  | _ => false
/-- The cycles for which it must have held: 10 µs, none, and 1 ms. -/
def tripWait (why : Nat) : Nat := if why = 0 then 12500 else if why = 1 then 0 else 1250000

/-- POWER_TRIP (17 R477), a reading of a sensor of the trip hardware: once the condition has held long enough, the trip bit is written and
the power entry opens: 0 current, 1 heat, 2 supply voltage. -/
def execPowerTrip (r : TripReading) (s : State) : Out :=
  let d := s.dev
  let why := r.why
  if !d.pow.on then withDev s d
  else if !tripHolds d why r.value then withDev s { d with pow := { d.pow with since := tdel d.pow.since why } }
  else if tgetD d.pow.since why d.cyc + tripWait why ≤ d.cyc then powerOff s (d.pow.trip ||| BitVec.ofNat 3 (2 ^ why))
  else withDev s { d with pow := { d.pow with since := tput d.pow.since why (tgetD d.pow.since why d.cyc) } }

/-- SUPPLY_REMOVED (R377). -/
def execSupplyRemoved (s : State) : Out := powerOff s s.dev.pow.trip

/-! ## Current and heat (17 R476, R477) -/

/-- PWRST.IMON and DIET follow the sensors. -/
def sensed (d : Dev) (imon : BitVec 16) (diet : BitVec 8) : Dev :=
  { regPut (regPut d offPwrst 16 16 imon.toNat) offPwrst 32 8 diet.toNat with pow := { d.pow with imon := imon, diet := diet } }

/-- THR: the refill is halved while OVC holds or the die has been 5 degrees above TLIM. -/
def setThr (d : Dev) : Dev := regPut d offPwrst 1 1 (if regBits d offPwrst 0 1 = 1 ∨ d.pow.heat = true then 1 else 0)

/-- OVERCURRENT_ON: IMON above 2,000. -/
def execOvercurrentOn (imon : BitVec 16) (s : State) : Out :=
  let d := s.dev
  withDev s (if d.pow.on && decide (2000 < imon.toNat) then setThr (regPut (sensed { d with pow := { d.pow with below := none } } imon d.pow.diet) offPwrst 0 1 1) else d)

/-- OVERCURRENT_OFF: a reading of IMON below the soft limit; OVC ends once IMON has stayed below 1,792 for 1 ms, 1,250,000 cycles. -/
def execOvercurrentOff (imon : BitVec 16) (s : State) : Out :=
  let d := s.dev
  if !d.pow.on || decide (2000 < imon.toNat) then withDev s d
  else
    let since := if imon.toNat < 1792 then some (d.pow.below.getD d.cyc) else none
    let d1 := sensed { d with pow := { d.pow with below := since } } imon d.pow.diet
    withDev s (if (since.map (fun t => decide (t + 1250000 ≤ d.cyc))).getD false then setThr (regPut d1 offPwrst 0 1 0) else d1)

/-- DIE_HOT_ON: DIET at or above TLIM. -/
def execDieHotOn (diet : BitVec 8) (s : State) : Out :=
  let d := s.dev
  withDev s (if d.pow.on && decide (tlim d ≤ diet.toNat) then regPut (sensed d d.pow.imon diet) offPwrst 2 1 1 else d)

/-- THERMAL_THROTTLE_ON: DIET at or above TLIM + 5. -/
def execThermalThrottleOn (diet : BitVec 8) (s : State) : Out :=
  let d := s.dev
  if d.pow.on && decide (tlim d + 5 ≤ diet.toNat) then
    let d1 := regPut (sensed d d.pow.imon diet) offPwrst 2 1 1
    withDev s (setThr { d1 with pow := { d1.pow with heat := true } })
  else withDev s d

/-- DIE_HOT_OFF: DIET below TLIM. -/
def execDieHotOff (diet : BitVec 8) (s : State) : Out :=
  let d := s.dev
  if d.pow.on && decide (diet.toNat < tlim d) then
    let d1 := regPut (sensed d d.pow.imon diet) offPwrst 2 1 0
    withDev s (setThr { d1 with pow := { d1.pow with heat := false } })
  else withDev s d

end Sys2Proof.Machine
end

