-- ==== Sys2Proof/Machine/Dispatch.lean ====
section
/-! DEFINITION. The one match from an instruction or event to its meaning. -/

namespace Sys2Proof.Machine

def exec (i : Instr) (s : State) : Host.Outcome State Fault Refusal :=
  match i with
  | .nop c => Sys2Proof.Machine.execNop c s
  | .exit c => Sys2Proof.Machine.execExit c s
  | .yield c => Sys2Proof.Machine.execYield c s
  | .ret c => Sys2Proof.Machine.execRet c s
  | .jmpi c a => Sys2Proof.Machine.execJmpi c a s
  | .calli c a f => Sys2Proof.Machine.execCalli c a f s
  | .trap c code => Sys2Proof.Machine.execTrap c code s
  | .tret c => Sys2Proof.Machine.execTret c s
  | .svc c code => Sys2Proof.Machine.execSvc c code s
  | .clk h d => Sys2Proof.Machine.execClk h d s
  | .rdsr h d n => Sys2Proof.Machine.execRdsr h d n s
  | .wrsr c n a => Sys2Proof.Machine.execWrsr c n a s
  | .lpcr h d => Sys2Proof.Machine.execLpcr h d s
  | .lpcw c a => Sys2Proof.Machine.execLpcw c a s
  | .tmcmp c a => Sys2Proof.Machine.execTmcmp c a s
  | .bra c k disp => Sys2Proof.Machine.execBra c k disp s
  | .brm c k disp => Sys2Proof.Machine.execBrm c k disp s
  | .bru c k disp => Sys2Proof.Machine.execBru c k disp s
  | .brz c a disp => Sys2Proof.Machine.execBrz c a disp s
  | .brnz c a disp => Sys2Proof.Machine.execBrnz c a disp s
  | .call c f disp => Sys2Proof.Machine.execCall c f disp s
  | .add h wide d a b => Sys2Proof.Machine.execAdd h wide d a b s
  | .sub h wide d a b => Sys2Proof.Machine.execSub h wide d a b s
  | .mul h wide d a b => Sys2Proof.Machine.execMul h wide d a b s
  | .mulh h wide d a b => Sys2Proof.Machine.execMulh h wide d a b s
  | .mulhu h wide d a b => Sys2Proof.Machine.execMulhu h wide d a b s
  | .addc h wide d a b => Sys2Proof.Machine.execAddc h wide d a b s
  | .subb h wide d a b => Sys2Proof.Machine.execSubb h wide d a b s
  | .min h wide d a b => Sys2Proof.Machine.execMin h wide d a b s
  | .max h wide d a b => Sys2Proof.Machine.execMax h wide d a b s
  | .minu h wide d a b => Sys2Proof.Machine.execMinu h wide d a b s
  | .maxu h wide d a b => Sys2Proof.Machine.execMaxu h wide d a b s
  | .abs h wide d a => Sys2Proof.Machine.execAbs h wide d a s
  | .and h wide d a b => Sys2Proof.Machine.execAnd h wide d a b s
  | .or h wide d a b => Sys2Proof.Machine.execOr h wide d a b s
  | .xor h wide d a b => Sys2Proof.Machine.execXor h wide d a b s
  | .andn h wide d a b => Sys2Proof.Machine.execAndn h wide d a b s
  | .shl h wide d a b => Sys2Proof.Machine.execShl h wide d a b s
  | .shr h wide d a b => Sys2Proof.Machine.execShr h wide d a b s
  | .sra h wide d a b => Sys2Proof.Machine.execSra h wide d a b s
  | .clz h wide d a => Sys2Proof.Machine.execClz h wide d a s
  | .popc h wide d a => Sys2Proof.Machine.execPopc h wide d a s
  | .brev h wide d a => Sys2Proof.Machine.execBrev h wide d a s
  | .mov h wide d a => Sys2Proof.Machine.execMov h wide d a s
  | .addi h d a imm => Sys2Proof.Machine.execAddi h d a imm s
  | .andi h d a imm => Sys2Proof.Machine.execAndi h d a imm s
  | .ori h d a imm => Sys2Proof.Machine.execOri h d a imm s
  | .xori h d a imm => Sys2Proof.Machine.execXori h d a imm s
  | .shli h d a imm => Sys2Proof.Machine.execShli h d a imm s
  | .shri h d a imm => Sys2Proof.Machine.execShri h d a imm s
  | .srai h d a imm => Sys2Proof.Machine.execSrai h d a imm s
  | .li c d imm => Sys2Proof.Machine.execLi c d imm s
  | .lui c d imm => Sys2Proof.Machine.execLui c d imm s
  | .mad h d a b x => Sys2Proof.Machine.execMad h d a b x s
  | .fshl h d a b x => Sys2Proof.Machine.execFshl h d a b x s
  | .fshr h d a b x => Sys2Proof.Machine.execFshr h d a b x s
  | .bfx h d a b x => Sys2Proof.Machine.execBfx h d a b x s
  | .bfxs h d a b x => Sys2Proof.Machine.execBfxs h d a b x s
  | .bfi h d a b x => Sys2Proof.Machine.execBfi h d a b x s
  | .sel h d a b k => Sys2Proof.Machine.execSel h d a b k s
  | .icmp c k wide pred a b => Sys2Proof.Machine.execIcmp c k wide pred a b s
  | .fadd h d a b fs rm => Sys2Proof.Machine.execFadd h d a b fs rm s
  | .fsub h d a b fs rm => Sys2Proof.Machine.execFsub h d a b fs rm s
  | .fmul h d a b fs rm => Sys2Proof.Machine.execFmul h d a b fs rm s
  | .ffmaS h d a b x => Sys2Proof.Machine.execFfmaS h d a b x s
  | .ffmaD h d a b x => Sys2Proof.Machine.execFfmaD h d a b x s
  | .ffmaH2 h d a b x => Sys2Proof.Machine.execFfmaH2 h d a b x s
  | .ffmaB2 h d a b x => Sys2Proof.Machine.execFfmaB2 h d a b x s
  | .fdiv h d a b fs rm => Sys2Proof.Machine.execFdiv h d a b fs rm s
  | .fsqrt h d a fs rm => Sys2Proof.Machine.execFsqrt h d a fs rm s
  | .frnd h d a fs rm => Sys2Proof.Machine.execFrnd h d a fs rm s
  | .fclass h d a fs => Sys2Proof.Machine.execFclass h d a fs s
  | .fmin h d a b fs => Sys2Proof.Machine.execFmin h d a b fs s
  | .fmax h d a b fs => Sys2Proof.Machine.execFmax h d a b fs s
  | .fcmp c k pred fs a b => Sys2Proof.Machine.execFcmp c k pred fs a b s
  | .cvt h d a fd fsrc rm => Sys2Proof.Machine.execCvt h d a fd fsrc rm s
  | .cvti h d a it fsrc rm => Sys2Proof.Machine.execCvti h d a it fsrc rm s
  | .cvtf h d a fd it rm => Sys2Proof.Machine.execCvtf h d a fd it rm s
  | .cvtsr h d a b fd fsrc => Sys2Proof.Machine.execCvtsr h d a b fd fsrc s
  | .mxpk h d a mf rm => Sys2Proof.Machine.execMxpk h d a mf rm s
  | .mxup h d a mf => Sys2Proof.Machine.execMxup h d a mf s
  | .sfFn h d a fn fs => Sys2Proof.Machine.execSfFn h d a fn fs s
  | .ballot h d a => Sys2Proof.Machine.execBallot h d a s
  | .vany h d a => Sys2Proof.Machine.execVany h d a s
  | .vall h d a => Sys2Proof.Machine.execVall h d a s
  | .shfl h wide d a b => Sys2Proof.Machine.execShfl h wide d a b s
  | .push h wide d a b => Sys2Proof.Machine.execPush h wide d a b s
  | .bcast h wide d a b => Sys2Proof.Machine.execBcast h wide d a b s
  | .kfirst h d k => Sys2Proof.Machine.execKfirst h d k s
  | .redu h d a op ty rm => Sys2Proof.Machine.execRedu h d a op ty rm s
  | .scan h d a op ty rm => Sys2Proof.Machine.execScan h d a op ty rm s
  | .kand c d a b => Sys2Proof.Machine.execKand c d a b s
  | .kor c d a b => Sys2Proof.Machine.execKor c d a b s
  | .kxor c d a b => Sys2Proof.Machine.execKxor c d a b s
  | .knot c d a => Sys2Proof.Machine.execKnot c d a s
  | .kmovMask c d a => Sys2Proof.Machine.execKmovMask c d a s
  | .kmovToMask c d a => Sys2Proof.Machine.execKmovToMask c d a s
  | .kmovToS h d a => Sys2Proof.Machine.execKmovToS h d a s
  | .kact c d => Sys2Proof.Machine.execKact c d s
  | .edge h d a b => Sys2Proof.Machine.execEdge h d a b s
  | .qdx h d a => Sys2Proof.Machine.execQdx h d a s
  | .qdy h d a => Sys2Proof.Machine.execQdy h d a s
  | .rng h d a => Sys2Proof.Machine.execRng h d a s
  | .rngU h d a => Sys2Proof.Machine.execRngU h d a s
  | .ld m d a y z => Sys2Proof.Machine.execLd m d a y z s
  | .ldnc m d a y z => Sys2Proof.Machine.execLdnc m d a y z s
  | .lds m d a y wide => Sys2Proof.Machine.execLds m d a y wide s
  | .ldu m d a y wide => Sys2Proof.Machine.execLdu m d a y wide s
  | .ldAcq m d a y wide => Sys2Proof.Machine.execLdAcq m d a y wide s
  | .st m d a y z => Sys2Proof.Machine.execSt m d a y z s
  | .stm m d a y => Sys2Proof.Machine.execStm m d a y s
  | .stRel m d a y wide => Sys2Proof.Machine.execStRel m d a y wide s
  | .atom m d a op wide => Sys2Proof.Machine.execAtom m d a op wide s
  | .cas m d a wide => Sys2Proof.Machine.execCas m d a wide s
  | .atomSwap m d a wide => Sys2Proof.Machine.execAtomSwap m d a wide s
  | .fatom m d a op dbl => Sys2Proof.Machine.execFatom m d a op dbl s
  | .xaddS m d a => Sys2Proof.Machine.execXaddS m d a s
  | .xaddD m d a => Sys2Proof.Machine.execXaddD m d a s
  | .vbt m d a => Sys2Proof.Machine.execVbt m d a s
  | .prf c llc a k => Sys2Proof.Machine.execPrf c llc a k s
  | .snop c sc o p => Sys2Proof.Machine.execSnop c sc o p s
  | .rpop m d n => Sys2Proof.Machine.execRpop m d n s
  | .racq m d n => Sys2Proof.Machine.execRacq m d n s
  | .rcom m d n => Sys2Proof.Machine.execRcom m d n s
  | .rrel m d n => Sys2Proof.Machine.execRrel m d n s
  | .rstat m d n => Sys2Proof.Machine.execRstat m d n s
  | .rcomEos m d n => Sys2Proof.Machine.execRcomEos m d n s
  | .rcomErr m d n => Sys2Proof.Machine.execRcomErr m d n s
  | .barr m n => Sys2Proof.Machine.execBarr m n s
  | .barw m n => Sys2Proof.Machine.execBarw m n s
  | .barx m d n => Sys2Proof.Machine.execBarx m d n s
  | .pbar m n => Sys2Proof.Machine.execPbar m n s
  | .cbarr m => Sys2Proof.Machine.execCbarr m s
  | .cbarw m => Sys2Proof.Machine.execCbarw m s
  | .ntc m b a => Sys2Proof.Machine.execNtc m b a s
  | .mxd m a => Sys2Proof.Machine.execMxd m a s
  | .mxb m a => Sys2Proof.Machine.execMxb m a s
  | .mxg m a => Sys2Proof.Machine.execMxg m a s
  | .mxq m d => Sys2Proof.Machine.execMxq m d s
  | .acld m d a => Sys2Proof.Machine.execAcld m d a s
  | .acst m d a => Sys2Proof.Machine.execAcst m d a s
  | .aczr m d a => Sys2Proof.Machine.execAczr m d a s
  | .xaccE32 m d a => Sys2Proof.Machine.execXaccE32 m d a s
  | .xaccE64 m d a => Sys2Proof.Machine.execXaccE64 m d a s
  | .xrndE32 m fd d a => Sys2Proof.Machine.execXrndE32 m fd d a s
  | .xmovSt m d a => Sys2Proof.Machine.execXmovSt m d a s
  | .xmovLd m d a => Sys2Proof.Machine.execXmovLd m d a s
  | .xrndE64 m fd d a => Sys2Proof.Machine.execXrndE64 m fd d a s
  | .trace m d a => Sys2Proof.Machine.execTrace m d a s
  | .vmarch m d a => Sys2Proof.Machine.execVmarch m d a s
  | .ovq m d a => Sys2Proof.Machine.execOvq m d a s
  | .refit m a => Sys2Proof.Machine.execRefit m a s
  | .attr m d a => Sys2Proof.Machine.execAttr m d a s
  | .dsc m d a => Sys2Proof.Machine.execDsc m d a s
  | .rbin m d a => Sys2Proof.Machine.execRbin m d a s
  | .tex m d a => Sys2Proof.Machine.execTex m d a s
  | .slg m d a => Sys2Proof.Machine.execSlg m d a s
  | .implicitReturn gid => Sys2Proof.Machine.execImplicitReturn gid s
  | .teamRetire tid => Sys2Proof.Machine.execTeamRetire tid s
  | .loadComplete op part => Sys2Proof.Machine.execLoadComplete op part s
  | .storeApplied op part => Sys2Proof.Machine.execStoreApplied op part s
  | .rmwApplied op part => Sys2Proof.Machine.execRmwApplied op part s
  | .engineCommandComplete op => Sys2Proof.Machine.execEngineCommandComplete op s
  | .remoteAccess r => Sys2Proof.Machine.execRemoteAccess r s
  | .dcacheLineEvict core line => Sys2Proof.Machine.execDcacheLineEvict core line s
  | .llcSuperblockEvict sb => Sys2Proof.Machine.execLlcSuperblockEvict sb s
  | .timerTrap gid => Sys2Proof.Machine.execTimerTrap gid s
  | .groupPark gid => Sys2Proof.Machine.execGroupPark gid s
  | .groupRecreate gid => Sys2Proof.Machine.execGroupRecreate gid s
  | .svcRecordWrite gid => Sys2Proof.Machine.execSvcRecordWrite gid s
  | .racqGrant op => Sys2Proof.Machine.execRacqGrant op s
  | .rpopGrant op => Sys2Proof.Machine.execRpopGrant op s
  | .dscLookupResume op => Sys2Proof.Machine.execDscLookupResume op s
  | .feederSlotCommit tid ring => Sys2Proof.Machine.execFeederSlotCommit tid ring s
  | .drainSlot tid ring => Sys2Proof.Machine.execDrainSlot tid ring s
  | .noticeDeliver op cluster => Sys2Proof.Machine.execNoticeDeliver op cluster s
  | .noticePull tid ring => Sys2Proof.Machine.execNoticePull tid ring s
  | .noticeAck ack => Sys2Proof.Machine.execNoticeAck ack s
  | .noticeLost op cluster => Sys2Proof.Machine.execNoticeLost op cluster s
  | .matrixCommandStart core => Sys2Proof.Machine.execMatrixCommandStart core s
  | .matrixPass core => Sys2Proof.Machine.execMatrixPass core s
  | .galleyReserveResume part g => Sys2Proof.Machine.execGalleyReserveResume part g s
  | .galleyFlush part g => Sys2Proof.Machine.execGalleyFlush part g s
  | .galleyBatchLaunch part => Sys2Proof.Machine.execGalleyBatchLaunch part s
  | .tdSelect part => Sys2Proof.Machine.execTdSelect part s
  | .launchRecordAccept part q => Sys2Proof.Machine.execLaunchRecordAccept part q s
  | .descriptorRead part q => Sys2Proof.Machine.execDescriptorRead part q s
  | .graphReplay part q => Sys2Proof.Machine.execGraphReplay part q s
  | .graphNodeRetire part idx => Sys2Proof.Machine.execGraphNodeRetire part idx s
  | .drawRaster draw => Sys2Proof.Machine.execDrawRaster draw s
  | .setupSlotResume draw => Sys2Proof.Machine.execSetupSlotResume draw s
  | .drawOpen draw => Sys2Proof.Machine.execDrawOpen draw s
  | .drawClose draw => Sys2Proof.Machine.execDrawClose draw s
  | .drawRelease draw => Sys2Proof.Machine.execDrawRelease draw s
  | .drawRetire draw => Sys2Proof.Machine.execDrawRetire draw s
  | .cleClassifyTile draw oct => Sys2Proof.Machine.execCleClassifyTile draw oct s
  | .walkSchedule oct => Sys2Proof.Machine.execWalkSchedule oct s
  | .instructionFetchFault gid => Sys2Proof.Machine.execInstructionFetchFault gid s
  | .reportBackoffExpiry rep => Sys2Proof.Machine.execReportBackoffExpiry rep s
  | .packetReissue gid => Sys2Proof.Machine.execPacketReissue gid s
  | .sideLogReplay core slot => Sys2Proof.Machine.execSideLogReplay core slot s
  | .groupEvict gid => Sys2Proof.Machine.execGroupEvict gid s
  | .teamSwap tid => Sys2Proof.Machine.execTeamSwap tid s
  | .groupReturn gid => Sys2Proof.Machine.execGroupReturn gid s
  | .teamReturn tid => Sys2Proof.Machine.execTeamReturn tid s
  | .cxCommandStart oct => Sys2Proof.Machine.execCxCommandStart oct s
  | .cxDigestReceive oct d => Sys2Proof.Machine.execCxDigestReceive oct d s
  | .cxCommandComplete oct => Sys2Proof.Machine.execCxCommandComplete oct s
  | .cxPeerTimeout oct => Sys2Proof.Machine.execCxPeerTimeout oct s
  | .graphStall part run => Sys2Proof.Machine.execGraphStall part run s
  | .galleyStall part g => Sys2Proof.Machine.execGalleyStall part g s
  | .engineWatchdog unit part => Sys2Proof.Machine.execEngineWatchdog unit part s
  | .creditWatchdog leaf part => Sys2Proof.Machine.execCreditWatchdog leaf part s
  | .stopWatchdog unit => Sys2Proof.Machine.execStopWatchdog unit s
  | .eventAccept q idx => Sys2Proof.Machine.execEventAccept q idx s
  | .unitStop unit => Sys2Proof.Machine.execUnitStop unit s
  | .abortFlitReceive idx => Sys2Proof.Machine.execAbortFlitReceive idx s
  | .stopRecordWrite unit => Sys2Proof.Machine.execStopRecordWrite unit s
  | .correctedError unit loc => Sys2Proof.Machine.execCorrectedError unit loc s
  | .parityError unit struct index => Sys2Proof.Machine.execParityError unit struct index s
  | .uncorrectableError unit loc => Sys2Proof.Machine.execUncorrectableError unit loc s
  | .structureSelfTestDone idx pass => Sys2Proof.Machine.execStructureSelfTestDone idx pass s
  | .linkCrcError unit lane => Sys2Proof.Machine.execLinkCrcError unit lane s
  | .retrainDone unit lane ok => Sys2Proof.Machine.execRetrainDone unit lane ok s
  | .octcmdNone v => Sys2Proof.Machine.execOctcmdNone v s
  | .octcmdAssign v => Sys2Proof.Machine.execOctcmdAssign v s
  | .octcmdRelease v => Sys2Proof.Machine.execOctcmdRelease v s
  | .releaseClear part => Sys2Proof.Machine.execReleaseClear part s
  | .octantClearDone oct => Sys2Proof.Machine.execOctantClearDone oct s
  | .dstoreWrite oct v => Sys2Proof.Machine.execDstoreWrite oct v s
  | .tlbinvWrite v => Sys2Proof.Machine.execTlbinvWrite v s
  | .qptrTailWrite part q v => Sys2Proof.Machine.execQptrTailWrite part q v s
  | .svcrepWrite part v => Sys2Proof.Machine.execSvcrepWrite part v s
  | .domidWrite v => Sys2Proof.Machine.execDomidWrite v s
  | .attcmdGo v => Sys2Proof.Machine.execAttcmdGo v s
  | .evqMissRead q => Sys2Proof.Machine.execEvqMissRead q s
  | .transRead halves => Sys2Proof.Machine.execTransRead halves s
  | .fltqRefuseRead oct => Sys2Proof.Machine.execFltqRefuseRead oct s
  | .ntclostRead part => Sys2Proof.Machine.execNtclostRead part s
  | .fltqHheadWrite oct v => Sys2Proof.Machine.execFltqHheadWrite oct v s
  | .unmappedOffsetAccess off write v => Sys2Proof.Machine.execUnmappedOffsetAccess off write v s
  | .registerWrite off v whole => Sys2Proof.Machine.execRegisterWrite off v whole s
  | .illegalEncoding gid => Sys2Proof.Machine.execIllegalEncoding gid s
  | .svcptrHheadWrite part v => Sys2Proof.Machine.execSvcptrHheadWrite part v s
  | .hreqWrite part => Sys2Proof.Machine.execHreqWrite part s
  | .powerTrip why => Sys2Proof.Machine.execPowerTrip why s
  | .overcurrentOn imon => Sys2Proof.Machine.execOvercurrentOn imon s
  | .overcurrentOff imon => Sys2Proof.Machine.execOvercurrentOff imon s
  | .dieHotOn diet => Sys2Proof.Machine.execDieHotOn diet s
  | .thermalThrottleOn diet => Sys2Proof.Machine.execThermalThrottleOn diet s
  | .dieHotOff diet => Sys2Proof.Machine.execDieHotOff diet s
  | .tokenCycle => Sys2Proof.Machine.execTokenCycle s
  | .powerOn => Sys2Proof.Machine.execPowerOn s
  | .firmwareBringup => Sys2Proof.Machine.execFirmwareBringup s
  | .tlbinvDone => Sys2Proof.Machine.execTlbinvDone s
  | .quoteComplete => Sys2Proof.Machine.execQuoteComplete s
  | .dbgdataRead => Sys2Proof.Machine.execDbgdataRead s
  | .supplyRemoved => Sys2Proof.Machine.execSupplyRemoved s

end Sys2Proof.Machine
end

