-- ==== Sys2Proof/Machine/Issue.lean ====
section
/-! DEFINITION. Issue: the packet that a port has chosen, run word by word, and its end; and the turns of a run (02 R41, 05 R153 to
R161). -/

namespace Sys2Proof.Machine

/-! ## A packet run -/

/-- The words of a packet executed in slot order. -/
def runSlots : List SlotWord → Nat → State → Out
  | [], _, s => .next s
  | SlotWord.instr i :: t, j, s =>
    (match exec i { s with cur := { s.cur with slot := j } } with
     | .next s1 => runSlots t (j + 1) s1
     | r => r)
  | SlotWord.bad _ _ :: t, j, s => runSlots t (j + 1) s
  | SlotWord.lit _ :: t, j, s => runSlots t (j + 1) s

/-- A slot holds a yield. -/
def isYield : SlotWord → Bool
  | .instr (.yield _) => true
  | _ => false

/-- S of a packet: the chain bit of its last slot when that slot holds an instruction (05 R161); a packet with a yield has none
(06 R193). -/
def stayHint (ws : List Word) (ss : List SlotWord) : Bool :=
  !ss.any isYield &&
  (match ss[2]? with
   | some (SlotWord.instr _) => chainBit (ws.getD 2 0#32)
   | _ => false)

/-- What a port remembers of its last packet (09 R332): the group whose packet had S = 1, and how many packets in a row it has
issued on that hint. -/
def stayAfter (k : Core) (port gid : Nat) (s : Bool) : Core :=
  if s then
    { k with stay := tput k.stay port (gid, match tget k.stay port with
        | some (g, n) => if g = gid ∧ n < 8 then n + 1 else 0
        | none => 0) }
  else { k with stay := tdel k.stay port }

/-- A line taken into a core's instruction cache for a partition, by a home read (03 R89). -/
def icFill (d : Dev) (core p ln : Nat) : Dev :=
  if (tget (tgetD d.cores core default).ic ln).isSome then d
  else
    let d1 := llcRead (netRun d p (coreLeaf core) (ln * 128) 128 false) (ln * 128) 128
    { modCore d1 core (fun k => { k with ic := cachePut d1 icLines k.ic ln (readBytes d1.mem (ln * 128) 128) }) with victims := d1.victims + 1 }

/-- The instruction cache filled with the lines fetched. -/
def fillIc (d : Dev) (core p : Nat) (ic : List Nat) : Dev := ic.foldl (fun d ln => icFill d core p ln) d

/-- The device once a port has taken a packet. -/
def takenBy (d : Dev) (gid : Nat) (g : Group) (ws : List Word) (ss : List SlotWord) (fills : List Touch)
    (ic : List Nat) : Dev :=
  modCore (fillIc (tlbTouchAll d fills) g.core (teamPart d g.tid) ic) g.core (fun k => stayAfter k (g.rslot % 2) gid (stayHint ws ss))

/-- The state as a packet ends: what it made takes effect, and no packet is in progress. -/
def endPacket (s : State) : State := { s with cur := Packet.none, dev := closePacket s.dev s.cur }

/-- A packet run from its first word to its end. -/
def runPacket (s : State) (gid : Nat) (g : Group) (pc : Word) (ss : List SlotWord) : Out :=
  match runSlots ss 0 { s with cur := startPacket s.tick gid g pc (litOf ss) } with
  | .next s1 => .next (endPacket s1)
  | r => r

/-- A turn of a group: its next packet, or the fault of its fetch or of stage D, where it is ready. -/
def issueGroup (s : State) (gid : Nat) : Out :=
  match tget s.dev.groups gid with
  | none => .next s
  | some g =>
    match nextPacket s.dev gid g s.tick with
    | none => .next s
    | some .fetchFault => exec (.instructionFetchFault gid) s
    | some .illegal => exec (.illegalEncoding gid) s
    | some (.packet pc ws ss fills ic) => runPacket { s with dev := takenBy s.dev gid g ws ss fills ic } gid g pc ss

/-! ## Turns -/

/-- A turn of one group: it issues when its port chooses it. -/
def issueTurn (s : State) (gid : Nat) : Out :=
  match tget s.dev.groups gid with
  | none => .next s
  | some g => if portChoice s.dev g.core (g.rslot % 2) s.tick = some gid then issueGroup s gid else .next s

/-- A turn of an issue port. -/
def issuePort (s : State) (core port : Nat) : Out :=
  match portChoice s.dev core port s.tick with
  | none => .next s
  | some gid => issueGroup s gid

/-- A write by the world outside the device to a memory it can reach (02 R380, 11 R366). -/
def outsideWrite (d : Dev) (m : OutMem) (a : Nat) (bs : List Byte) : Dev :=
  match m with
  | .host => relsOff { d with host := writeBytes d.host a bs } (2, 0, a) bs.length
  | .bar2 => { d with bar2 := writeBytes d.bar2 a bs }
  | .device => devWrite d a bs
  | .peer v => relsOff { d with peers := tput d.peers v (writeBytes (tgetD d.peers v []) a bs) } (3, v, a) bs.length

/-- The oldest store that the adapter has accepted, written to the host over the link (03 R91, 14 R424). -/
def landOne (d : Dev) : Dev :=
  match d.accepted with
  | [] => d
  | x :: t => if hostOpen d then { d with host := writeCells d.host x.1 x.2, accepted := t } else d

/-- A row of the opcode table that is an instruction word: it runs inside a packet, never as a turn of its own. -/
def isWord (i : Instr) : Bool := (encode i).isSome

/-- One turn. -/
def runTurn (t : Turn) (s : State) : Out :=
  match t with
  | .issue core port => issuePort s core port
  | .group gid => issueTurn s gid
  | .event i => if isWord i then .next s else exec i s
  | .outside m a bs => .next { s with dev := outsideWrite s.dev m a bs }
  | .engine id n => engineStep id n s
  | .exchange oct n => .next { s with dev := cxExchange s.dev oct n }
  | .element oct rank bs => .next { s with dev := cxElement s.dev oct rank bs }
  | .landed => .next { s with dev := landOne s.dev }
  | .peer v o sc n => .next { s with dev := { s.dev with peerOcts := tput s.dev.peerOcts (8 * v + o % 8) { scope := sc, pieces := n } } }

/-- The turn to take: the first of the agenda, or one the spec leaves free (log 1). -/
def nextTurn (s : State) : Turn :=
  match s.agenda with
  | t :: _ => t
  | [] => Config.schedule s.tick

/-- The state as its turn begins. -/
def beginTurn (s : State) : State := { s with agenda := s.agenda.drop 1, tick := s.tick + 1 }

/-- The state as its turn ends (log 13). -/
def endTurn (s : State) : State := { s with dev := settle s.dev s.tick }

/-! ## A device in which one instruction word is the next thing a group runs -/

/-- The group of withFetchWord: 16 lanes at packet 0 with its tokens granted. -/
def soloGroup : Group := { Group.none with width := 16, pool := 48, lpc := List.replicate 16 0#32, tok := true }

/-- The task of withFetchWord: one packet of code at virtual address 0. -/
def soloTask : Task :=
  { addr := 0, code := 0, entry := 0, npkt := 1, grid := 1, width := 16, pool := 48, gpt := 1, cwm := 0, chm := 0, spq := 0, amq := 0,
    phoff := 0, prio := 0, ecls := 0, mat := false, tfstr := 0, spill := 0, rndkey := 0, carry := 0, tfbase := 0, barr := [],
    exts := [], rings := [] }

/-- The grid of withFetchWord. -/
def soloGrid : Grid := { part := 0, task := soloTask, compl := 0, cval := 0, arg := [], nextCl := 1, live := 1, node := none, mat := none, exts := [], walks := [] }

/-- The team of withFetchWord, on core 0 of octant 0 of partition 0. -/
def soloTeam : Team :=
  { part := 0, grid := 0, cid := 0, core := 0, slot := 0, tidx := 0, row := 0, col := 0, st := .live, reserve := false, gids := [0],
    spad := [], am := [], rings := [], bars := [] }

/-- Its cluster. -/
def soloCluster : Cluster := { grid := 0, part := 0, oct := 0, clidx := 0, tids := [0], bar := default }

/-- The page tables of withFetchWord: a root at 0x20000, one table at 0x40000, and one leaf that maps the lowest 512 MiB of the
virtual space to the bottom of device memory, writable and executable (03 R74, R75). -/
def soloMem (m : Memory) (bs : List Byte) : Memory :=
  writeNat (writeNat (writeBytes m 0 bs) 0x20000 0x40001 8) 0x40000 0x0F 8

/-- The device with octant 0 assigned to partition 0, and one group of it resident on core 0 whose only packet is the given
words (log 4). -/
def soloDev (d : Dev) (bs : List Byte) : Dev :=
  { regSet (regPut d offOctpart 7 1 1) (offPtroot 0) 0x20001 with
    pow := { d.pow with on := true, stage := 2 }
    mem := soloMem d.mem bs
    parts := tput d.parts 0 (newPart [0] 1 0)
    grids := tput d.grids 0 soloGrid
    clusters := tput d.clusters 0 soloCluster
    teams := tput d.teams 0 soloTeam
    groups := tput d.groups 0 soloGroup }

end Sys2Proof.Machine
end

