-- ==== Sys2Proof/Machine/Step.lean ====
section
/-! DEFINITION. One step of the machine, and the placing of one instruction word as the next thing it runs. -/

namespace Sys2Proof.Machine

/-- One step: one turn, and the work that is ready after it (log 1, log 13). -/
def step (s : State) : Host.Outcome State Fault Refusal :=
  match runTurn (nextTurn s) (beginTurn s) with
  | .next s1 => .next (endTurn s1)
  | .fault r => .fault r
  | .refused r => .refused r

/-- The state in which the next step runs one instruction word as the first slot of a packet of nops (log 4). -/
def State.withFetchWord (s : State) (nbits w : Nat) : State :=
  { s with agenda := [.group 0], dev := soloDev s.dev (leBytes w (nbits / 8)) }

end Sys2Proof.Machine
end

