-- ==== Sys2Proof/Safety.lean ====
section
/-! DEFINITION. The terms the claims are made in: what a safe run is, what a word writes and what it leaves alone, and the
arithmetic of the integer words in the spec's own numbers. -/

namespace Sys2Proof.Machine

/-! ## Runs -/

/-- A state from which no run stops: k steps end in a next state, whatever k is. -/
def SafeRun (s : State) : Prop := ∀ k : Nat, ∃ t : State, Host.Core.run Sys2Proof.core k s = .next t

/-- Nothing of a packet is left: what a packet computes exists only inside it (02 R70, 05 R151). -/
def NoPacket (s : State) : Prop := s.cur = Packet.none

/-- Only the packet in progress differs. -/
def OnlyCur (s t : State) : Prop := t.dev = s.dev ∧ t.agenda = s.agenda ∧ t.tick = s.tick

/-- Only the device differs. -/
def OnlyDev (s t : State) : Prop := t.cur = s.cur ∧ t.agenda = s.agenda ∧ t.tick = s.tick

/-! ## What a word of a packet writes -/

/-- Lane l of absolute pool register a (02 R45). -/
def poolAt (g : Group) (a l : Nat) : Word := tgetD g.v (a * 64 + l) 0#32

/-- The pool register that window register n names (02 R45). -/
def winReg (g : Group) (n : Nat) : Nat := (g.wb + n) % g.pool

/-- What lane l of pool register a holds once a word with destination d has written val in the lanes acts: a 64-bit result
fills the register named and the next one (02 R39). -/
def vAfter (g : Group) (d : Operand) (w wide : Bool) (acts : Nat → Bool) (val : Nat → DWord) (a l : Nat) : Word :=
  match d with
  | .v n =>
    if w = false ∧ acts l = true then
      (if wide = true ∧ a = winReg g (n.val + 1) then (val l).extractLsb' 32 32
       else if a = winReg g n.val then (val l).setWidth 32 else poolAt g a l)
    else poolAt g a l
  | _ => poolAt g a l

/-- What uniform register n holds once a word with destination d has written x. -/
def sAfter (g : Group) (d : Operand) (w : Bool) (x : DWord) (n : Nat) : DWord :=
  match d with
  | .s m => if w = false ∧ n = m.val then x else readS g n
  | _ => readS g n

/-- A word's result and its frame (05 R150, R151, R153; 06 R184, R185). From packet c to packet c', the word writes val to
its destination d in the lanes acts, or, uniformly, u to an s register; fills its latch; appends the flags fl; and leaves
everything else as it was. -/
structure Writes (c c' : Packet) (d : Operand) (w wide : Bool) (acts : Nat → Bool) (val : Nat → DWord) (u : DWord)
    (fl : List (Nat × BitVec 6 × List Mask)) : Prop where
  packet : c' = { c with g := c'.g, latches := c'.latches, flags := c.flags ++ fl }
  group : c'.g = { c.g with v := c'.g.v, s := c'.g.s }
  uniform : ∀ n, readS c'.g n = sAfter c.g d w (atWidth wide u) n
  vector : ∀ a l, l < 64 → poolAt c'.g a l = vAfter c.g d w wide acts val a l
  latch : c.slot < c.latches.length → ∀ l, l < c.g0.width → acts l = true →
    latchAt c' c.slot l = atWidth wide (if d.isS = true then u else val l)
  latches : ∀ j, j ≠ c.slot → c'.latches.getD j .none = c.latches.getD j .none

/-- A word's mask result and its frame (02 R39): mask k reads as m cut to the group's width, and a write of k0 is discarded. -/
structure WritesMask (c c' : Packet) (k : BitVec 3) (m : Mask) (fl : List (Nat × BitVec 6 × List Mask)) : Prop where
  packet : c' = { c with g := c'.g, flags := c.flags ++ fl }
  group : c'.g = { c.g with k := c'.g.k }
  mask : ∀ n, readK c'.g n = if n = k.toNat ∧ n ≠ 0 then m &&& maskN c.g.width else readK c.g n

/-- The lanes of the active set. -/
def active (c : Packet) (l : Nat) : Bool := mbit c.act l

/-- Instruction i answers a next state in which it has written one value per lane, and raised no flag. -/
def Yields (s : State) (i : Instr) (d : Operand) (w wide : Bool) (val : Nat → DWord) : Prop :=
  ∃ c' : Packet, exec i s = .next { s with cur := c' } ∧
    Writes s.cur c' d w wide (active s.cur) val (val (lf s.cur)) []

/-- Instruction i answers a next state in which it has written one value per lane, or for an s register that of the lowest
active lane, with the flags of the same lanes. -/
def YieldsFlags (s : State) (i : Instr) (d : Operand) (w wide : Bool) (val : Nat → DWord) (fl : Nat → Flags) : Prop :=
  ∃ c' : Packet, exec i s = .next { s with cur := c' } ∧
    Writes s.cur c' d w wide (active s.cur) val (val (lf s.cur))
      [(s.cur.slot, d.code, flagMasks (lanesOf s.cur.act) (fun l => if d.isS = true then fl (lf s.cur) else fl l))]

/-- Instruction i answers a next state in which it has written one uniform value to an s register or to every active lane. -/
def YieldsUniform (s : State) (i : Instr) (d : Operand) (w wide : Bool) (u : DWord)
    (fl : List (Nat × BitVec 6 × List Mask)) : Prop :=
  ∃ c' : Packet, exec i s = .next { s with cur := c' } ∧
    Writes s.cur c' d w wide (active s.cur) (fun _ => atWidth wide u) u fl

/-- Instruction i answers a next state in which it has written mask k, and nothing else but the flags fl. -/
def YieldsMask (s : State) (i : Instr) (k : BitVec 3) (m : Mask) (fl : List (Nat × BitVec 6 × List Mask)) : Prop :=
  ∃ c' : Packet, exec i s = .next { s with cur := c' } ∧ WritesMask s.cur c' k m fl

/-- Mask k with the bits of the active lanes set to p and the others as they were (06 R199). -/
def maskBits (c : Packet) (k : BitVec 3) (p : Nat → Bool) : Mask :=
  maskOf 64 (fun l => if active c l = true then p l else mbit (readK c.g k.toNat) l)

/-- Instruction i answers a next state in which the lanes that take are sent to their targets, the other lanes go where they
went before, and nothing else differs (06 R189). -/
def Sends (s : State) (i : Instr) (takes : Nat → Bool) (t : Nat → Word) : Prop :=
  ∃ c' : Packet, exec i s = .next { s with cur := c' } ∧ c' = { s.cur with nxt := c'.nxt } ∧
    ∀ l, l < s.cur.g0.width → c'.nxt.getD l 0#32 = if takes l = true then t l else s.cur.nxt.getD l 0#32

/-- Instruction i answers a next state in which only the packet in progress differs, and is c'. -/
def Answers (s : State) (i : Instr) (c' : Packet) : Prop := exec i s = .next { s with cur := c' }

/-- Event i answers a next state in which only the device differs, and is d. -/
def Becomes (s : State) (i : Instr) (d : Dev) : Prop := exec i s = .next { s with dev := d }

/-- From d to d', register off of the management block takes x, and nothing else differs. -/
def SetsReg (d d' : Dev) (off : Nat) (x : DWord) : Prop :=
  d' = { d with reg := d'.reg } ∧ ∀ o, regGet d' o = if o = off then x else regGet d o

/-- From d to d', a field of register off takes v, and nothing else differs. -/
def SetsField (d d' : Dev) (off lo len v : Nat) : Prop := SetsReg d d' off (setBits (regGet d off) lo len v)

/-! ## The elements of a float value (06 R185) -/

/-- Element j of a value: the value itself for .s and .d, a half for .h2 and .b2. -/
def elemOf (fs : FS) (x : DWord) (j : Nat) : Nat :=
  match fs with
  | .s => bits x.toNat 0 32
  | .d => x.toNat
  | .h2 => bits x.toNat (16 * j) 16
  | .b2 => bits x.toNat (16 * j) 16

/-- The value of its elements. -/
def joinElems (fs : FS) (r : Nat → Nat) : DWord :=
  match fs with
  | .s => BitVec.ofNat 64 (r 0)
  | .d => BitVec.ofNat 64 (r 0)
  | .h2 => BitVec.ofNat 64 (r 0 + r 1 * 2 ^ 16)
  | .b2 => BitVec.ofNat 64 (r 0 + r 1 * 2 ^ 16)

/-- The flags of its elements, combined by OR (04 R124). -/
def joinFlags (fs : FS) (r : Nat → Flags) : Flags :=
  match fs with
  | .s => r 0
  | .d => r 0
  | .h2 => r 0 ||| r 1
  | .b2 => r 0 ||| r 1

/-- The exact results of the two-source float forms (06 R201): fadd, fsub, fmul, fdiv. -/
inductive FltOp where
  | fadd | fsub | fmul | fdiv
  deriving DecidableEq, Repr

/-- The instruction of a two-source float form. -/
def FltOp.instr (o : FltOp) (h : AHdr) (d a b : Operand) (fs : FS) (rm : RM) : Instr :=
  match o with
  | .fadd => .fadd h d a b fs rm | .fsub => .fsub h d a b fs rm | .fmul => .fmul h d a b fs rm | .fdiv => .fdiv h d a b fs rm

/-- Its exact result before rounding, with the flags that IEEE 754 gives the operation itself. -/
def FltOp.exact (o : FltOp) (rm : RM) (a b : XVal) : XVal × Flags :=
  match o with
  | .fadd => xAdd rm a b
  | .fsub => xAdd rm a b.neg
  | .fmul => xMul a b
  | .fdiv => xDiv a b

/-- One element of it: the exact result rounded once. -/
def FltOp.elem (o : FltOp) (f : FC) (rm : RM) (a b : Nat) : Nat × Flags :=
  let x := o.exact rm (unpack f a) (unpack f b)
  let r := rnd x.1 f rm 0
  (r.1, r.2 ||| x.2)

/-- The ffma of a float suffix. -/
def ffmaOf (fs : FS) (h : AHdr) (d a b x : Operand) : Instr :=
  match fs with
  | .s => .ffmaS h d a b x | .d => .ffmaD h d a b x | .h2 => .ffmaH2 h d a b x | .b2 => .ffmaB2 h d a b x

/-! ## The integer words in whole numbers (06 R195) -/

/-- The number n read as signed at width w. -/
def signedAt (w n : Nat) : Int := if n < 2 ^ (w - 1) then (n : Int) else (n : Int) - 2 ^ w

/-- The number of w bits that a whole number leaves modulo 2^w. -/
def wrapAt (w : Nat) (x : Int) : Nat := (x % (2 ^ w : Int)).toNat

/-- The number whose bit i is p i, for i below n. -/
def ofBits : Nat → (Nat → Bool) → Nat
  | 0, _ => 0
  | n + 1, p => ofBits n p + (if p n then 2 ^ n else 0)

/-- How many of the numbers below n satisfy p. -/
def countBits : Nat → (Nat → Bool) → Nat
  | 0, _ => 0
  | n + 1, p => countBits n p + (if p n then 1 else 0)

/-- The two-source forms of major 0x06. -/
inductive IntOp where
  | add | sub | mul | mulh | mulhu | min | max | minu | maxu | and | or | xor | andn | shl | shr | sra
  deriving DecidableEq, Repr

/-- The unary forms of major 0x06. -/
inductive IntOp1 where
  | abs | clz | popc | brev | mov
  deriving DecidableEq, Repr

/-- The instruction of a two-source form. -/
def IntOp.instr (o : IntOp) (h : AHdr) (wide : Bool) (d a b : Operand) : Instr :=
  match o with
  | .add => .add h wide d a b | .sub => .sub h wide d a b | .mul => .mul h wide d a b | .mulh => .mulh h wide d a b
  | .mulhu => .mulhu h wide d a b | .min => .min h wide d a b | .max => .max h wide d a b | .minu => .minu h wide d a b
  | .maxu => .maxu h wide d a b | .and => .and h wide d a b | .or => .or h wide d a b | .xor => .xor h wide d a b
  | .andn => .andn h wide d a b | .shl => .shl h wide d a b | .shr => .shr h wide d a b | .sra => .sra h wide d a b

/-- The instruction of a unary form. -/
def IntOp1.instr (o : IntOp1) (h : AHdr) (wide : Bool) (d a : Operand) : Instr :=
  match o with
  | .abs => .abs h wide d a | .clz => .clz h wide d a | .popc => .popc h wide d a | .brev => .brev h wide d a
  | .mov => .mov h wide d a

/-- R195, two sources: a and b below 2^w. -/
def IntOp.value (o : IntOp) (w a b : Nat) : Nat :=
  match o with
  | .add => wrapAt w ((a : Int) + b)
  | .sub => wrapAt w ((a : Int) - b)
  | .mul => wrapAt w ((a : Int) * b)
  | .mulh => wrapAt w (signedAt w a * signedAt w b / 2 ^ w)
  | .mulhu => a * b / 2 ^ w
  | .min => if signedAt w a ≤ signedAt w b then a else b
  | .max => if signedAt w a ≥ signedAt w b then a else b
  | .minu => if a ≤ b then a else b
  | .maxu => if a ≥ b then a else b
  | .and => ofBits w (fun i => a.testBit i && b.testBit i)
  | .or => ofBits w (fun i => a.testBit i || b.testBit i)
  | .xor => ofBits w (fun i => a.testBit i != b.testBit i)
  | .andn => ofBits w (fun i => a.testBit i && !b.testBit i)
  | .shl => a * 2 ^ (b % w) % 2 ^ w
  | .shr => a / 2 ^ (b % w)
  | .sra => wrapAt w (signedAt w a / 2 ^ (b % w))

/-- R195, one source below 2^w. clz is the number n with the top n bits 0 and the next one 1. -/
def IntOp1.value (o : IntOp1) (w a : Nat) : Nat :=
  match o with
  | .abs => wrapAt w (if signedAt w a < 0 then -signedAt w a else signedAt w a)
  | .clz => if a = 0 then w else w - 1 - Nat.log2 a
  | .popc => countBits w (fun i => a.testBit i)
  | .brev => ofBits w (fun i => a.testBit (w - 1 - i))
  | .mov => a

/-- The width of a form. -/
def widthOf (wide : Bool) : Nat := if wide then 64 else 32

/-- The immediate shifts and logic of 06 R197, as the two-source forms they compute. -/
inductive ImmOp where
  | addi | andi | ori | xori | shli | shri | srai
  deriving DecidableEq, Repr

/-- The two-source form an immediate form computes as. -/
def ImmOp.form : ImmOp → IntOp
  | .addi => .add | .andi => .and | .ori => .or | .xori => .xor | .shli => .shl | .shri => .shr | .srai => .sra

/-- The instruction of an immediate form; a shift's immediate is imm12[5:0] (05 R171). -/
def ImmOp.instr (o : ImmOp) (h : AHdr) (d a : Operand) (imm : BitVec 12) : Instr :=
  match o with
  | .addi => .addi h d a imm | .andi => .andi h d a imm | .ori => .ori h d a imm | .xori => .xori h d a imm
  | .shli => .shli h d a (imm.setWidth 6) | .shri => .shri h d a (imm.setWidth 6) | .srai => .srai h d a (imm.setWidth 6)

/-- The immediate as an operand of w bits (05 R171). -/
def ImmOp.operand (o : ImmOp) (w : Nat) (imm : BitVec 12) : Nat :=
  match o with
  | .addi => wrapAt w imm.toInt
  | .andi => imm.toNat
  | .ori => imm.toNat
  | .xori => imm.toNat
  | .shli => imm.toNat % 64
  | .shri => imm.toNat % 64
  | .srai => imm.toNat % 64

/-- The three-source forms of majors 0x10 to 0x15. -/
inductive TriOp where
  | mad | fshl | fshr | bfx | bfxs | bfi
  deriving DecidableEq, Repr

/-- The instruction of a three-source form. -/
def TriOp.instr (o : TriOp) (h : AHdr) (d a b x : Operand) : Instr :=
  match o with
  | .mad => .mad h d a b x | .fshl => .fshl h d a b x | .fshr => .fshr h d a b x | .bfx => .bfx h d a b x
  | .bfxs => .bfxs h d a b x | .bfi => .bfi h d a b x

/-- The lesser of two numbers. -/
def lesser (a b : Nat) : Nat := if a ≤ b then a else b

/-- 06 R198 in whole numbers. -/
def TriOp.value (o : TriOp) (w a b c : Nat) : Nat :=
  match o with
  | .mad => (a * b + c) % 2 ^ w
  | .fshl => (a * 2 ^ w + b) * 2 ^ (c % w) / 2 ^ w % 2 ^ w
  | .fshr => (a * 2 ^ w + b) / 2 ^ (c % w) % 2 ^ w
  | .bfx => a / 2 ^ (b % w) % 2 ^ lesser (c % 128) (w - b % w)
  | .bfxs =>
    let len := lesser (c % 128) (w - b % w)
    let r := a / 2 ^ (b % w) % 2 ^ len
    if 0 < len ∧ r.testBit (len - 1) = true then wrapAt w ((r : Int) - 2 ^ len) else r
  | .bfi =>
    let pos := c % 64 % w
    let len := lesser (c / 256 % 128) (w - pos)
    ofBits w (fun i => if pos ≤ i ∧ i < pos + len then b.testBit (i - pos) else a.testBit i)

/-- The two-source form that one step of an integer redu or scan computes (06 R218). -/
def redForm (op : RedOp) (signed : Bool) : IntOp :=
  match op with
  | .add => .add
  | .min => if signed then .min else .minu
  | .max => if signed then .max else .maxu
  | .and => .and
  | .or => .or
  | .xor => .xor

/-- The values of a list folded from the first by a two-source form at width w; 0 for no value. -/
def foldForm (o : IntOp) (w : Nat) : List Nat → Nat
  | [] => 0
  | x :: t => t.foldl (fun acc y => o.value w acc y) x

/-- The predicates of icmp on numbers of w bits (05 R172). -/
def ipredNat (p : IPred) (w a b : Nat) : Bool :=
  match p with
  | .eq => decide (a = b)
  | .ne => decide (a ≠ b)
  | .lt => decide (signedAt w a < signedAt w b)
  | .le => decide (signedAt w a ≤ signedAt w b)
  | .gt => decide (signedAt w a > signedAt w b)
  | .ge => decide (signedAt w a ≥ signedAt w b)
  | .ltu => decide (a < b)
  | .leu => decide (a ≤ b)
  | .gtu => decide (a > b)
  | .geu => decide (a ≥ b)

/-! ## The forms of the memory words (07 R226 to R238) -/

/-- A memory word that acts lane by lane: its clause and address fields, the bytes and the alignment of one lane's access, the
lanes that act, and the lanes that make an access. -/
structure LaneForm where
  m : MHdr
  a : Operand
  y : BitVec 2
  size : Nat
  align : Nat
  act : Mask
  lanes : List Nat
  deriving DecidableEq, Repr, Inhabited

/-- The load forms: an lds reads once, at the uniform address, when some active lane has its guard bit set; ldu takes any
address; ld.acq has no guard (07 R227, R228, R231). -/
def loadForm (c : Packet) : Instr → Option LaneForm
  | .ld m _ a y z => some ⟨m, a, y, sizeBytes z, sizeBytes z, guardSet c m.k false, lanesOf (guardSet c m.k false)⟩
  | .ldnc m _ a y z => some ⟨m, a, y, sizeBytes z, sizeBytes z, guardSet c m.k false, lanesOf (guardSet c m.k false)⟩
  | .ldu m _ a y w => some ⟨m, a, y, wideBytes w, 1, guardSet c m.k false, lanesOf (guardSet c m.k false)⟩
  | .ldAcq m _ a y w => some ⟨m, a, y, wideBytes w, wideBytes w, c.act, lanesOf c.act⟩
  | .lds m _ a y w =>
    some (if guardSet c m.k false = 0#64 then ⟨m, a, y, wideBytes w, wideBytes w, 0#64, []⟩
      else ⟨m, a, y, wideBytes w, wideBytes w, c.act, if c.act = 0#64 then [] else [lf c]⟩)
  | _ => none

/-- The store forms with their data operand: helper lanes store nothing (10 R354), and st.rel has no guard. -/
def storeForm (c : Packet) : Instr → Option (LaneForm × Operand)
  | .st m d a y z => some (⟨m, a, y, sizeBytes z, sizeBytes z, guardSet c m.k true, lanesOf (guardSet c m.k true)⟩, d)
  | .stRel m d a y w => some (⟨m, a, y, wideBytes w, wideBytes w, guardSet c 0 true, lanesOf (guardSet c 0 true)⟩, d)
  | _ => none

/-- The read-modify-write words with their form and fields. -/
def rmwFields : Instr → Option (RmwForm × MHdr × Operand × Operand)
  | .atom m d a op w => some (.atom op w, m, d, a)
  | .cas m d a w => some (.cas w, m, d, a)
  | .atomSwap m d a w => some (.swap w, m, d, a)
  | .fatom m d a op w => some (.fatom op w, m, d, a)
  | .xaddS m d a => some (.xaddS, m, d, a)
  | .xaddD m d a => some (.xaddD, m, d, a)
  | .vbt m d a => some (.vbt, m, d, a)
  | _ => none

/-- The group-once words that hand off one operation, with their clause, the reason of stage H in a state, and the operation's
values: the first and second operand it carries (07 R243 to R254; 08 R272, R283, R286, R293). -/
def onceForm (s : State) : Instr → Option (MHdr × Option Nat × DWord × DWord)
  | .rpop m _ n => some (m, ringReason s.dev s.cur.g0.tid n.toNat false true, 0, 0)
  | .racq m _ n => some (m, ringReason s.dev s.cur.g0.tid n.toNat true false, 0, 0)
  | .rcom m d n => some (m, ringReason s.dev s.cur.g0.tid n.toNat true false, 0, readUni s.cur true d)
  | .rcomEos m d n => some (m, ringReason s.dev s.cur.g0.tid n.toNat true false, 0, readUni s.cur true d)
  | .rcomErr m d n => some (m, ringReason s.dev s.cur.g0.tid n.toNat true false, 0, readUni s.cur true d)
  | .rrel m d n => some (m, ringReason s.dev s.cur.g0.tid n.toNat false true, 0, readUni s.cur true d)
  | .rstat m _ n => some (m, ringReason s.dev s.cur.g0.tid n.toNat false false, 0, 0)
  | .barr m _ => some (m, none, 0, 0)
  | .barw m _ => some (m, none, 0, 0)
  | .barx m d _ => some (m, none, 0, readUni s.cur true d)
  | .cbarr m => some (m, none, 0, 0)
  | .cbarw m => some (m, none, 0, 0)
  | .ntc m b a => some (m, handleReason (readUni s.cur true a) 32, readUni s.cur true a, b.setWidth 64)
  | .mxd m a => some (m, handleReason (readUni s.cur true a) 64, readUni s.cur true a, 0)
  | .mxb m a => some (m, handleReason (readUni s.cur true a) 64, readUni s.cur true a, 0)
  | .mxg m a => some (m, handleReason (readUni s.cur true a) 64, readUni s.cur true a, 0)
  | .refit m a => some (m, handleReason (readUni s.cur true a) 64, readUni s.cur true a, 0)
  | .aczr m d a => some (m, none, readUni s.cur false a, readUni s.cur true d)
  | .xmovSt m d a => some (m, none, readUni s.cur true a, readUni s.cur true d)
  | .xmovLd m d a => some (m, none, readUni s.cur true a, readUni s.cur true d)
  | _ => none

/-- The words that act lane by lane on accumulator memory or on a galley's slug: clause, lanes that act, and each lane's offset
and data (08 R283 to R285, R304). -/
def amForm (c : Packet) : Instr → Option (MHdr × Mask × Operand × (Nat → BitVec 128))
  | .acld m _ a => some (m, guardSet c m.k false, a, fun _ => 0)
  | .acst m d a => some (m, guardSet c m.k true, a, fun l => (readOp c false d l).setWidth 128)
  | .xaccE32 m d a => some (m, guardSet c m.k true, a, fun l => (readOp c false d l).setWidth 128)
  | .xaccE64 m d a => some (m, guardSet c m.k true, a, fun l => (readOp c true d l).setWidth 128)
  | .xrndE32 m _ _ a => some (m, guardSet c m.k false, a, fun _ => 0)
  | .xrndE64 m _ _ a => some (m, guardSet c m.k false, a, fun _ => 0)
  | .slg m _ a => some (m, guardSet c m.k false, a, fun _ => 0)
  | _ => none

/-- The block words: clause, destination run, handle, its alignment, the registers of the run that are read, and whether helper
lanes are left out (08 R269). -/
def blockForm : Instr → Option (MHdr × Operand × Operand × Nat × Nat × Bool)
  | .trace m d a => some (m, d, a, 64, 8, false)
  | .vmarch m d a => some (m, d, a, 64, 12, false)
  | .ovq m d a => some (m, d, a, 64, 8, false)
  | .attr m d a => some (m, d, a, 32, 4, false)
  | .dsc m d a => some (m, d, a, 32, 5, true)
  | .tex m d a => some (m, d, a, 32, 3, false)
  | _ => none

/-- The fault of a check of stage H, at the slot of the word in hand (16 R452). -/
def stageHFault (c : Packet) (r : Option Nat) : List Fatal :=
  match r with
  | some x => [{ cause := causeOf x, reason := x, lane := 0, slot := c.slot }]
  | none => []

/-! ## What an engine's lane does on a memory (03 R99; 08 R270) -/

/-- n bytes of a memory from an address on, and the number they make. -/
def bytesOn (m : Nat → Byte) (a n : Nat) : List Byte := (List.range n).map (fun i => m (a + i))
def natOn (m : Nat → Byte) (a n : Nat) : Nat := leNat (bytesOn m a n)

/-- A lane's script run over a memory: its result, or the check that failed, or none where its bound is spent; what it read, access by
access; and the memory that its writes leave. -/
def scriptOn {α : Type} : Script α → (Nat → Byte) → Except (Option Nat) α × List (List Byte) × (Nat → Byte)
  | .done x, m => (.ok x, [], m)
  | .bad r, m => (.error (some r), [], m)
  | .more, m => (.error none, [], m)
  | .read va n go, m =>
    let r := scriptOn (go (bytesOn m va n)) m
    (r.1, bytesOn m va n :: r.2.1, r.2.2)
  | .write va bs go, m =>
    let r := scriptOn go (fun a => if va ≤ a ∧ a < va + bs.length then bs.getD (a - va) 0#8 else m a)
    (r.1, [] :: r.2.1, r.2.2)

/-- Script s on memory m ends with result x. -/
def EndsIn {α : Type} (m : Nat → Byte) (s : Script α) (x : α) : Prop := (scriptOn s m).1 = .ok x

/-- Script s on memory m fails a check with a reason. -/
def FailsBy {α : Type} (m : Nat → Byte) (s : Script α) (reason : Nat) : Prop := (scriptOn s m).1 = .error (some reason)

/-- The memories a run reaches are in their canonical form: device memory, the host's, the window of BAR2 and those of other devices. -/
def Canonical (d : Dev) : Prop :=
  Memory.wf d.mem = true ∧ Memory.wf d.host = true ∧ Memory.wf d.bar2 = true ∧ ∀ v m, tget d.peers v = some m → Memory.wf m = true

end Sys2Proof.Machine
end

