-- ==== Sys2Proof/Certificates/Slice0/Obligations.lean ====
section
/-! DEFINITION. The statements for the provers: the encodings, the machine and its runs, the instruction words by family, what
memory holds after its operations, traps and calls, and every event of the device. -/

section

open Sys2Proof Sys2Proof.Machine

/-! ## Encodings (05, 16 R455, R456) -/

/-- 05 R162 to R178: every well-formed instruction word, with every operand at every value its encoding admits, is decoded
back from the word the encoder writes. -/
def Obligations.EveryWordDecodesBack : Prop :=
  ∀ i : Instr, WellFormed i → isWord i = true → ∃ w, encode i = some w ∧ decode w = .ok i

/-- 05 R179: a word that is decoded has no bit that its instruction does not use: it is its instruction's own word. 16 R456: the selectors that name no instruction, major by major, with F, F[4:0], F[5:2], Y:Z and Z as numbers. A redu or scan
whose operation is and, or or xor with type .s or .d keeps its selectors, and the least reason of its word is 0x02 too. -/
def Obligations.DecodeTakesOnlyEncodings : Prop :=
  (∀ (w : Word) (i : Instr), decode w = .ok i → encode i = some w) ∧
  (∀ w : Word,
    let op := (fldOp w).toNat
    let f := (fldF w).toNat
    let yz := (fldYZ w).toNat
    let z := (fldZ w).toNat
    ((op = 0x27 ∨ op = 0x39 ∨ op = 0x3F) → decode w = .error 0x01) ∧
    ((op = 0x00 ∧ 15 ≤ f) ∨ (op = 0x06 ∧ 23 ≤ f % 32) ∨ (op = 0x17 ∧ 10 ≤ f % 32) ∨ (op = 0x19 ∧ 32 ≤ f) ∨ (op = 0x1E ∧ 32 ≤ f) ∨
      (op = 0x1F ∧ 3 ≤ f / 4) ∨ (op = 0x20 ∧ 2 ≤ f / 4) ∨ (op = 0x21 ∧ 8 ≤ f / 4) ∨ (op = 0x25 ∧ f / 8 % 4 = 3) ∨
      (op = 0x26 ∧ 10 ≤ f / 4) ∨ (op = 0x28 ∧ 7 ≤ f % 32) ∨ (op = 0x28 ∧ 32 ≤ f ∧ (f % 32 < 3 ∨ 5 < f % 32)) ∨
      (op = 0x29 ∧ 6 ≤ f / 8) ∨ (op = 0x2A ∧ 6 ≤ f / 8) ∨ (op = 0x2B ∧ 8 ≤ f) ∨ (op = 0x2C ∧ 3 ≤ f) ∨ (op = 0x2D ∧ 2 ≤ f) ∨
      (op = 0x31 ∧ 2 ≤ z) ∨ (op = 0x33 ∧ z = 1) ∨ (op = 0x35 ∧ yz = 15) ∨ (op = 0x36 ∧ 7 ≤ yz) ∨ (op = 0x37 ∧ 6 ≤ yz) ∨
      (op = 0x38 ∧ yz ≠ 0) ∨ (op = 0x3A ∧ 4 ≤ yz) ∨ (op = 0x3B ∧ 3 ≤ yz) ∨
      (op = 0x3C ∧ (yz = 2 ∨ yz = 3 ∨ yz = 5 ∨ yz = 10 ∨ yz = 11)) ∨ (op = 0x3D ∧ 4 ≤ yz) ∨ (op = 0x3E ∧ 5 ≤ yz) →
      decode w = .error 0x02) ∧
    ((op = 0x29 ∨ op = 0x2A) ∧ (f / 8 = 3 ∨ f / 8 = 4 ∨ f / 8 = 5) ∧ (f % 8 = 4 ∨ f % 8 = 5) →
      ∃ i rs, slotWord w = .bad (some i) rs ∧ rs.foldl Nat.min 0x3F = 0x02))

/-- The words that the spec writes out in its worked examples decode to the instructions they stand for. -/
def Obligations.SpecWordsDecode : Prop :=
  decodeTableWord 32 0x04C0001E = some (.brm false 3#3 30#21) ∧ decodeTableWord 32 0x04E0001E = some (.bru false 3#3 30#21) ∧
  decodeTableWord 32 0x02BFFFFC = some (.bra false 2#3 0x3FFFFC#22) ∧
  decodeTableWord 32 0x241020FE = some (.fshr ⟨false, false⟩ (.v 4) (.v 2) (.v 3) .lit) ∧
  decodeTableWord 32 0x500C1084 = some (.push ⟨false, false⟩ false (.v 3) (.v 1) (.v 2)) ∧
  decodeTableWord 32 0x4A181000 = some (.mxpk ⟨false, false⟩ (.v 6) (.v 1) .e4m3 .rne) ∧
  decodeTableWord 32 0x4A1C6020 = some (.mxup ⟨false, false⟩ (.v 7) (.v 6) .e4m3) ∧
  decodeTableWord 32 0x5812AAC0 = some (.edge ⟨false, false⟩ (.v 4) (.s 2) (.s 3)) ∧
  decodeTableWord 32 0x2E078F25 = some (.icmp false 1#3 true .ge (.b 0) .zero) ∧
  decodeTableWord 32 0x56B01006 = some (.kmovToS ⟨false, false⟩ (.s 4) 1#3) ∧
  decodeTableWord 32 0x00000001 = some (.exit false) ∧ decodeTableWord 32 0x00000002 = some (.yield false) ∧
  decodeTableWord 32 0x00000003 = some (.ret false)

/-! ## The machine -/

/-- A step at the group that its issue port chooses (09 R332), when the packet is fetched and holds one instruction word followed by two nops:
the word is executed at the packet's start, then the packet ends and the work that is ready is done (log 13). -/
def Obligations.StepRunsTheDecodedWord : Prop :=
  ∀ (s : State) (gid : Nat) (g : Group) (pc w : Word) (fills : List Touch) (ic : List Nat) (i : Instr),
    (nextTurn s = .group gid ∨ nextTurn s = .issue g.core (g.rslot % 2)) → tget s.dev.groups gid = some g →
    portChoice s.dev g.core (g.rslot % 2) (s.tick + 1) = some gid →
    baseReady s.dev gid g = true → yieldOver s.dev g (s.tick + 1) = true → minPc g = some pc →
    fetchPacket s.dev g pc (s.tick + 1) = .words [w, 0#32, 0#32] fills ic → decode w = .ok i → WellFormed i →
    stageD g [w, 0#32, 0#32] = none → packetReady s.dev gid g pc (slotsOf [w, 0#32, 0#32]) = true →
    step s = match exec i { beginTurn s with
        dev := takenBy s.dev gid g [w, 0#32, 0#32] (slotsOf [w, 0#32, 0#32]) fills ic
        cur := startPacket (s.tick + 1) gid g pc 0#32 } with
      | .next t => .next (endTurn (endPacket { t with cur := { t.cur with slot := 2 } }))
      | r => r

/-- 05 R153: the three instruction words of a packet are executed in slot order within one step, each in the state that the
one before it leaves; then the packet ends. A turn that is an event of the device is that event, and a turn that is a write by the
outside world is that write. 03 R91: a store to host memory that the adapter has accepted reaches that memory in a turn of its own,
in the order of acceptance. -/
def Obligations.StepRunsPacketsAndEvents : Prop :=
  (∀ (s : State) (gid : Nat) (g : Group) (pc : Word) (ws : List Word) (fills : List Touch) (ic : List Nat)
       (i j k : Instr) (s1 s2 s3 : State),
     (nextTurn s = .group gid ∨ nextTurn s = .issue g.core (g.rslot % 2)) → tget s.dev.groups gid = some g →
     portChoice s.dev g.core (g.rslot % 2) (s.tick + 1) = some gid →
     nextPacket s.dev gid g (s.tick + 1) = some (.packet pc ws [.instr i, .instr j, .instr k] fills ic) →
     exec i { beginTurn s with
         dev := takenBy s.dev gid g ws [.instr i, .instr j, .instr k] fills ic
         cur := startPacket (s.tick + 1) gid g pc 0#32 } = .next s1 →
     exec j { s1 with cur := { s1.cur with slot := 1 } } = .next s2 →
     exec k { s2 with cur := { s2.cur with slot := 2 } } = .next s3 →
     step s = .next (endTurn (endPacket s3))) ∧
  ((∀ (s t : State) (i : Instr), nextTurn s = .event i → isWord i = false → exec i (beginTurn s) = .next t →
     step s = .next (endTurn t)) ∧
   (∀ (s : State) (i : Instr), nextTurn s = .event i → isWord i = true → step s = .next (endTurn (beginTurn s))) ∧
   (∀ (s : State) (m : OutMem) (a : Nat) (bs : List Byte), nextTurn s = .outside m a bs →
     step s = .next (endTurn { beginTurn s with dev := outsideWrite s.dev m a bs })) ∧
   (∀ (s : State) (a : Nat) (xs : List (Nat × Byte)) (t : List (Nat × List (Nat × Byte))), nextTurn s = .landed →
     s.dev.accepted = (a, xs) :: t → hostOpen s.dev = true →
     step s = .next (endTurn { beginTurn s with dev := { s.dev with host := writeCells s.dev.host a xs, accepted := t } })))

/-- Every state of the machine goes on: no instruction word and no event, on any operands, stops a run. -/
def Obligations.EveryRunGoesOn : Prop := ∀ s : State, SafeRun s

/-- 02 R70, 05 R151: what a packet computes exists only within its packet: between steps no packet is in progress, whatever the
step was. -/
def Obligations.NoPacketBetweenSteps : Prop :=
  ∀ s t : State, NoPacket s → step s = .next t → NoPacket t

/-- 03 R86, R87: memory is an array of bytes: from every state in which device memory, the host's, the window of BAR2 and the memories of
other devices are in canonical form (addresses strictly rising, no byte listed that reads as one not listed: log 3), every step that
answers a next state leaves them so. Reset meets it. -/
def Obligations.MemoriesStayCanonical : Prop :=
  ∀ s t : State, Canonical s.dev → step s = .next t → Canonical t.dev

/-- The machine after reset: no packet, an empty agenda, memory with nothing listed and in its canonical form, no group, team
or operation, and the management registers at the values the spec gives: PWRBUD 0x0010_0000_3800_5A00 (11 R376), WDCFG
0x0100_0000 (14 R404), and 0 in the others. -/
def Obligations.ResetLeaves : Prop :=
  NoPacket State.reset ∧ State.reset.agenda = [] ∧ State.reset.dev.mem = [] ∧ Canonical State.reset.dev ∧
  (∀ a, readByte State.reset.dev.mem a = 0#8) ∧
  State.reset.dev.groups = [] ∧ State.reset.dev.teams = [] ∧ State.reset.dev.ops = [] ∧ State.reset.dev.parts = [] ∧
  State.reset.dev.cyc = 0 ∧
  regGet State.reset.dev offPwrbud = 0x0010000038005A00#64 ∧ regGet State.reset.dev offWdcfg = 0x01000000#64 ∧
  (∀ off, off ≠ offPwrbud → off ≠ offWdcfg → regGet State.reset.dev off = 0#64)

/-- Executing an instruction word changes the packet in progress and nothing else: no memory, no register of another group, no
unit of the device (02 R70: everything a packet makes takes effect when it commits). 05 R153: a word reads its sources as they stood before its packet, so no word of the packet changes them for another: the
group as it stood, its index, active set, literal and slot stay as they were. What an instruction word may write of its group before the packet commits: registers and masks, the special registers that
wrsr and tmcmp write, the saved lane PCs that lpcw writes, and the FPE an xrnd notes (08 R285). Every other special register, the window, the call records, the
lane PCs and the stream counts stay. -/
def Obligations.WordsChangeOnlyThePacket : Prop :=
  (∀ (i : Instr) (s t : State), isWord i = true → exec i s = .next t → OnlyCur s t) ∧
  ((∀ (i : Instr) (s t : State), isWord i = true → exec i s = .next t →
     t.cur.g0 = s.cur.g0 ∧ t.cur.gid = s.cur.gid ∧ t.cur.pc = s.cur.pc ∧ t.cur.act = s.cur.act ∧ t.cur.lit = s.cur.lit ∧
       t.cur.seed = s.cur.seed ∧ t.cur.slot = s.cur.slot) ∧
  (∀ (i : Instr) (s t : State), isWord i = true → exec i s = .next t →
     t.cur.g = { s.cur.g with
       v := t.cur.g.v, s := t.cur.g.s, k := t.cur.g.k, tvec := t.cur.g.tvec, tframe := t.cur.g.tframe, tmcmp := t.cur.g.tmcmp
       fps := t.cur.g.fps, fpe := t.cur.g.fpe, rndkey := t.cur.g.rndkey, handler := t.cur.g.handler
       fpeAtIssue := t.cur.g.fpeAtIssue } ∧
     ((∀ c n a, i ≠ .wrsr c n a) →
       t.cur.g.tvec = s.cur.g.tvec ∧ t.cur.g.tframe = s.cur.g.tframe ∧ t.cur.g.fps = s.cur.g.fps ∧ t.cur.g.fpe = s.cur.g.fpe ∧
       t.cur.g.rndkey = s.cur.g.rndkey ∧ ((∀ c a, i ≠ .tmcmp c a) → t.cur.g.tmcmp = s.cur.g.tmcmp)) ∧
     ((∀ c a, i ≠ .lpcw c a) → t.cur.g.handler = s.cur.g.handler)))

/-- An event changes the device and leaves the packet in progress and the agenda, but for a loss of power, which ends the
packet, and a re-issue, which puts its group's turn at the end of the agenda. -/
def Obligations.EventsChangeOnlyTheDevice : Prop :=
  ∀ (i : Instr) (s t : State), isWord i = false → exec i s = .next t →
    match i with
    | .powerTrip _ => t.agenda = s.agenda ∧ t.tick = s.tick ∧ (t.cur = s.cur ∨ t.cur = Packet.none)
    | .supplyRemoved => t.agenda = s.agenda ∧ t.tick = s.tick ∧ t.cur = Packet.none
    | .packetReissue gid => t.cur = s.cur ∧ t.tick = s.tick ∧ (t.agenda = s.agenda ∨ t.agenda = s.agenda ++ [.group gid])
    | _ => OnlyDev s t

/-! ## The integer words (06 R194 to R199) -/

/-- 06 R195: each form of major 0x06 writes its value, modulo 2^w, to its destination in each lane of the active set, or of the
lowest active lane to an s register, raises no flag, and leaves everything else as it was. -/
def Obligations.IntegerFormsOfMajor06 : Prop :=
  (∀ (s : State) (o : IntOp) (h : AHdr) (wide : Bool) (d a b : Operand),
    Yields s (o.instr h wide d a b) d h.w wide (fun l =>
      BitVec.ofNat 64 (o.value (widthOf wide) (readOp s.cur wide a l).toNat (readOp s.cur wide b l).toNat))) ∧
  (∀ (s : State) (o : IntOp1) (h : AHdr) (wide : Bool) (d a : Operand),
    Yields s (o.instr h wide d a) d h.w wide (fun l => BitVec.ofNat 64 (o.value (widthOf wide) (readOp s.cur wide a l).toNat)))

/-- 06 R196: addc and subb take their carry in from the lane's bit of k7, as it stood before the packet, and write their carry
out to the same bit, whatever W is; with an s register as destination both are bit lf. -/
def Obligations.CarryForms : Prop :=
  ∀ (s : State) (h : AHdr) (wide : Bool) (d a b : Operand) (sub : Bool),
    let c := s.cur
    let w := widthOf wide
    let x := fun l => (readOp c wide a l).toNat
    let y := fun l => (readOp c wide b l).toNat
    let ci : Nat → Nat := fun l => if mbit (readK c.g0 7) (if d.isS = true then lf c else l) = true then 1 else 0
    ∃ c1 c' : Packet,
      exec (if sub then .subb h wide d a b else .addc h wide d a b) s = .next { s with cur := c' } ∧
      Writes c c1 d h.w wide (active c)
        (fun l => BitVec.ofNat 64 (if sub then wrapAt w ((x l : Int) - y l - (ci l : Int)) else (x l + y l + ci l) % 2 ^ w))
        (BitVec.ofNat 64 (if sub then wrapAt w ((x (lf c) : Int) - y (lf c) - (ci (lf c) : Int)) else (x (lf c) + y (lf c) + ci (lf c)) % 2 ^ w))
        [] ∧
      c' = { c1 with g := c'.g } ∧ c'.g = { c1.g with k := c'.g.k } ∧
      (∀ n, n ≠ 7 → readK c'.g n = readK c.g n) ∧
      (∀ l, l < c.g.width → l < 64 → mbit (readK c'.g 7) l =
        if (if d.isS = true then l = lf c else active c l = true)
          then (if sub then decide (x l < y l + ci l) else decide (2 ^ w ≤ x l + y l + ci l))
          else mbit (readK c.g 7) l)

/-- 06 R197: the immediate forms are the forms of R195 with b taken as the immediate; li writes its immediate sign-extended, and
lui its immediate above 13 zero bits. With an s register the width is 64, otherwise 32. 06 R198: the three-source forms; sel takes a where the lane's bit of the mask is 1, bit lf for an s register. -/
def Obligations.ImmediateAndThreeSourceForms : Prop :=
  ((∀ (s : State) (o : ImmOp) (h : AHdr) (d a : Operand) (imm : BitVec 12),
     Yields s (o.instr h d a imm) d h.w d.isS (fun l =>
       BitVec.ofNat 64 (o.form.value (widthOf d.isS) (readOp s.cur d.isS a l).toNat (o.operand (widthOf d.isS) imm)))) ∧
   (∀ (s : State) (c : Bool) (d : Operand) (imm : BitVec 19),
     Yields s (.li c d imm) d false d.isS (fun _ => BitVec.ofNat 64 (wrapAt 64 imm.toInt))) ∧
   (∀ (s : State) (c : Bool) (d : Operand) (imm : BitVec 19),
     Yields s (.lui c d imm) d false d.isS (fun _ => BitVec.ofNat 64 (wrapAt 64 (signedAt 32 (imm.toNat * 2 ^ 13)))))) ∧
  ((∀ (s : State) (o : TriOp) (h : AHdr) (d a b x : Operand),
     Yields s (o.instr h d a b x) d h.w d.isS (fun l =>
       BitVec.ofNat 64 (o.value (widthOf d.isS) (readOp s.cur d.isS a l).toNat (readOp s.cur d.isS b l).toNat
         (readOp s.cur d.isS x l).toNat))) ∧
   (∀ (s : State) (h : AHdr) (d a b : Operand) (k : BitVec 3),
     Yields s (.sel h d a b k) d h.w d.isS (fun l =>
       if mbit (readK s.cur.g0 k.toNat) (if d.isS = true then lf s.cur else l) = true then readOp s.cur d.isS a l
       else readOp s.cur d.isS b l)))

/-- 06 R199: icmp sets each active lane's bit of its mask to its predicate; bits of other lanes stay, a write of k0 is
discarded, and no latch is filled. -/
def Obligations.IntegerCompare : Prop :=
  ∀ (s : State) (h : Bool) (k : BitVec 3) (wide : Bool) (p : IPred) (a b : Operand),
    YieldsMask s (.icmp h k wide p a b) k
      (maskBits s.cur k (fun l => ipredNat p (widthOf wide) (readOp s.cur wide a l).toNat (readOp s.cur wide b l).toNat)) []

/-! ## The floating-point words (06 R200 to R212) -/

/-- 06 R201: fadd, fsub, fmul and fdiv round the exact result of each element once; ffma rounds a × b + c once; fsqrt rounds the
exact root. A lane's flags are the OR of its elements' (04 R124). 06 R202 to R204 and R212: frnd, fclass, fmin, fmax and the special functions, element by element; fclass writes one 32-bit
register also for .d, and raises no flag. What an element of each is: of frnd, the integral value that its mode gives, with no NX, ±0 and ±∞ as they are and NaN canonical (R202);
of fclass, the one bit of its class (R203); of fmin and fmax, the lesser and the greater, -0 below +0, a NaN giving way to a number
(04 R123); of sf.fn, the domains and the fixed results of 04 R128, function by function, and 1/x and √x rounded once. -/
def Obligations.FloatForms : Prop :=
  ((∀ (s : State) (o : FltOp) (h : AHdr) (d a b : Operand) (fs : FS) (rm : RM),
     let r := fun l j => o.elem fs.fc rm (elemOf fs (readOp s.cur fs.isWide a l) j) (elemOf fs (readOp s.cur fs.isWide b l) j)
     YieldsFlags s (o.instr h d a b fs rm) d h.w fs.isWide (fun l => joinElems fs (fun j => (r l j).1))
       (fun l => joinFlags fs (fun j => (r l j).2))) ∧
   (∀ (s : State) (h : AHdr) (d a b x : Operand) (fs : FS),
     let r := fun l j =>
       let p := xMul (unpack fs.fc (elemOf fs (readOp s.cur fs.isWide a l) j)) (unpack fs.fc (elemOf fs (readOp s.cur fs.isWide b l) j))
       let t := xAdd .rne p.1 (unpack fs.fc (elemOf fs (readOp s.cur fs.isWide x l) j))
       ((rnd t.1 fs.fc .rne 0).1, (rnd t.1 fs.fc .rne 0).2 ||| p.2 ||| t.2)
     YieldsFlags s (ffmaOf fs h d a b x) d h.w fs.isWide (fun l => joinElems fs (fun j => (r l j).1))
       (fun l => joinFlags fs (fun j => (r l j).2))) ∧
   (∀ (s : State) (h : AHdr) (d a : Operand) (fs : FS) (rm : RM),
     let r := fun l j =>
       let t := xSqrt (unpack fs.fc (elemOf fs (readOp s.cur fs.isWide a l) j))
       ((rnd t.1 fs.fc rm 0).1, (rnd t.1 fs.fc rm 0).2 ||| t.2)
     YieldsFlags s (.fsqrt h d a fs rm) d h.w fs.isWide (fun l => joinElems fs (fun j => (r l j).1))
       (fun l => joinFlags fs (fun j => (r l j).2)))) ∧
  ((∀ (s : State) (h : AHdr) (d a : Operand) (fs : FS) (rm : RM),
     let r := fun l j => rndElem rm fs.fc (elemOf fs (readOp s.cur fs.isWide a l) j)
     YieldsFlags s (.frnd h d a fs rm) d h.w fs.isWide (fun l => joinElems fs (fun j => (r l j).1))
       (fun l => joinFlags fs (fun j => (r l j).2))) ∧
   (∀ (s : State) (h : AHdr) (d a : Operand) (fs : FS),
     Yields s (.fclass h d a fs) d h.w false (fun l =>
       joinElems fs (fun j => classElem fs.fc (elemOf fs (readOp s.cur fs.isWide a l) j)))) ∧
   (∀ (s : State) (h : AHdr) (d a b : Operand) (fs : FS) (max : Bool),
     let r := fun l j => fminmax fs.fc max (elemOf fs (readOp s.cur fs.isWide a l) j) (elemOf fs (readOp s.cur fs.isWide b l) j)
     YieldsFlags s (if max then .fmax h d a b fs else .fmin h d a b fs) d h.w fs.isWide (fun l => joinElems fs (fun j => (r l j).1))
       (fun l => joinFlags fs (fun j => (r l j).2))) ∧
   (∀ (s : State) (h : AHdr) (d a : Operand) (fn : SFn) (fs : FS),
     let r := fun l j => sfn fs.fc fn (unpack fs.fc (elemOf fs (readOp s.cur fs.isWide a l) j))
     YieldsFlags s (.sfFn h d a fn fs) d h.w fs.isWide (fun l => joinElems fs (fun j => (r l j).1))
       (fun l => joinFlags fs (fun j => (r l j).2)))) ∧
  ((∀ (rm : RM) (f : FC) (x : Nat),
     (∀ b, unpack f x = .nan b → rndElem rm f x = (nanPat f, if b then fNV else 0)) ∧
     (∀ b, unpack f x = .inf b ∨ unpack f x = .zero b → rndElem rm f x = (x, 0)) ∧
     (∀ n d e, unpack f x = .fin n d e →
       let num := n.natAbs * pow2 e
       let den := d * pow2 (-e)
       let q := num / den
       let r := num % den
       let up := match rm with
         | .rne => decide (den < 2 * r) || (decide (2 * r = den) && decide (q % 2 = 1))
         | .rna => decide (den ≤ 2 * r)
         | .rup => decide (0 < r) && decide (0 < n)
         | .rdn => decide (0 < r) && decide (n < 0)
         | .sr => decide (2 ^ 16 ≤ r * 2 ^ 16 / den)
         | _ => false
       let k := q + (if up then 1 else 0)
       rndElem rm f x = ((rnd (if k = 0 then .zero (decide (n < 0)) else .fin (if n < 0 then -(k : Int) else k) 1 0) f .rne 0).1, 0))) ∧
   (∀ (fs : FS) (x : Nat),
     let p := fmtOf fs.fc
     let neg := bit x (p.w - 1)
     let e := x % 2 ^ (p.w - 1) / 2 ^ p.m
     let m := x % 2 ^ p.m
     classElem fs.fc x = 2 ^ (
       if e = 2 ^ (p.w - 1 - p.m) - 1 then (if m = 0 then (if neg then 0 else 7) else if bit x (p.m - 1) then 9 else 8)
       else if e = 0 then (if m = 0 then (if neg then 3 else 4) else if neg then 2 else 5)
       else if neg then 1 else 6)) ∧
   (∀ (f : FC) (max : Bool) (x y : Nat),
     let a := unpack f x
     let b := unpack f y
     let r := fminmax f max x y
     r.2 = (if a.isSnan || b.isSnan then fNV else 0) ∧
     (a.isNan = true → b.isNan = true → r.1 = nanPat f) ∧
     (a.isNan = true → b.isNan = false → r.1 = y) ∧ (a.isNan = false → b.isNan = true → r.1 = x) ∧
     (a.isNan = false → b.isNan = false → (r.1 = x ∨ r.1 = y) ∧
       (max = true → xLt (unpack f r.1) a = false ∧ xLt (unpack f r.1) b = false) ∧
       (max = false → xLt a (unpack f r.1) = false ∧ xLt b (unpack f r.1) = false)) ∧
     (a = .zero false → b = .zero true → r.1 = if max then x else y) ∧
     (a = .zero true → b = .zero false → r.1 = if max then y else x)) ∧
   (∀ f : FC,
     let bad := fun (fn : SFn) (x : XVal) => sfn f fn x = (nanPat f, fNV)
     let gives := fun (fn : SFn) (x v : XVal) (fl : Flags) => sfn f fn x = ((rnd v f .rne 0).1, (rnd v f .rne 0).2 ||| fl)
     let int := fun (k : Int) => if k = 0 then XVal.zero false else .fin k 1 0
     (∀ fn b, sfn f fn (.nan b) = (nanPat f, if b then fNV else 0)) ∧
     (∀ fn, fn = .log2 ∨ fn = .rsq ∨ fn = .sqrt → bad fn (.inf true) ∧ ∀ n d e, n < 0 → bad fn (.fin n d e)) ∧
     (∀ b, bad .sinpi (.inf b) ∧ bad .cospi (.inf b)) ∧
     (gives .exp2 (.inf true) (.zero false) 0 ∧ gives .exp2 (.inf false) (.inf false) 0 ∧ (∀ b, gives .exp2 (.zero b) (.fin 1 1 0) 0) ∧
       ∀ n : Int, n ≠ 0 → n.natAbs ≤ 3000 → gives .exp2 (.fin n 1 0) (.fin 1 1 n) 0) ∧
     ((∀ b, gives .log2 (.zero b) (.inf true) fDZ) ∧ gives .log2 (.inf false) (.inf false) 0 ∧
       ∀ (j : Nat) (n : Int), gives .log2 (.fin ((2 ^ j : Nat) : Int) 1 (n - j)) (int n) 0) ∧
     ((∀ b, gives .rcp (.zero b) (.inf b) fDZ) ∧ (∀ b, gives .rcp (.inf b) (.zero b) 0) ∧
       ∀ n d e, gives .rcp (.fin n d e) (.fin ((if n < 0 then -1 else 1) * (d : Int)) n.natAbs (-e)) 0) ∧
     ((∀ b, gives .rsq (.zero b) (.inf b) fDZ) ∧ gives .rsq (.inf false) (.zero false) 0 ∧
       ∀ n d e, 0 < n → gives .rsq (.fin n d e) (rootFin d n.natAbs (-e)) 0) ∧
     ((∀ b, gives .sqrt (.zero b) (.zero b) 0) ∧ gives .sqrt (.inf false) (.inf false) 0 ∧
       ∀ n d e, 0 < n → gives .sqrt (.fin n d e) (rootFin n.natAbs d e) 0) ∧
     ((∀ b, gives .sinpi (.zero b) (.zero b) 0) ∧
       (∀ (n : Int) (j : Nat), n ≠ 0 → gives .sinpi (.fin (n * 2 ^ j) 1 (-(j : Int))) (.zero (decide (n < 0))) 0) ∧
       ∀ (n : Int) (j : Nat), gives .sinpi (.fin ((2 * n + 1) * 2 ^ j) 1 (-1 - (j : Int))) (.fin (if n % 2 = 0 then 1 else -1) 1 0) 0) ∧
     ((∀ b, gives .cospi (.zero b) (.fin 1 1 0) 0) ∧
       (∀ (n : Int) (j : Nat), n ≠ 0 → gives .cospi (.fin (n * 2 ^ j) 1 (-(j : Int))) (.fin (if n % 2 = 0 then 1 else -1) 1 0) 0) ∧
       ∀ (n : Int) (j : Nat), gives .cospi (.fin ((2 * n + 1) * 2 ^ j) 1 (-1 - (j : Int))) (.zero false) 0) ∧
     (∀ fn, fn = .tanh ∨ fn = .erf → ∀ b, gives fn (.zero b) (.zero b) 0 ∧ gives fn (.inf b) (.fin (if b then -1 else 1) 1 0) 0) ∧
     ((∀ b, gives .sigm (.zero b) (.fin 1 2 0) 0) ∧ gives .sigm (.inf true) (.zero false) 0 ∧ gives .sigm (.inf false) (.fin 1 1 0) 0)))

/-- 06 R205: fcmp on the .s and .d forms. A NaN makes eq, lt, le, gt, ge and ord false, ne and uno true; lt, le, gt and ge raise
NV for any NaN, the others for a signalling one only. -/
def Obligations.FloatCompare : Prop :=
  ∀ (s : State) (h : Bool) (k : BitVec 3) (p : FPred) (fs : FS) (a b : Operand), (fs = .s ∨ fs = .d) →
    let x := fun l => unpack fs.fc (elemOf fs (readOp s.cur fs.isWide a l) 0)
    let y := fun l => unpack fs.fc (elemOf fs (readOp s.cur fs.isWide b l) 0)
    let nan := fun l => (x l).isNan || (y l).isNan
    let less := fun l => xLt (x l) (y l)
    let more := fun l => xLt (y l) (x l)
    let r := fun l => match p with
      | .eq => !nan l && !less l && !more l
      | .ne => nan l || less l || more l
      | .lt => !nan l && less l
      | .le => !nan l && !more l
      | .gt => !nan l && more l
      | .ge => !nan l && !less l
      | .uno => nan l
      | .ord => !nan l
    let quiet := p == .eq || p == .ne || p == .uno || p == .ord
    let fl := fun l => if (if quiet then (x l).isSnan || (y l).isSnan else nan l) = true then fNV else 0
    YieldsMask s (.fcmp h k p fs a b) k (maskBits s.cur k r) [(s.cur.slot, kfield k, flagMasks (lanesOf s.cur.act) fl)]

/-- 06 R207 to R209: cvt, cvtsr, cvti and cvtf: one rounding of the exact value of the source, with the draw of R207 under SR. 06 R210, R211: mxpk writes each lane's element with the scale of its block of 32 lanes, in which inactive lanes count as +0;
mxup takes an element times its scale. With an s destination the one result of SR takes its draw with the lowest active lane, the model's choice (log 75). -/
def Obligations.ConversionForms : Prop :=
  ((∀ (s : State) (h : AHdr) (d a : Operand) (fd fsrc : FC) (rm : RM),
     let x := fun l => (readOp s.cur fsrc.isWide a l).toNat % 2 ^ (fmtOf fsrc).w
     let ctr := fun l => BitVec.ofNat 64 (s.cur.g0.gidx * 2 ^ 40 + l * 2 ^ 32) ^^^ BitVec.ofNat 64 (x l)
     let r := fun l => rnd (unpack fsrc (x l)) fd rm (if rm = .sr then (draw s.cur.g0.rndkey (ctr l)).toNat / 2 ^ 16 else 0)
     YieldsFlags s (.cvt h d a fd fsrc rm) d h.w fd.isWide (fun l => BitVec.ofNat 64 (r l).1)
       (fun l => (r l).2 ||| if (unpack fsrc (x l)).isSnan = true then fNV else 0)) ∧
   (∀ (s : State) (h : AHdr) (d a b : Operand) (fd fsrc : FC),
     let x := fun l => (readOp s.cur fsrc.isWide a l).toNat % 2 ^ (fmtOf fsrc).w
     let r := fun l => rnd (unpack fsrc (x l)) fd .sr ((draw s.cur.g0.rndkey (readOp s.cur true b l)).toNat / 2 ^ 16)
     YieldsFlags s (.cvtsr h d a b fd fsrc) d h.w false (fun l => BitVec.ofNat 64 (r l).1)
       (fun l => (r l).2 ||| if (unpack fsrc (x l)).isSnan = true then fNV else 0)) ∧
   (∀ (s : State) (h : AHdr) (d a : Operand) (it : IT) (fsrc : FC) (rm : RM),
     let r := fun l => toIntVal it rm (unpack fsrc ((readOp s.cur fsrc.isWide a l).toNat % 2 ^ (fmtOf fsrc).w))
     YieldsFlags s (.cvti h d a it fsrc rm) d h.w it.isWide
       (fun l => BitVec.ofNat 64 (wrapAt (if it.isWide = true then 64 else 32) (r l).1)) (fun l => (r l).2)) ∧
   (∀ (s : State) (h : AHdr) (d a : Operand) (fd : FC) (it : IT) (rm : RM),
     let x := fun l => (readOp s.cur it.isWide a l).toNat % 2 ^ it.width
     let r := fun l => rnd (ofInt (if it.signed = true then signedAt it.width (x l) else x l)) fd rm 0
     YieldsFlags s (.cvtf h d a fd it rm) d h.w fd.isWide (fun l => BitVec.ofNat 64 (r l).1) (fun l => (r l).2))) ∧
  ((∀ (s : State) (h : AHdr) (d a : Operand) (mf : MF) (rm : RM),
     let e := fun l => if active s.cur l = true then unpack .fp32 (readOp s.cur false a l).toNat else .zero false
     let x := fun l => mxScale ((List.range 32).map (fun i => e (l / 32 * 32 + i))) mf
     let ctr := fun l => BitVec.ofNat 64 (s.cur.g0.gidx * 2 ^ 40 + l * 2 ^ 32) ^^^ BitVec.ofNat 64 (readOp s.cur false a l).toNat
     let q := fun l => rnd (scaleBy (e l) (127 - (x l : Int))) mf.fc rm
       (if rm = .sr then (draw s.cur.g0.rndkey (ctr l)).toNat / 2 ^ 16 else 0)
     let all := fun _ : Nat => match mf with
       | .e4m3 => 0x7F
       | .e5m2 => 0x7E
       | .e2m1 => 0
     YieldsFlags s (.mxpk h d a mf rm) d h.w false
       (fun l => BitVec.ofNat 64 (x l * 256 + if x l = 0xFF then all l else (q l).1))
       (fun l => if x l = 0xFF then (if (e l).isSnan = true then fNV else 0) else (q l).2)) ∧
   (∀ (s : State) (h : AHdr) (d a : Operand) (mf : MF),
     let v := fun l => (readOp s.cur false a l).toNat
     let x := fun l => v l / 256 % 256
     let q := fun l => unpack mf.fc (v l % 2 ^ (fmtOf mf.fc).w)
     let r := fun l => rnd (scaleBy (q l) ((x l : Int) - 127)) .fp32 .rne 0
     YieldsFlags s (.mxup h d a mf) d h.w false
       (fun l => BitVec.ofNat 64 (if x l = 0xFF ∨ (q l).isNan = true then 0x7FC00000 else (r l).1))
       (fun l => (if x l = 0xFF ∨ (q l).isNan = true then 0 else (r l).2) ||| if (q l).isSnan = true then fNV else 0)))

/-! ## The cross-lane, mask and raster words (06 R213 to R223) -/

/-- 06 R214, R217: ballot, vany, vall and kfirst over the lanes of the active set. With a destination of zero, which has
no width, the latch of kfirst takes 64 bits, the model's choice (log 64). 06 R220: the mask forms act on whole masks, whatever the active set is; kact takes the active set. -/
def Obligations.BallotAndMaskForms : Prop :=
  (∀ (s : State) (h : AHdr) (d a : Operand) (k : BitVec 3),
     (∃ u, YieldsUniform s (.ballot h d a) d h.w (!d.isV) u [] ∧
       ∀ l, mbit u l = (active s.cur l && (readOp s.cur false a l != 0#64))) ∧
     YieldsUniform s (.vany h d a) d h.w false
       (if (lanesOf s.cur.act).any (fun l => readOp s.cur false a l != 0#64) = true then 1 else 0) [] ∧
     YieldsUniform s (.vall h d a) d h.w false
       (if (lanesOf s.cur.act).all (fun l => readOp s.cur false a l != 0#64) = true then 1 else 0) [] ∧
     YieldsUniform s (.kfirst h d k) d h.w (!d.isV)
       (match (lanesOf s.cur.act).find? (fun l => mbit (readK s.cur.g0 k.toNat) l) with
        | some l => BitVec.ofNat 64 l
        | none => 0xFFFFFFFFFFFFFFFF#64) []) ∧
  (∀ (s : State) (c : Bool) (h : AHdr) (d a b : BitVec 3) (x : Operand) (n : Fin 16),
     let k := fun (i : BitVec 3) => readK s.cur.g0 i.toNat
     YieldsMask s (.kand c d a b) d (k a &&& k b) [] ∧ YieldsMask s (.kor c d a b) d (k a ||| k b) [] ∧
     YieldsMask s (.kxor c d a b) d (k a ^^^ k b) [] ∧ YieldsMask s (.knot c d a) d (~~~k a) [] ∧
     YieldsMask s (.kmovMask c d a) d (k a) [] ∧ YieldsMask s (.kmovToMask c d x) d (readOp s.cur true x (lf s.cur)) [] ∧
     YieldsUniform s (.kmovToS h (.s n) a) (.s n) h.w true (k a) [] ∧ YieldsMask s (.kact c d) d s.cur.act [])

/-- 06 R215, R216: shfl and bcast take another lane's value, active or not; push writes to the lane it aims at, where it is
active: the highest source lane's value remains, and a lane that none names keeps its register.
An s register as the destination of push is an illegal encoding (R187). -/
def Obligations.LaneMoves : Prop :=
  (∀ (s : State) (h : AHdr) (wide : Bool) (d a b : Operand),
    Yields s (.shfl h wide d a b) d h.w wide (fun l =>
      readOp s.cur wide a ((readOp s.cur false b l).toNat % 2 ^ 32 % s.cur.g0.width))) ∧
  (∀ (s : State) (h : AHdr) (wide : Bool) (d a b : Operand),
    YieldsUniform s (.bcast h wide d a b) d h.w wide
      (readOp s.cur wide a ((readOp s.cur false b (lf s.cur)).toNat % 2 ^ 32 % s.cur.g0.width)) []) ∧
  (∀ (s : State) (h : AHdr) (wide : Bool) (d a b : Operand), d.isS = false →
    let aims := fun l t => (readOp s.cur false b l).toNat % 2 ^ 32 % s.cur.g0.width == t
    let src := fun t => ((lanesOf s.cur.act).filter (fun l => aims l t)).getLast?
    ∃ c' : Packet, exec (.push h wide d a b) s = .next { s with cur := c' } ∧
      c' = { s.cur with g := c'.g, latches := c'.latches } ∧ c'.g = { s.cur.g with v := c'.g.v } ∧
      (∀ x l, l < 64 → poolAt c'.g x l = vAfter s.cur.g d h.w wide (fun t => active s.cur t && (src t).isSome)
        (fun t => readOp s.cur wide a ((src t).getD 0)) x l) ∧
      (s.cur.slot < s.cur.latches.length → ∀ l, l < s.cur.g0.width → active s.cur l = true →
        latchAt c' s.cur.slot l = atWidth wide (match src l with
          | some i => readOp s.cur wide a i
          | none => readOp s.cur wide d l)))

/-- 06 R218, R219: redu folds the values of the active lanes, in ascending order, into one uniform result; scan writes to each
active lane the result over the lanes up to it. Integer types, whose steps are forms of R195. An s register as the destination
of scan is an illegal encoding (R187). 06 R218, R219 for .s and .d: the float sum of a redu is tree_sum of 04 R133 and its minimum and maximum a fold in ascending
order; a scan's running values are those of 04 R134; a NaN result is canonical, and flags go to the lanes. A scan's running value that starts as a signalling NaN is canonical from the first lane on, the model's choice (log 91). -/
def Obligations.Reductions : Prop :=
  ((∀ (s : State) (h : AHdr) (d a : Operand) (op : RedOp) (ty : RedTy) (rm : RM), ty.isFloat = false →
     YieldsUniform s (.redu h d a op ty rm) d h.w ty.isWide
       (BitVec.ofNat 64 (foldForm (redForm op (ty == .i32 || ty == .i64)) (widthOf ty.isWide)
         ((lanesOf s.cur.act).map (fun l => (readOp s.cur ty.isWide a l).toNat))))
       [(s.cur.slot, d.code, flagMasks (lanesOf s.cur.act) (fun _ => 0))]) ∧
   (∀ (s : State) (h : AHdr) (d a : Operand) (op : RedOp) (ty : RedTy) (rm : RM), ty.isFloat = false → d.isS = false →
     YieldsFlags s (.scan h d a op ty rm) d h.w ty.isWide
       (fun l => BitVec.ofNat 64 (foldForm (redForm op (ty == .i32 || ty == .i64)) (widthOf ty.isWide)
         (((lanesOf s.cur.act).filter (fun i => decide (i ≤ l))).map (fun i => (readOp s.cur ty.isWide a i).toNat))))
       (fun _ => 0))) ∧
  ((∀ (s : State) (h : AHdr) (d a : Operand) (op : RedOp) (ty : RedTy) (rm : RM), ty.isFloat = true →
     let f := redFc ty
     let xs := (lanesOf s.cur.act).map (fun l => (readOp s.cur ty.isWide a l).toNat)
     let r := if op = .add then treeSum f rm (Nat.log2 s.cur.g0.width) ((List.range s.cur.g0.width).map (fun l =>
         if active s.cur l = true then some (readOp s.cur ty.isWide a l).toNat else none))
       else ((scanFloat op f rm xs none).getLast?).getD (0, 0)
     YieldsUniform s (.redu h d a op ty rm) d h.w ty.isWide (BitVec.ofNat 64 (canonNan f r.1))
       [(s.cur.slot, d.code, flagMasks (lanesOf s.cur.act) (fun _ =>
         r.2 ||| if xs.any (fun x => (unpack f x).isSnan) = true then fNV else 0))]) ∧
   (∀ (s : State) (h : AHdr) (d a : Operand) (op : RedOp) (ty : RedTy) (rm : RM), ty.isFloat = true → d.isS = false →
     let rs := scanFloat op (redFc ty) rm ((lanesOf s.cur.act).map (fun l => (readOp s.cur ty.isWide a l).toNat)) none
     let at_ := fun l => rs.getD ((lanesOf s.cur.act).filter (fun i => decide (i < l))).length (0, 0)
     ∃ c' : Packet, exec (.scan h d a op ty rm) s = .next { s with cur := c' } ∧
       Writes s.cur c' d h.w ty.isWide (active s.cur) (fun l => BitVec.ofNat 64 (at_ l).1)
         (BitVec.ofNat 64 (at_ (lf s.cur)).1)
         [(s.cur.slot, d.code, flagMasks (lanesOf s.cur.act) (fun l => (at_ l).2))]))

/-- 06 R221 to R223: edge, the differences of a quad, and the random draws. -/
def Obligations.RasterAndDraws : Prop :=
  (∀ (s : State) (h : AHdr) (d a b : Operand),
    let ab := (readOp s.cur true a (lf s.cur)).toNat
    Yields s (.edge h d a b) d h.w true (fun l => BitVec.ofNat 64 (wrapAt 64 (((readOp s.cur true b l).toNat : Int) +
      signedAt 32 (ab % 2 ^ 32) * ((l % 8 : Nat) : Int) + signedAt 32 (ab / 2 ^ 32) * ((l / 8 : Nat) : Int))))) ∧
  (∀ (s : State) (h : AHdr) (d a : Operand) (y : Bool),
    let m := if y then 2 else 1
    let lo := fun l => l - l / m % 2 * m
    let x := fun l => unpack .fp32 (readOp s.cur false a l).toNat
    let t := fun l => xAdd .rne (x (lo l + m)) (x (lo l)).neg
    let r := fun l => rnd (t l).1 .fp32 .rne 0
    YieldsFlags s (if y then .qdy h d a else .qdx h d a) d h.w false (fun l => BitVec.ofNat 64 (r l).1)
      (fun l => (r l).2 ||| (t l).2)) ∧
  (∀ (s : State) (h : AHdr) (d a : Operand),
    Yields s (.rng h d a) d h.w false (fun l => (draw s.cur.g0.rndkey (readOp s.cur true a l)).setWidth 64)) ∧
  (∀ (s : State) (h : AHdr) (d a : Operand),
    Yields s (.rngU h d a) d h.w false (fun l =>
      BitVec.ofNat 64 (rnd (drawU s.cur.g0.rndkey (readOp s.cur true a l)) .fp32 .rne 0).1))

/-! ## Control transfer, traps and special registers (06 R188 to R193, 07 R256 to R263) -/

/-- 06 R189, R190: the lanes that each conditional branch sends to (pc + sext(disp)) mod 2^32; the other lanes go on, and nothing
else of the packet changes. 06 R191, R192: jmpi and exit send every active lane; call and calli do so and leave a slide of the window by f due, with the
return index pc + 1 and the live lanes that are not in the packet held. 06 R191: ret at a depth above 0 sends every active lane to the return index of the most recent call record and leaves the
return of R47 due. -/
def Obligations.BranchesCallsAndReturns : Prop :=
  (∀ (s : State) (c : Bool) (k : BitVec 3) (d22 : BitVec 22) (d21 : BitVec 21) (d19 : BitVec 19) (a : Operand),
    let bit := fun l => mbit (readK s.cur.g0 k.toNat) l
    let on := active s.cur
    let zero := fun l => readOp s.cur false a l == 0#64
    Sends s (.bra c k d22) (fun l => on l && bit l) (fun _ => s.cur.pc + d22.signExtend 32) ∧
    Sends s (.brm c k d21) (fun l => on l && (lanesOf s.cur.act).any bit) (fun _ => s.cur.pc + d21.signExtend 32) ∧
    Sends s (.bru c k d21) (fun l => on l && (lanesOf s.cur.act).all bit) (fun _ => s.cur.pc + d21.signExtend 32) ∧
    Sends s (.brz c a d19) (fun l => on l && zero l) (fun _ => s.cur.pc + d19.signExtend 32) ∧
    Sends s (.brnz c a d19) (fun l => on l && !zero l) (fun _ => s.cur.pc + d19.signExtend 32)) ∧
  ((∀ (s : State) (c : Bool) (a : Operand) (f : BitVec 6) (d19 : BitVec 19),
     Sends s (.jmpi c a) (active s.cur) (fun l => (readOp s.cur false a l).setWidth 32) ∧
     Sends s (.exit c) (active s.cur) (fun _ => 0xFFFFFFFF#32) ∧
     (∀ i t, (i = Instr.call c f d19 ∧ t = fun _ => s.cur.pc + d19.signExtend 32) ∨
         (i = Instr.calli c a f ∧ t = fun l => (readOp s.cur false a l).setWidth 32) →
       ∃ c' : Packet, ∃ held : Mask, exec i s = .next { s with cur := c' } ∧
         c' = { s.cur with nxt := c'.nxt, slide := some (.call f.toNat (s.cur.pc + 1#32) held), ctl := s.cur.slot } ∧
         (∀ l, l < s.cur.g0.width → c'.nxt.getD l 0#32 = if active s.cur l = true then t l else s.cur.nxt.getD l 0#32) ∧
         (∀ l, l < 64 → mbit held l = (decide (l < s.cur.g0.width) && liveLane s.cur.g0 l && !active s.cur l)))) ∧
  (∀ (s : State) (c : Bool), s.cur.g0.depth ≠ 0 →
     ∃ c' : Packet, exec (.ret c) s = .next { s with cur := c' } ∧ c' = { s.cur with nxt := c'.nxt, slide := some .ret, ctl := s.cur.slot } ∧
       ∀ l, l < s.cur.g0.width →
         c'.nxt.getD l 0#32 = if active s.cur l = true then (s.cur.g0.links.headD default).ret else s.cur.nxt.getD l 0#32))

/-- 05 R146, 06 R193, 07 R257, R258: nop changes nothing; yield marks the packet; trap asks for user trap 0x08 with its code for
the active set, the lower slot's standing where two ask; svc adds its code to the service calls of the packet, behind those of lower slots (the order is the model's choice, log 14). 07 R259, R260, 16 R458: in a handler, at its entry depth, tret leaves the return due; lpcw writes the saved lane PCs of the
active lanes; lpcr reads them, and outside a handler the packet's own index. 16 R458: a ret at depth 0, a pbar above depth 0, a tret outside a handler or at another depth than its entry's, and an lpcw
outside a handler, are context-fatal with cause 0x02 and their reason; the word does nothing else. -/
def Obligations.TrapAndHandlerWords : Prop :=
  ((∀ (s : State) (c : Bool) (code : BitVec 16),
     Answers s (.nop c) s.cur ∧ Answers s (.yield c) { s.cur with yield := true } ∧
     (s.cur.trap = none →
       Answers s (.trap c code)
         { s.cur with trap := some { cause := 8, code := code, mask := s.cur.act, slot := s.cur.slot, dest := 0 } }) ∧
     (s.cur.trap ≠ none → Answers s (.trap c code) s.cur) ∧
     Answers s (.svc c code) { s.cur with svc := s.cur.svc ++ [code] }) ∧
  ((∀ (s : State) (c : Bool) (x : Handler), s.cur.g0.handler = some x → x.depth = s.cur.g0.depth →
     Answers s (.tret c) { s.cur with tret := true, ctl := s.cur.slot }) ∧
   (∀ (s : State) (c : Bool) (a : Operand) (x y : Handler), s.cur.g0.handler = some x → s.cur.g.handler = some y →
     ∃ c' : Packet, ∃ z : Handler, Answers s (.lpcw c a) c' ∧ c' = { s.cur with g := { s.cur.g with handler := some z } } ∧
       z.depth = y.depth ∧ ∀ l, l < s.cur.g0.width → z.saved.getD l 0xFFFFFFFF#32 =
         if active s.cur l = true then (readOp s.cur false a l).setWidth 32 else y.saved.getD l 0xFFFFFFFF#32) ∧
   (∀ (s : State) (h : AHdr) (d : Operand),
     Yields s (.lpcr h d) d h.w false (fun l => match s.cur.g0.handler with
       | some x => (x.saved.getD l 0xFFFFFFFF#32).setWidth 64
       | none => s.cur.pc.setWidth 64)))) ∧
  (∀ s : State,
    let dies := fun (r : Nat) => { s.cur with fatal := s.cur.fatal ++ [{ cause := 2, reason := r, lane := 0, slot := s.cur.slot }] }
    (∀ c, s.cur.g0.depth = 0 → Answers s (.ret c) (dies 0x10)) ∧
    (∀ m n, 0 < s.cur.g0.depth → Answers s (.pbar m n) (dies 0x11)) ∧
    (∀ c, s.cur.g0.handler = none → Answers s (.tret c) (dies 0x12)) ∧
    (∀ c x, s.cur.g0.handler = some x → x.depth ≠ s.cur.g0.depth → Answers s (.tret c) (dies 0x12)) ∧
    (∀ c a, s.cur.g0.handler = none → Answers s (.lpcw c a) (dies 0x13)))

/-- 07 R261: tmcmp with A = 0 clears TMCMP.EN; otherwise it sets TMCMP to GCYC + A with EN = 1; what it writes back is TMCMP as it was before the packet, also beside a wrsr of a lower slot (the model's choice, log 78). A is read once, as 64 bits. 07 R263, 02 R58, R63, R67: wrsr writes the fields of the registers it may name and no reserved bit of them: TVEC bits [32:0],
TFRAME bits [55:6], FPS and FPE bits [4:0], TMCMP and RNDKEY whole. A is read once, as 64 bits. 07 R262, R263, 02 R59 to R68: clk reads the device cycle count; rdsr reads each special register, as the group had it before
the packet. -/
def Obligations.SpecialRegisters : Prop :=
  ((∀ (s : State) (c : Bool) (a : Operand),
     let x := readOp s.cur true a (lf s.cur)
     Answers s (.tmcmp c a) { s.cur with g := { s.cur.g with tmcmp :=
       if x = 0#64 then s.cur.g0.tmcmp &&& 0x7FFFFFFFFFFFFFFF#64 else (s.cur.g0.gcyc + x) ||| 0x8000000000000000#64 } }) ∧
  (∀ (s : State) (c : Bool) (a : Operand),
     let x := readOp s.cur true a (lf s.cur)
     let g := s.cur.g
     let writes := fun (n : BitVec 6) (g' : Group) => Answers s (.wrsr c n a) { s.cur with g := g' }
     writes 0x06 { g with tvec := BitVec.ofNat 64 (x.toNat % 2 ^ 33) } ∧
     writes 0x0A { g with tframe := BitVec.ofNat 64 (x.toNat % 2 ^ 56 / 64 * 64) } ∧
     writes 0x0B { g with tmcmp := x } ∧ writes 0x0D { g with fps := BitVec.ofNat 64 (x.toNat % 32) } ∧
     writes 0x0E { g with fpe := BitVec.ofNat 64 (x.toNat % 32) } ∧ writes 0x0F { g with rndkey := x })) ∧
  (∀ (s : State) (h : AHdr) (d : Operand),
    let g := s.cur.g0
    let reads := fun (n : BitVec 6) (x : DWord) => Yields s (.rdsr h d n) d h.w true (fun _ => x)
    Yields s (.clk h d) d h.w true (fun _ => BitVec.ofNat 64 s.dev.cyc) ∧
    reads 0x00 (BitVec.ofNat 64 (g.gintm * 2 ^ 60 + g.gidx)) ∧ reads 0x01 (teamid s.dev g) ∧ reads 0x02 (clpos s.dev g) ∧
    reads 0x03 (BitVec.ofNat 64 g.width) ∧ reads 0x04 (BitVec.ofNat 64 (g.depth * 2 ^ 16 + g.wb % 2 ^ 16)) ∧
    reads 0x05 (BitVec.ofNat 64 g.pool) ∧ reads 0x06 g.tvec ∧ reads 0x07 g.tcause ∧ reads 0x08 g.tmask ∧ reads 0x09 g.tslot ∧
    reads 0x0A g.tframe ∧ reads 0x0B g.tmcmp ∧ reads 0x0C g.gcyc ∧ reads 0x0D g.fps ∧ reads 0x0E g.fpe ∧ reads 0x0F g.rndkey ∧
    reads 0x10 g.spill ∧ reads 0x11 (BitVec.ofNat 64 (g.cnt.getD 3 0 * 2 ^ 24 + g.cnt.getD 2 0 * 2 ^ 16 + g.cnt.getD 1 0 * 2 ^ 8 + g.cnt.getD 0 0)))

/-! ## Memory, ring, barrier and engine words as they issue (07 R226 to R255, 08 R267 to R306, 16 R452 to R459) -/

/-- 07 R227, R228, R231, 16 R453: a load word checks and translates each lane's parts, keeps a value the group already holds
(15 R433), records every lane that fails (16 R454: lds, which acts once for the group, names lane 0), and hands off one operation with the parts that succeed; with its guard false in every
lane it does nothing. 16 R453: stage T takes one lane's checks in this order: canon (0x20), the local window (0x21), alignment (0x27), the
translation, and only then protection and KIND. -/
def Obligations.LoadWordsHandOff : Prop :=
  (∀ (s : State) (i : Instr) (f : LaneForm), loadForm s.cur i = some f →
    let c := s.cur
    let once := match i with
      | .lds _ _ _ _ _ => true
      | _ => false
    let held := fun l => c.g0.gather.find? (fun h => h.slot == c.slot && h.lane == l)
    let va := fun l => addrOf c f.a f.y l
    let ps := fun l => laneParts (va l).toNat f.size
    let r := fun l => (laneXl s.dev (teamPart s.dev c.g0.tid) c.g0.tid (laneFree c l) (va l) f.align .read false
      ((ps l).map (fun q => q.1))).1
    let accs := f.lanes.flatMap (fun l => match held l, r l with
      | some h, _ => [{ newAcc l 0 f.size 0 none none [] with got := h.bytes, done := true }]
      | none, .ok ts => ((ps l).zip ts).map (fun q => newAcc l q.1.1 q.1.2 (q.1.1 - (va l).toNat) (some q.2) none [])
      | none, _ => [])
    ∃ c' : Packet, Answers s i c' ∧
      c' = { c with
        ops := c.ops ++ (if f.act = 0#64 then [] else [{ newOp s i f.act f.m.o f.m.p with accs := accs, lanes := [] }])
        fatal := c.fatal ++ f.lanes.filterMap (fun l => match held l, r l with
          | none, .bad x => some { cause := causeOf x, reason := x, lane := if once then 0 else l, slot := c.slot }
          | _, _ => none)
        xfaults := c.xfaults ++ f.lanes.filterMap (fun l => match held l, r l with
          | none, .fault x lvl e => some { slot := c.slot, lane := l, va := x, acc := .read, lvl := lvl, entry := BitVec.ofNat 64 e }
          | _, _ => none)
        fills := c'.fills }) ∧
  (∀ (d : Dev) (p tid fi : Nat) (va : DWord) (align : Nat) (acc : AccKind) (isCas : Bool) (parts : List Nat),
    let x := fun a => (xlate d p (.team tid) a fi).1
    let r := (laneXl d p tid fi va align acc isCas parts).1
    (2 ^ 56 ≤ va.toNat → r = .bad 0x20) ∧
    (va.toNat < 2 ^ 56 → (∃ a ∈ parts, x a = .prot 0x21) → r = .bad 0x21) ∧
    (va.toNat < 2 ^ 56 → (∀ a ∈ parts, x a ≠ .prot 0x21) → va.toNat % align ≠ 0 → r = .bad 0x27) ∧
    (va.toNat < 2 ^ 56 → (∀ a ∈ parts, x a ≠ .prot 0x21) → va.toNat % align = 0 →
      (∃ a ∈ parts, ∃ lvl e, x a = .fault lvl e) → ∃ a ∈ parts, ∃ lvl e, x a = .fault lvl e ∧ r = .fault a lvl e) ∧
    (∀ ts, r = .ok ts → va.toNat < 2 ^ 56 ∧ va.toNat % align = 0 ∧
      ts = parts.filterMap (fun a => match checkAcc (x a) acc isCas with
        | .ok t _ _ => some t
        | _ => none) ∧ ts.length = parts.length))

/-- 07 R232, 15 R435: a store word does so with each lane's data split at the 8-byte units; a lane whose page fails translation
keeps its parts without a target. 07 R233: where every lane that acts is translated and may be written, stm hands off, for each 8-byte unit that a lane's
selected bytes touch, those bytes at their addresses and nothing else; a lane that selects no byte is treated as one whose guard is
false (16 R459), and where every lane is one, stm hands off nothing. -/
def Obligations.StoreWordsHandOff : Prop :=
  (∀ (s : State) (i : Instr) (f : LaneForm) (d : Operand), storeForm s.cur i = some (f, d) →
     let c := s.cur
     let va := fun l => addrOf c f.a f.y l
     let ps := fun l => laneParts (va l).toNat f.size
     let r := fun l => (laneXl s.dev (teamPart s.dev c.g0.tid) c.g0.tid (laneFree c l) (va l) f.align .write false
       ((ps l).map (fun q => q.1))).1
     let bs := fun l => leBytes (readOp c (f.size == 8) d l).toNat f.size
     let cells := fun l (q : Nat × Nat) => partCells (va l).toNat (bs l) q
     let accs := f.lanes.flatMap (fun l => match r l with
       | .ok ts => ((ps l).zip ts).map (fun q => newAcc l q.1.1 0 (q.1.1 - (va l).toNat) (some q.2) none (cells l q.1))
       | .fault _ _ _ => (ps l).map (fun q => newAcc l q.1 0 (q.1 - (va l).toNat) none none (cells l q))
       | .bad _ => [])
     ∃ c' : Packet, Answers s i c' ∧
       c' = { c with
         ops := c.ops ++ (if f.act = 0#64 then [] else [{ newOp s i f.act f.m.o f.m.p with accs := accs, lanes := [] }])
         fatal := c.fatal ++ f.lanes.filterMap (fun l => match r l with
           | .bad x => some { cause := causeOf x, reason := x, lane := l, slot := c.slot }
           | _ => none)
         xfaults := c.xfaults ++ f.lanes.filterMap (fun l => match r l with
           | .fault x lvl e => some { slot := c.slot, lane := l, va := x, acc := .write, lvl := lvl, entry := BitVec.ofNat 64 e }
           | _ => none)
         fills := c'.fills }) ∧
  (∀ (s : State) (m : MHdr) (d a : Operand) (y : BitVec 2),
     let c := s.cur
     let guard := guardSet c m.k true
     let va := fun l => (addrOf c a y l).toNat
     let picks := fun l j => bit (readOp c false (nextReg d 2) l).toNat j
     let datum := fun l j => BitVec.ofNat 8 ((readOp c true d l).toNat / 2 ^ (8 * j) % 256)
     ∃ c' : Packet, Answers s (.stm m d a y) c' ∧
       c' = { c with ops := c'.ops, fatal := c'.fatal, xfaults := c'.xfaults, fills := c'.fills } ∧
       ((∀ l, l < 64 → mbit guard l = true → ∀ j, j < 8 → picks l j = false) → c' = c) ∧
       ((∃ l, l < 64 ∧ mbit guard l = true ∧ ∃ j, j < 8 ∧ picks l j = true) → ∃ o : Op, c'.ops = c.ops ++ [o] ∧ o.word = .stm m d a y ∧
         (∀ l, l < 64 → (mbit o.act l = true ↔ mbit guard l = true ∧ ∃ j, j < 8 ∧ picks l j = true)) ∧ o.stream = m.o.toNat ∧
         (c'.fatal = c.fatal → c'.xfaults = c.xfaults → ∀ l addr x,
           (∃ p ∈ o.accs, p.lane = l ∧ ∃ q ∈ p.data, p.va + q.1 = addr ∧ q.2 = x) ↔
             (l < 64 ∧ mbit guard l = true ∧ ∃ j, j < 8 ∧ picks l j = true ∧ addr = va l + j ∧ x = datum l j))))

/-- 07 R234 to R236: each of atom, cas, atom swap, fatom, xadd.s, xadd.d and vbt answers a next state: it checks and translates the
location of every lane that acts and is no helper, records each lane that fails (an address that runs past the local window is 0x21),
and hands off one operation with one part for each other lane and the operands of its form in each; a lane whose page fails translation
keeps its part without a target (15 R435), and with no lane it changes nothing. 07 R239: prf answers a next state: it hands off the
lines of its lanes in KIND 0 and KIND 2 pages, drops without a fault each lane that fails translation, protection or KIND or lies in scratchpad, and
neither takes a clause nor counts in a stream when its packet commits; no memory changes. 07 R240: snop answers a next state with an
operation of no access in its stream. -/
def Obligations.ReadModifyWriteWordsHandOff : Prop :=
  (∀ (s : State) (m : MHdr) (d a : Operand),
    let c := s.cur
    let act := guardSet c m.k true
    let va := fun l => addrOf c a 0 l
    let p := teamPart s.dev c.g0.tid
    let answers := fun (i : Instr) (f : RmwForm) (isCas : Bool) (n : Nat) =>
      let ps := fun l => if (va l).toNat / 65536 = ((va l).toNat + n - 1) / 65536 then [(va l).toNat]
        else [(va l).toNat, ((va l).toNat / 65536 + 1) * 65536]
      let past := fun l => isLocal (va l).toNat && (xlate s.dev p (.team c.g0.tid) ((va l).toNat + n - 1) 0).1 == .prot 0x21
      let r := fun l =>
        let x := (laneXl s.dev p c.g0.tid (laneFree c l) (va l) n .atomic isCas (ps l)).1
        if past l = true ∧ x ≠ .bad 0x20 then .bad 0x21 else x
      ∃ c' : Packet, exec i s = .next { s with cur := c' } ∧ c' = { c with
        ops := c.ops ++ (if act = 0#64 then [] else [{ newOp s i act m.o m.p with
          lanes := (lanesOf act).map (rmwIn c f d)
          accs := (lanesOf act).flatMap (fun l => match r l with
            | .ok ts => [newAcc l (va l).toNat n 0 ts.head? ((ts.drop 1).head?.map (fun t => (65536 - (va l).toNat % 65536, t))) []]
            | .fault _ _ _ => [newAcc l (va l).toNat n 0 none none []]
            | .bad _ => []) }])
        fatal := c.fatal ++ (lanesOf act).filterMap (fun l => match r l with
          | .bad x => some { cause := causeOf x, reason := x, lane := l, slot := c.slot }
          | _ => none)
        xfaults := c.xfaults ++ (lanesOf act).filterMap (fun l => match r l with
          | .fault x lvl e => some { slot := c.slot, lane := l, va := x, acc := .atomic, lvl := lvl, entry := BitVec.ofNat 64 e }
          | _ => none)
        fills := c'.fills }
    (∀ op wide, answers (.atom m d a op wide) (.atom op wide) false (if wide then 8 else 4)) ∧
    (∀ wide, answers (.cas m d a wide) (.cas wide) true (if wide then 8 else 4)) ∧
    (∀ wide, answers (.atomSwap m d a wide) (.swap wide) false (if wide then 8 else 4)) ∧
    (∀ op wide, answers (.fatom m d a op wide) (.fatom op wide) false (if wide then 8 else 4)) ∧
    answers (.xaddS m d a) .xaddS false 64 ∧ answers (.xaddD m d a) .xaddD false 288 ∧ answers (.vbt m d a) .vbt false 16) ∧
  (∀ (s : State) (c llc : Bool) (a : Operand) (k : BitVec 3),
    let act := guardSet s.cur k false
    let va := fun l => addrOf s.cur a 0 l
    let r := fun l => (laneXl s.dev (teamPart s.dev s.cur.g0.tid) s.cur.g0.tid (laneFree s.cur l) (va l) 1 .read false [(va l).toNat]).1
    ∃ c' : Packet, exec (.prf c llc a k) s = .next { s with cur := c' } ∧ c' = { s.cur with
      ops := s.cur.ops ++ (if act = 0#64 then [] else [{ newOp s (.prf c llc a k) act 0 0 with
        accs := (lanesOf act).filterMap (fun l => match r l with
          | .ok [.dev pa nc] => some (newAcc l (va l).toNat 0 0 (some (.dev pa nc)) none [])
          | .ok [.remote v pa] => some (newAcc l (va l).toNat 0 0 (some (.remote v pa)) none [])
          | _ => none) }])
      fills := c'.fills }) ∧
  (∀ (d : Dev) (p : Packet) (base : Nat) (o : Op) (c llc : Bool) (a : Operand) (k : BitVec 3), o.word = .prf c llc a k →
    clauseOf o.word = none ∧ (handOffOp p d base o).groups = d.groups ∧ (handOffOp p d base o).ops = d.ops ∧
    (handOffOp p d base o).mem = d.mem ∧ (handOffOp p d base o).reports = d.reports) ∧
  (∀ (s : State) (c : Bool) (sc : Option Scope) (o : BitVec 2) (p : BitVec 4),
    exec (.snop c sc o p) s = .next { s with cur := { s.cur with
      ops := s.cur.ops ++ (if s.cur.act = 0#64 then [] else [newOp s (.snop c sc o p) s.cur.act o p]) } })

/-- 07 R228, R243 to R255, 08 R268, 16 R459: a group-once word makes its check of stage H whatever its guard is, and hands off
one operation of the whole active set, with the handles and values it reads, when some active lane has its guard bit set. 02 R51, 07 R250: pbar at depth 0 hands off its arrival and leaves the group to park on its barrier, when some active lane has
its guard bit set; 08 R282: mxq writes its register at commit, and hands nothing off. Of two pbar words of a packet the group parks on the barrier of the later slot, the model's choice (log 14). -/
def Obligations.GroupOnceWords : Prop :=
  (∀ (s : State) (i : Instr) (m : MHdr) (r : Option Nat) (x y : DWord), onceForm s i = some (m, r, x, y) →
     ∃ c' : Packet, Answers s i c' ∧
       c' = { s.cur with
         fatal := s.cur.fatal ++ stageHFault s.cur r
         ops := s.cur.ops ++ (if guardSet s.cur m.k false = 0#64 then []
           else [{ newOp s i s.cur.act m.o m.p with a := x, d := y }]) }) ∧
  ((∀ (s : State) (m : MHdr) (n : BitVec 6), s.cur.g0.depth = 0 →
     Answers s (.pbar m n) (if guardSet s.cur m.k false = 0#64 then s.cur
       else { s.cur with ops := s.cur.ops ++ [newOp s (.pbar m n) s.cur.act m.o m.p], park := some n.toNat, parkSlot := s.cur.slot })) ∧
   (∀ (s : State) (m : MHdr) (n : Fin 16),
     Answers s (.mxq m (.s n)) (if guardSet s.cur m.k false = 0#64 then s.cur
       else { s.cur with g := writeS s.cur.g n.val (mxqVal s.dev s.cur.g0.core s.cur.g0.tid) })))

/-- 08 R268, R283 to R285, R304: a word on accumulator memory, or a slug read, hands off one operation with the offset and data of
each lane that acts; xrnd also notes FPE as the packet found it. 08 R269, R270: a block word checks its handle whatever its guard is, and hands off the registers of its run of each lane that
acts; rbin hands off the six of its block and the carried registers, and its lanes end (10 R355, 02 R54). -/
def Obligations.AccumulatorAndBlockWords : Prop :=
  (∀ (s : State) (i : Instr) (m : MHdr) (act : Mask) (a : Operand) (data : Nat → BitVec 128), amForm s.cur i = some (m, act, a, data) →
     ∃ c' : Packet, Answers s i c' ∧ (act = 0#64 → c' = s.cur) ∧
       (act ≠ 0#64 → c' = { s.cur with
         g := { s.cur.g with fpeAtIssue := c'.g.fpeAtIssue }
         ops := s.cur.ops ++ [{ newOp s i act m.o m.p with
           lanes := (lanesOf act).map (fun l => { lane := l, a := readOp s.cur false a l, d := data l, run := [] }) }] } ∧
         c'.g.fpeAtIssue = (match i with
           | .xrndE32 _ _ _ _ => s.cur.g0.fpe
           | .xrndE64 _ _ _ _ => s.cur.g0.fpe
           | _ => s.cur.g.fpeAtIssue))) ∧
  ((∀ (s : State) (i : Instr) (m : MHdr) (d a : Operand) (align n : Nat) (noHelper : Bool),
     blockForm i = some (m, d, a, align, n, noHelper) →
     let act := guardSet s.cur m.k noHelper
     ∃ c' : Packet, Answers s i c' ∧
       c' = { s.cur with
         fatal := s.cur.fatal ++ stageHFault s.cur (handleReason (readUni s.cur true a) align)
         ops := s.cur.ops ++ (if act = 0#64 then [] else [{ newOp s i act m.o m.p with
           a := readUni s.cur true a, d := BitVec.ofNat 64 s.cur.g0.gidx
           lanes := (lanesOf act).map (fun l => { lane := l, a := 0, d := 0, run := runOf s.cur d n l }) }]) }) ∧
   (∀ (s : State) (m : MHdr) (d a : Operand),
     let act := guardSet s.cur m.k true
     let carry := ((teamTask s.dev s.cur.g0.tid).map (fun k => k.carry)).getD 0
     let run := fun l => runOf s.cur d 6 l ++
       ((List.range 40).filter (fun n => bit carry.toNat n)).map (fun n => readV s.cur.g0 n l)
     ∃ c' : Packet, Answers s (.rbin m d a) c' ∧
       c' = { s.cur with
         nxt := c'.nxt
         fatal := s.cur.fatal ++ stageHFault s.cur (handleReason (readUni s.cur true a) 32)
         ops := s.cur.ops ++ (if act = 0#64 then [] else [{ newOp s (.rbin m d a) act m.o m.p with
           a := readUni s.cur true a, d := BitVec.ofNat 64 s.cur.g0.gidx
           lanes := (lanesOf act).map (fun l => { lane := l, a := 0, d := 0, run := run l }) }]) } ∧
       (∀ l, l < s.cur.g0.width → c'.nxt.getD l 0#32 = if mbit act l = true then 0xFFFFFFFF#32 else s.cur.nxt.getD l 0#32)))

/-! ## Accesses at their homes (03 R87 to R109, 07 R231 to R237) -/

/-- 07 R231, 03 R88: what a load's part reads. ldnc and an acquire of cluster scope or wider take the bytes at the home; a plain
load of a cacheable page takes them from the core's copy of the line, which it fills from the home where it has none. An acquire that
03 R98 lets act as a plain load may read as one (log 67). 07 R231, 03 R91: a part of a load that may be bound takes its bytes; no memory
of this device and no other group changes. When it is the last of its operation, and no earlier word of its packet has still to write
the same register (05 R153), the operation leaves, its group's destination holds each lane's datum, for lds an s register's one datum,
and its stream's count is one less; of a core that has stopped the response is discarded: it fills no cache and writes no register (17 R471). -/
def Obligations.LoadsComplete : Prop :=
  (∀ (d : Dev) (id : Nat) (o : Op) (a : Acc) (pa : Nat) (nc : Bool), a.tgt = some (.dev pa nc) →
     let core := tgetD d.cores o.core default
     let bytes := (loadRead d id o a).map (fun r => r.1)
     let plain := isHomeLoad o.word = false ∨ (isWideAcq o.word = true ∧ Config.narrow id = true ∧ acqPlain d o a = true)
     (¬ plain → bytes = some (readBytes d.mem pa a.len)) ∧
     (nc = true → bytes = some (readBytes d.mem pa a.len)) ∧
     (plain → nc = false → ∀ line, tget core.dc (pa / 128) = some line → bytes = some ((line.drop (pa % 128)).take a.len)) ∧
     (plain → nc = false → tget core.dc (pa / 128) = none → pa % 128 + a.len ≤ 128 →
       bytes = some (readBytes d.mem pa a.len) ∧
       (core.noInstall = [] → ∀ r, loadRead d id o a = some r →
         tget (tgetD r.2.cores o.core default).dc (pa / 128) = some (readBytes d.mem (pa / 128 * 128) 128)))) ∧
  (∀ (s : State) (id j : Nat) (o : Op) (a : Acc) (d1 : Dev) (bs : List Byte),
     tget s.dev.ops id = some o → partOf o j = some a → loadOpen s.dev id o a = true →
     let runs := unitRuns s.dev o.part (unitCore o.core)
     (runs = true → loadRead s.dev id o a = some (bs, d1)) →
     let o' : Op := { o with accs := lset o.accs j { a with got := if runs then overlay s.dev o a (earlier s.dev id o) bs else [], done := true } }
     let ends := o'.accs.all (fun b => b.done) = true
     let turn := o.gather = true ∨ slotBehind s.dev id o = false
     ∃ d' : Dev, exec (.loadComplete id j) s = .next { s with dev := d' } ∧
       d' = { s.dev with cores := d'.cores, links := d'.links, ops := d'.ops, groups := d'.groups, net := d'.net, llc := d'.llc
                         victims := d'.victims, host := d'.host, accepted := d'.accepted } ∧
       ((∀ pa, a.tgt ≠ some (.host pa)) → d'.host = s.dev.host ∧ d'.accepted = s.dev.accepted) ∧
       (∀ x, x ≠ o.gid → tget d'.groups x = tget s.dev.groups x) ∧ (∀ x, x ≠ id → tget d'.ops x = tget s.dev.ops x) ∧
       (¬ (ends ∧ turn) → d'.groups = s.dev.groups ∧ tget d'.ops id = some o') ∧
       (runs = false → d'.groups = s.dev.groups ∧
         ∀ x, (tgetD d'.cores x default).dc = (tgetD s.dev.cores x default).dc ∧ (tgetD d'.cores x default).ic = (tgetD s.dev.cores x default).ic) ∧
       (ends → turn → tget d'.ops id = none ∧
         (runs = true → ∀ g, tget s.dev.groups o.gid = some g →
           ∃ g', tget d'.groups o.gid = some g' ∧
             (o.gather = true →
               g' = { g with gather := g.gather ++ (opLanes o').map (fun l => { slot := o.slot, lane := l, bytes := laneBytes o' l }) }) ∧
             (o.gather = false → g' = { g with v := g'.v, s := g'.s, cnt := g'.cnt } ∧
               (g.place ≠ .evicted → o.stream < 4 → g'.cnt.getD o.stream 0 = g.cnt.getD o.stream 0 - 1) ∧
               (∀ n w, memDest o.word = some (.v n, w) → g'.s = g.s ∧ ∀ r l, l < 64 →
                 poolAt g' r l = vAfter g (.v n) false w (fun l => (opLanes o').contains l)
                   (fun l => BitVec.ofNat 64 (leNat (laneBytes o' l))) r l) ∧
               (∀ n w l, memDest o.word = some (.s n, w) → opLanes o' = [l] → g'.v = g.v ∧
                 ∀ k, readS g' k = if k = n.val then atWidth w (BitVec.ofNat 64 (leNat (laneBytes o' l))) else readS g k)))))

/-- 07 R232, R233, 03 R87, R91: a part of a store that may be applied writes its bytes at its home, and every other byte of every memory
stays; no register changes. Device memory keeps its canonical form. A store to host memory is complete when the adapter accepts it,
behind what it has accepted before; a system-scope release makes all of that visible first (03 R97). 03 R83, 11 R363, 16 R453, R455: a
home that refuses a store changes no memory and no group; the core raises context-fatal reason 0x26 for the lowest lane refused, and the
operation goes no further; a core that has stopped discards the refusal (17 R471). -/
def Obligations.StoresApply : Prop :=
  (∀ (s : State) (id j : Nat) (o : Op) (a : Acc) (t : Target),
     tget s.dev.ops id = some o → partOf o j = some a → a.tgt = some t → storeOpen s.dev id o a = true → o.gather = false →
     let sys := ∃ m d x y w, o.word = .stRel m d x y w ∧ m.k = 6#3
     (∀ m : Dev → Memory, ∀ base : Nat,
       ((∃ nc, t = .dev base nc) ∧ m = (fun d => d.mem)) ∨
       (∃ v, t = .remote v base ∧ selfDev s.dev v = true ∧ regBits s.dev (offPnet o.part) 32 16 ≠ 0 ∧
         inPart s.dev o.part base = true ∧ m = (fun d => d.mem)) ∨
       (∃ v, t = .remote v base ∧ selfDev s.dev v = false ∧ peerOk s.dev o.part v base = true ∧ m = (fun d => tgetD d.peers v [])) ∨
       (∃ i, t = .spad i base ∧ (tget s.dev.teams i).isSome = true ∧ m = (fun d => ((tget d.teams i).map (fun u => u.spad)).getD [])) →
     ∃ d' : Dev, exec (.storeApplied id j) s = .next { s with dev := d' } ∧
       (∀ x, (∀ q ∈ a.data, x ≠ base + q.1) → readByte (m d') x = readByte (m s.dev) x) ∧
       ((a.data.map (fun q => q.1)).Nodup → ∀ q ∈ a.data, readByte (m d') (base + q.1) = q.2) ∧
       (Memory.wf (m s.dev) = true → Memory.wf (m d') = true) ∧
       ((∀ nc x, t ≠ .dev x nc) → (∀ v x, t = .remote v x → selfDev s.dev v = false) → d'.mem = s.dev.mem) ∧
       (¬ sys → d'.host = s.dev.host ∧ d'.accepted = s.dev.accepted) ∧
       ((∀ v x, t ≠ .remote v x) → d'.peers = s.dev.peers) ∧ (∀ v, (∀ x, t ≠ .remote v x) → tgetD d'.peers v [] = tgetD s.dev.peers v []) ∧
       (∀ i, (∀ x, t ≠ .spad i x) → tget d'.teams i = tget s.dev.teams i) ∧
       (∀ x, x ≠ o.gid → tget d'.groups x = tget s.dev.groups x) ∧
       (∀ g, tget s.dev.groups o.gid = some g → ∃ g', tget d'.groups o.gid = some g' ∧ g' = { g with cnt := g'.cnt })) ∧
     (∀ pa base, t = .host pa → hostAddr s.dev o.part pa = some base →
       ∃ d' : Dev, exec (.storeApplied id j) s = .next { s with dev := d' } ∧
         d'.mem = s.dev.mem ∧ d'.peers = s.dev.peers ∧ d'.teams = s.dev.teams ∧
         (¬ sys → d'.host = s.dev.host ∧ d'.accepted = s.dev.accepted ++ [(base, a.data)]) ∧
         (sys → d'.host = s.dev.accepted.foldl (fun m x => writeCells m x.1 x.2) s.dev.host ∧ d'.accepted = [(base, a.data)]) ∧
         (∀ x, x ≠ o.gid → tget d'.groups x = tget s.dev.groups x) ∧
         (∀ g, tget s.dev.groups o.gid = some g → ∃ g', tget d'.groups o.gid = some g' ∧ g' = { g with cnt := g'.cnt }))) ∧
  (∀ (s : State) (id j : Nat) (o : Op) (a : Acc) (t : Target),
     tget s.dev.ops id = some o → partOf o j = some a → a.tgt = some t → storeOpen s.dev id o a = true →
     o.slot < 3 → o.slot ≤ id → (∀ q ∈ packetOps s.dev id o, q.1 ≠ id → q.2.accs.any (refused s.dev q.2) = false) →
     refused s.dev o a = true → (∀ b ∈ o.accs, refused s.dev o b = true → a.lane ≤ b.lane ∧ ∀ u ∈ accTargets b, portLost s.dev u = none) →
     ∃ d' : Dev, exec (.storeApplied id j) s = .next { s with dev := d' } ∧ d' = { s.dev with
         events := if unitRuns s.dev o.part (unitCore o.core) = false then s.dev.events else tput s.dev.events o.part (tgetD s.dev.events o.part [] ++
           [{ held := false, unit := unitCore o.core, kind := 3, cause := 1
              detail := BitVec.ofNat 64 (o.rslot * 2 ^ 48 + 0x26 * 2 ^ 40 + a.lane * 2 ^ 34 + o.slot * 2 ^ 32 + o.pcx.toNat)
              cyc := s.dev.cyc, grp := some (o.core, o.grp) }])
         ops := d'.ops } ∧
       ∃ o', tget d'.ops id = some o' ∧ o' = { o with wait := true, accs := o'.accs })

/-- 07 R235 to R237: the value a read-modify-write leaves at its location, in whole numbers: atom computes as the two-source integer form of
the same name, swap stores x, cas stores the new value where the old one equals the compare value, and nothing elsewhere; fatom add
rounds the exact sum once, and its min and max are those of 04 R123; xadd.s and xadd.d add x exactly to the extended value of the
record, set NAN, PINF, NINF and OV, and keep its reserved bytes (04 R135 to R138); vbt writes its sample where it wins, and nothing
elsewhere. 07 R235, 03 R104: a read-modify-write of device memory, a scratchpad, another device or (cas) the host reads its location,
writes the new value there and nothing else, and returns the old one; where its form writes nothing (a cas that differs, a vbt that
loses), all memory stays. At the host it comes after all that the adapter has accepted, and its write is there when it is complete (03
R91). A record in two pages (03 R105) is read and written in both. A vbt to a tile that is not open writes nothing and counts in the
tile's LATE (10 R350). -/
def Obligations.ReadModifyWritesApply : Prop :=
  (∀ (old : List Byte) (x : LaneIn) (wide : Bool),
     let n := wideBytes wide
     let w := widthOf wide
     let f := if wide then FC.fp64 else .fp32
     old.length = n →
     let v := x.a.toNat % 2 ^ w
     (∀ op : AtomOp, rmwNew (.atom op wide) old x = some (leBytes ((match op with
         | .add => IntOp.add | .min => IntOp.min | .max => IntOp.max | .minu => IntOp.minu | .maxu => IntOp.maxu
         | .and => IntOp.and | .or => IntOp.or | .xor => IntOp.xor).value w (leNat old) v) n)) ∧
     rmwNew (.swap wide) old x = some (leBytes v n) ∧
     (leNat old = v → rmwNew (.cas wide) old x = some (leBytes x.d.toNat n)) ∧
     (leNat old ≠ v → rmwNew (.cas wide) old x = none) ∧
     rmwNew (.fatom .add wide) old x = some (leBytes (rnd (xAdd .rne (unpack f (leNat old)) (unpack f v)).1 f .rne 0).1 n) ∧
     rmwNew (.fatom .min wide) old x = some (leBytes (fminmax f false (leNat old) v).1 n) ∧
     rmwNew (.fatom .max wide) old x = some (leBytes (fminmax f true (leNat old) v).1 n)) ∧
  (∀ (old : List Byte) (x : LaneIn) (dbl : Bool),
     let form := if dbl then RmwForm.xaddD else .xaddS
     let vb := if dbl then 2240 else 384
     let one := if dbl then 1088 else 160
     let at_ := fun (bs : List Byte) (o n : Nat) => leNat ((bs.drop o).take n)
     let g := fun (bs : List Byte) => at_ bs 0 (vb / 8) + at_ bs (vb / 8 + 4) 4 * 2 ^ vb
     let fw := fun (bs : List Byte) (i : Nat) => bit (at_ bs (vb / 8) 4) i
     let a := if dbl then unpack .fp64 x.a.toNat else unpack .fp32 (x.a.toNat % 2 ^ 32)
     old.length = rmwLen form →
     ∃ new, rmwNew form old x = some new ∧ new.length = rmwLen form ∧
       (∀ n e, a = .fin n 1 e → (g new : Int) = ((g old : Int) + n * 2 ^ (e + one).toNat) % 2 ^ (vb + 32)) ∧
       (a.isFin = false ∨ a.isZero = true → g new = g old) ∧
       fw new 0 = (fw old 0 || a.isNan) ∧ fw new 1 = (fw old 1 || decide (a = .inf false)) ∧ fw new 2 = (fw old 2 || decide (a = .inf true)) ∧
       fw new 3 = !(decide (g new < 2 ^ (vb - 1)) || decide (2 ^ (vb + 32) - 2 ^ (vb - 1) ≤ g new)) ∧
       (∀ i, 4 ≤ i → i < 32 → fw new i = fw old i) ∧ new.drop (vb / 8 + 8) = old.drop (vb / 8 + 8)) ∧
  (∀ (old : List Byte) (x : LaneIn),
     let o := leNat old
     let n := x.d.toNat
     let depth := fun (y : Nat) => unpack .fp32 (bits y 64 32)
     let key := fun (y : Nat) => (bits y 0 64 * 2 ^ 32 + bits y 96 32) * 2 ^ 32 + bits y 64 32
     let wins := rmwNew .vbt old x = some (leBytes n 16)
     let loses := rmwNew .vbt old x = none
     (n % 16 ≠ 1 → n % 16 ≠ 2 → loses) ∧
     (n % 16 = 1 ∨ n % 16 = 2 →
       ((depth n).isNan = true → loses) ∧
       ((depth n).isNan = false → (depth o).isNan = true → wins) ∧
       ((depth n).isNan = false → (depth o).isNan = false →
         (xLt (depth o) (depth n) = true → wins) ∧ (xLt (depth n) (depth o) = true → loses) ∧
         (xLt (depth o) (depth n) = false → xLt (depth n) (depth o) = false →
           (key o < key n → wins) ∧ (key n ≤ key o → loses))))) ∧
  (∀ (s : State) (id j : Nat) (o : Op) (a : Acc) (f : RmwForm) (t : Target),
     tget s.dev.ops id = some o → partOf o j = some a → rmwForm o.word = some f → rmwOpen s.dev id o a = true → a.tgt = some t → o.gather = false →
     let d := s.dev
     let n := rmwLen f
     let x := laneIn o a.lane
     let sets := fun (m m' : Memory) (base : Nat) (bs : List Byte) =>
       (∀ y, y < base ∨ base + bs.length ≤ y → readByte m' y = readByte m y) ∧ ∀ k, k < bs.length → readByte m' (base + k) = bs.getD k 0#8
     let returns := fun (d' : Dev) (old : List Byte) =>
       let o' : Op := { o with accs := lset o.accs j { a with got := old, done := true } }
       let ends := o'.accs.all (fun b => b.done) = true ∧ slotBehind d id o = false ∧ unitRuns d o.part (unitCore o.core) = true
       (∀ y, y ≠ o.gid → tget d'.groups y = tget d.groups y) ∧ (¬ ends → d'.groups = d.groups) ∧
       (ends → ∀ g, tget d.groups o.gid = some g →
         ∃ g', tget d'.groups o.gid = some g' ∧ g' = { g with v := g'.v, s := g'.s, cnt := g'.cnt } ∧
           (memDest o.word = none → g'.v = g.v ∧ g'.s = g.s) ∧
           ∀ r w, memDest o.word = some (.v r, w) → g'.s = g.s ∧ ∀ q l, l < 64 →
             poolAt g' q l = vAfter g (.v r) false w (fun l => (opLanes o').contains l)
               (fun l => BitVec.ofNat 64 (leNat (laneBytes o' l))) q l)
     (∀ (m : Dev → Memory) (base : Nat), a.tgt2 = none → (f = .vbt → lateTile d t = none) →
       ((∃ nc, t = .dev base nc) ∧ m = (fun d => d.mem)) ∨
       (∃ v, t = .remote v base ∧ selfDev d v = true ∧ regBits d (offPnet o.part) 32 16 ≠ 0 ∧ inPart d o.part base = true ∧ m = (fun d => d.mem)) ∨
       (∃ v, t = .remote v base ∧ selfDev d v = false ∧ peerOk d o.part v base = true ∧ m = (fun d => tgetD d.peers v [])) ∨
       (∃ i, t = .spad i base ∧ (tget d.teams i).isSome = true ∧ m = (fun d => ((tget d.teams i).map (fun u => u.spad)).getD [])) →
       let old := readBytes (m d) base n
       ∃ d' : Dev, exec (.rmwApplied id j) s = .next { s with dev := d' } ∧ returns d' old ∧
         (rmwNew f old x = none → m d' = m d) ∧ (∀ bs, rmwNew f old x = some bs → bs.length = n → sets (m d) (m d') base bs) ∧
         (Memory.wf (m d) = true → Memory.wf (m d') = true) ∧ d'.host = d.host ∧ d'.accepted = d.accepted ∧
         ((∀ nc y, t ≠ .dev y nc) → (∀ v y, t = .remote v y → selfDev d v = false) → d'.mem = d.mem) ∧
         ((∀ v y, t ≠ .remote v y) → d'.peers = d.peers) ∧ (∀ v, (∀ y, t ≠ .remote v y) → tgetD d'.peers v [] = tgetD d.peers v []) ∧
         (∀ i, (∀ y, t ≠ .spad i y) → tget d'.teams i = tget d.teams i)) ∧
     (∀ pa base, a.tgt2 = none → t = .host pa → hostAddr d o.part pa = some base →
       let landed := d.accepted.foldl (fun m y => writeCells m y.1 y.2) d.host
       let old := readBytes landed base n
       ∃ d' : Dev, exec (.rmwApplied id j) s = .next { s with dev := d' } ∧ returns d' old ∧ d'.accepted = [] ∧
         (rmwNew f old x = none → d'.host = landed) ∧ (∀ bs, rmwNew f old x = some bs → bs.length = n → sets landed d'.host base bs) ∧
         d'.mem = d.mem ∧ d'.peers = d.peers ∧ d'.teams = d.teams) ∧
     (∀ pa nc pb nb n1, a.tgt2 = some (n1, .dev pb nb) → t = .dev pa nc → f ≠ .vbt → n1 ≤ n → pa + n1 ≤ pb ∨ pb + (n - n1) ≤ pa →
       let old := readBytes d.mem pa n1 ++ readBytes d.mem pb (n - n1)
       ∃ d' : Dev, exec (.rmwApplied id j) s = .next { s with dev := d' } ∧ returns d' old ∧ (rmwNew f old x = none → d'.mem = d.mem) ∧
         (∀ bs, rmwNew f old x = some bs → bs.length = n →
           (∀ k, k < n1 → readByte d'.mem (pa + k) = bs.getD k 0#8) ∧ (∀ k, n1 + k < n → readByte d'.mem (pb + k) = bs.getD (n1 + k) 0#8) ∧
           ∀ y, y < pa ∨ pa + n1 ≤ y → y < pb ∨ pb + (n - n1) ≤ y → readByte d'.mem y = readByte d.mem y) ∧
         (Memory.wf d.mem = true → Memory.wf d'.mem = true) ∧ d'.host = d.host ∧ d'.peers = d.peers ∧ d'.teams = d.teams) ∧
     (∀ pa nc key u, a.tgt2 = none → f = .vbt → t = .dev pa nc → lateTile d t = some key → tget d.tiles key = some u →
       ∃ d' : Dev, exec (.rmwApplied id j) s = .next { s with dev := d' } ∧ returns d' (readBytes d.mem pa 16) ∧
         d'.mem = d.mem ∧ d'.teams = d.teams ∧ tget d'.tiles key = some { u with late := u.late + 1 }))

/-! ## The end of a packet (05 R153 to R156, 16 R453) -/

/-- 16 R452, R453: of the faults a packet has found before it commits, the one of the earliest stage, then the lowest slot, lane
and reason is reported; the packet has no other effect, and its group issues nothing more. 05 R156, 15 R433: a packet with a load whose page fails translation, and no context-fatal fault, is cancelled: device memory, the
scratchpads and every group stay as they were, but that its own group holds. 05 R154, 02 R41: a packet with no fault commits, and so
does one whose stores fault, where the side log has room: its group takes the registers, masks and special registers
its words made, FPS gains their flags, the lanes of the packet go to their next indexes, and the boundary work is noted. Every
operation it hands off is in flight, each with its own name, and raises its stream's count by one (03 R94); a lane of a store or
read-modify-write whose page faults has an entry in the core's side log (15 R435). No memory and no operation of another packet
changes. -/
def Obligations.PacketsEnd : Prop :=
  (∀ (d : Dev) (c : Packet) (f : Fatal), worstFatal c.fatal = some f → c.fills.any (badTouch d) = false →
     f ∈ c.fatal ∧ (∀ x ∈ c.fatal, fatalKey f ≤ fatalKey x) ∧
     ∀ g, tget d.groups c.gid = some g →
       closePacket d c = { d with
         groups := tmod d.groups c.gid (fun g => { g with bound := { g.bound with dead := true } })
         events := tput d.events (teamPart d g.tid) (tgetD d.events (teamPart d g.tid) [] ++
           [{ held := false, unit := unitCore g.core, kind := 3, cause := causeOf f.reason
              detail := fdet g.rslot f.reason f.lane f.slot c.pc, cyc := d.cyc, grp := some (g.core, grpid g) }]) }) ∧
  (∀ (d : Dev) (c : Packet), c.fatal = [] → c.xfaults.any (fun x => x.acc == .read) = true → c.fills.any (badTouch d) = false →
     let d' := closePacket d c
     d'.mem = d.mem ∧ d'.teams = d.teams ∧ d'.peers = d.peers ∧
     (∀ x, x ≠ c.gid → tget d'.groups x = tget d.groups x) ∧
     (∀ g, tget d.groups c.gid = some g → tget d'.groups c.gid = some { g with bound := { g.bound with fault := true } })) ∧
  (∀ (d : Dev) (c : Packet), c.fatal = [] → c.xfaults.any (fun x => x.acc == .read) = false → logNeed c ≤ logFree d c.g0.core →
     c.fills.any (badTouch d) = false → (c.ops.map (fun o => o.slot)).Nodup → c.g.cnt.length = 4 →
     (∀ o ∈ c.ops, o.gid = c.gid ∧ o.core = c.g0.core ∧ o.slot < 3 ∧ o.stream < 4 ∧ (isLoad o.word = true → o.accs.any (fun a => !a.done) = true) ∧
       ∀ y l a k, o.word ≠ .prf y l a k) →
     let d' := closePacket d c
     d'.mem = d.mem ∧ d'.teams = d.teams ∧ d'.events = d.events ∧ (c.ops = [] → d'.host = d.host) ∧
     (∀ id, id < d.fresh ∨ d.fresh + 3 ≤ id → tget d'.ops id = tget d.ops id) ∧
     (∀ o ∈ c.ops, ∃ o', tget d'.ops (d.fresh + o.slot) = some o' ∧
       o' = { o with after := o.after.map (fun j => d.fresh + j), accs := o'.accs, rel := o'.rel } ∧
       o'.accs.map (fun a => { a with log := none }) = o.accs.map (fun a => { a with flits := partFlits o a, log := none }) ∧
       (isStore o.word = true ∨ (rmwForm o.word).isSome = true → ∀ x ∈ c.xfaults, x.slot = o.slot →
         ∃ n, tget (tgetD d'.cores o.core default).slog n = some (d.fresh + o.slot, x.lane))) ∧
     ∃ g, tget d'.groups c.gid = some g ∧
       g.v = c.g.v ∧ g.s = c.g.s ∧ g.k = c.g.k ∧ g.tvec = c.g.tvec ∧ g.tframe = c.g.tframe ∧ g.tmcmp = c.g.tmcmp ∧
       g.fpe = c.g.fpe ∧ g.rndkey = c.g.rndkey ∧ g.fps = orFps c.g.fps (flagsOf c.flags) ∧
       (∀ n, n < 4 → g.cnt.getD n 0 = c.g.cnt.getD n 0 + (c.ops.filter (fun o => o.stream == n)).length) ∧
       (∀ l, l < c.g.width → g.lpc.getD l 0#32 = if active c l = true then c.nxt.getD l 0#32 else c.g.lpc.getD l 0#32) ∧
       g.bound.slide = c.slide ∧ g.bound.trap = trapOf c.g0.fpe c.flags c.trap ∧ g.bound.tret = c.tret ∧
       g.bound.svc = c.g.bound.svc ++ c.svc)

/-! ## Traps and the call window (02 R45 to R49, R65, R66; 07 R259; 15 R429 to R432) -/

/-- 15 R429, R430: a user trap that falls due with TVEC.V = 0 is context-fatal 0x30; in a handler, a trap instruction and an xrnd's
trap are context-fatal 0x31 and another enabled exception leaves only its flags. Else the frame is stored at TFRAME, TCAUSE, TMASK and TSLOT describe the trap,
and every lane that no call holds goes to TVEC's index, with the lane PCs saved. 07 R259: the return from a trap reads the frame at TFRAME: v0 to v7 take its words, the lane PCs the values saved at the entry or
written by lpcw, and the trap registers are 0; the other registers, FPS and memory stay. R431: the frame's fields, among them of each stream its count, the number
of the group's side-log entries and the slot of the oldest. -/
def Obligations.TrapsEnterAndReturn : Prop :=
  (∀ (d : Dev) (gid fi : Nat) (g : Group) (t : TrapReq), tget d.groups gid = some g →
     let d' := dueTrap d gid t false fi
     let fatal := fun (x : Dev) (r : Nat) => tgetD x.events (teamPart d g.tid) [] = tgetD d.events (teamPart d g.tid) [] ++
       [{ held := false, unit := unitCore g.core, kind := 3, cause := 3, detail := fdet g.rslot r 0 t.slot g.bound.pcx, cyc := d.cyc
          grp := some (g.core, grpid g) }]
     (g.tvec.getLsbD 32 = false → fatal d' 0x30 ∧ d'.mem = d.mem) ∧
     (g.tvec.getLsbD 32 = true → g.handler.isSome = true → t.cause = 8#8 → fatal d' 0x31 ∧ d'.mem = d.mem) ∧
     (g.tvec.getLsbD 32 = true → g.handler.isSome = true → fatal (dueTrap d gid t true fi) 0x31 ∧ (dueTrap d gid t true fi).mem = d.mem) ∧
     (g.tvec.getLsbD 32 = true → g.handler.isSome = true → t.cause ≠ 8#8 →
       d' = { d with groups := tmod d.groups gid (fun g => { g with bound := { g.bound with trap := none, xtrap := none, timer := false } }) }) ∧
     (g.tvec.getLsbD 32 = true → g.handler = none → ∀ d1,
       unitWriteWhole d (teamPart d g.tid) (.team g.tid) (.update g.core) (g.tframe.toNat % 2 ^ 56 / 64 * 64) (trapFrame d gid g t) fi = .ok d1 →
       d' = { d1 with groups := d'.groups } ∧
       ∃ g', tget d'.groups gid = some g' ∧
         g' = { g with tcause := g'.tcause, tmask := t.mask, tslot := g'.tslot, handler := some { saved := g.lpc, depth := g.depth }
                       lpc := g'.lpc, pcSince := g'.pcSince
                       bound := { g.bound with trap := none, xtrap := none, timer := false, fault := false } } ∧
         g'.tcause.toNat = t.cause.toNat + 2 ^ 16 * t.code.toNat ∧ (t.slot < 4 → g'.tslot.toNat = t.slot + 4 * t.dest.toNat) ∧
         ∀ l, l < g.width → g'.lpc.getD l 0xFFFFFFFF#32 = if mbit g.held l = true then g.lpc.getD l 0xFFFFFFFF#32 else g.tvec.setWidth 32)) ∧
  (∀ (d d1 : Dev) (gid fi : Nat) (g : Group) (h : Handler) (bs : List Byte), tget d.groups gid = some g → g.handler = some h →
     unitRead d (teamPart d g.tid) (.team g.tid) (g.tframe.toNat % 2 ^ 56 / 64 * 64) (64 + 36 * g.width) fi = .ok (bs, d1) → g.width ≤ 64 → 40 ≤ g.pool →
     let d' := returnTrap d gid fi
     d' = { d1 with groups := d'.groups } ∧
     ∃ g', tget d'.groups gid = some g' ∧
       g' = { g with v := g'.v, lpc := h.saved, tcause := 0, tmask := 0, tslot := 0, handler := none, pcSince := g'.pcSince
                     bound := { g.bound with tret := false, fault := false } } ∧
       (∀ j l, j < 8 → l < g.width →
         (readV g' j l).toNat = leNat ((bs.drop (64 + 4 * g.width + 4 * g.width * j + 4 * l)).take 4)) ∧
       (∀ j l, 8 ≤ j → j < 40 → l < 64 → readV g' j l = readV g j l)) ∧
  (∀ (d : Dev) (gid : Nat) (g : Group) (t : TrapReq), g.width ≤ 64 → g.depth ≤ 256 → t.slot < 4 →
     let f := trapFrame d gid g t
     f.length = 64 + 36 * g.width ∧
     at_ f 0 8 = 1 + g.width * 2 ^ 8 + t.cause.toNat * 2 ^ 16 + t.code.toNat * 2 ^ 24 + t.slot * 2 ^ 40 + t.dest.toNat * 2 ^ 42 ∧
     at_ f 8 8 = t.mask.toNat ∧ at_ f 16 8 = g.wb % 2 ^ 16 + g.depth * 2 ^ 16 ∧ at_ f 24 8 = g.fps.toNat % 32 ∧
     (∀ i, i < 4 → at_ f (32 + 8 * i) 1 = g.cnt.getD i 0 % 256) ∧
     (tget d.groups gid = some g → ∀ i, i < 4 → g.cnt.getD i 0 < 64 →
       let xs := (tgetD d.cores g.core default).slog.filter (fun e => match tget d.ops e.2.1 with
         | some o => o.gid == gid && o.stream == i
         | none => false)
       let place := fun (e : Nat × Nat × Nat) =>
         ((tget d.ops e.2.1).bind (fun o => (o.accs.find? (fun a => a.lane == e.2.2)).bind (fun a => a.log.map (fun x => x.2)))).getD 0
       xs.length ≤ 256 → (∀ e ∈ xs, e.1 < 256) →
         ∃ idx, at_ f (32 + 8 * i) 8 = g.cnt.getD i 0 + 2 ^ 8 * xs.length + 2 ^ 24 * idx ∧ (xs = [] → idx = 0) ∧
           (xs ≠ [] → ∃ e ∈ xs, e.1 = idx ∧ ∀ e' ∈ xs, place e ≤ place e')) ∧
     (∀ l, l < g.width → at_ f (64 + 4 * l) 4 = (g.lpc.getD l 0xFFFFFFFF#32).toNat ∧
       ∀ j, j < 8 → at_ f (64 + 4 * g.width + 4 * g.width * j + 4 * l) 4 = (readV g j l).toNat))

/-- 02 R45 to R49: a call with room for its window above it moves the base up by f, notes the return index and the lanes it holds,
and zeroes the registers it adds; the return that follows it moves the base back, sends the live lanes to the return index, and frees the
held lanes. Neither stores anything where no register is spilled. A call that does not fit in the pool first writes the lowest registers to
the spill area, eight at a time, and a return reads them back; the fifth call record goes to the spill area too. 15 R432: a call at depth
256, or a spill beyond the area, is reason 0x70 or 0x71. -/
def Obligations.CallWindow : Prop :=
  (∀ (d : Dev) (gid fi f : Nat) (g : Group) (ret : Word) (held : Mask), tget d.groups gid = some g →
    g.bound.slide = some (.call f ret held) → g.depth < 4 → g.links.length < 4 → g.wb + f + 40 ≤ g.wl + g.pool → g.width ≤ 64 →
    ∃ g', doSlide d gid fi = { d with groups := tmod d.groups gid (fun _ => g') } ∧
      g' = { g with v := g'.v, links := { ret := ret, frame := f, held := held } :: g.links, depth := g.depth + 1, wb := g.wb + f
                    held := g.held ||| held, pcSince := g'.pcSince, bound := { g.bound with slide := none, fault := false } } ∧
      (∀ i l, i < f → l < g.width → poolAt g' ((g.wb + 40 + i) % g.pool) l = 0#32) ∧
      (∀ x l, l < 64 → (∀ i, i < f → x ≠ (g.wb + 40 + i) % g.pool) → poolAt g' x l = poolAt g x l)) ∧
  (∀ (d : Dev) (gid fi : Nat) (g : Group) (r : Link) (t : List Link), tget d.groups gid = some g →
    g.bound.slide = some .ret → g.links = r :: t → g.depth ≤ 4 → g.wl + r.frame ≤ g.wb →
    ∃ g', doSlide d gid fi = { d with groups := tmod d.groups gid (fun _ => g') } ∧
      g' = { g with links := t, depth := g.depth - 1, wb := g.wb - r.frame, lpc := g'.lpc, held := g.held &&& ~~~r.held, pcSince := g'.pcSince
                    bound := { g.bound with slide := none, fault := false } } ∧
      ∀ l, l < g.width → g'.lpc.getD l 0xFFFFFFFF#32 = if liveLane g l = true then r.ret else g.lpc.getD l 0xFFFFFFFF#32) ∧
  (∀ (d : Dev) (gid fi f : Nat) (g : Group) (ret : Word) (held : Mask), tget d.groups gid = some g → g.bound.slide = some (.call f ret held) →
    g.width ≤ 64 → f ≤ 40 → 48 ≤ g.pool → g.wb + 40 ≤ g.wl + g.pool → g.wl ≤ g.wb →
    let n := (g.wb + f + 40 - g.wl - g.pool + 7) / 8
    let base := g.spill.toNat % 2 ^ 56 / 4096 * 4096
    let room := (g.spill.toNat / 2 ^ 56 + 1) * 65536
    let regs := (List.range (8 * n)).flatMap (fun i => (List.range g.width).flatMap (fun l => leBytes (poolAt g ((g.wl + i) % g.pool) l).toNat 4))
    let stores := fun (x : Dev) (a : Nat) (bs : List Byte) => unitWriteWhole x (teamPart d g.tid) (.team g.tid) (.update g.core) a bs fi
    (256 ≤ g.depth → doSlide d gid fi = groupFatal d gid 0x70 0 0 g.bound.pcx) ∧
    (g.depth < 256 → 0 < n → room < 0x1000 + (g.wl + 8 * n) * 4 * g.width → doSlide d gid fi = groupFatal d gid 0x71 0 0 g.bound.pcx) ∧
    (g.depth < 4 → g.links.length < 4 → 0x1000 + (g.wl + 8 * n) * 4 * g.width ≤ room → ∀ d1,
      stores d (base + 0x1000 + g.wl * 4 * g.width) regs = .ok d1 →
      ∃ g', doSlide d gid fi = { d1 with groups := tmod d.groups gid (fun _ => g') } ∧ g'.wl = g.wl + 8 * n ∧ g'.wb = g.wb + f ∧
        (∀ i l, i < f → l < g.width → poolAt g' ((g.wb + 40 + i) % g.pool) l = 0#32) ∧
        (∀ x l, l < 64 → (∀ i, i < f → x ≠ (g.wb + 40 + i) % g.pool) → poolAt g' x l = poolAt g x l)) ∧
    (∀ a b c z, g.links = [a, b, c, z] → 4 ≤ g.depth → g.depth < 256 → n = 0 → ∀ d1,
      stores d (base + 16 * (g.depth - 4)) (leBytes (z.ret.toNat + z.frame * 2 ^ 32) 8 ++ leBytes z.held.toNat 8) = .ok d1 →
      ∃ g', doSlide d gid fi = { d1 with groups := tmod d.groups gid (fun _ => g') } ∧
        g'.links = [{ ret := ret, frame := f, held := held }, a, b, c] ∧ g'.depth = g.depth + 1)) ∧
  (∀ (d d1 : Dev) (gid fi : Nat) (g : Group) (r : Link) (t : List Link) (regs : List Byte), tget d.groups gid = some g →
    g.bound.slide = some .ret → g.links = r :: t → g.depth ≤ 4 → g.width ≤ 64 → 48 ≤ g.pool → r.frame ≤ g.wb →
    let n := (g.wl - (g.wb - r.frame) + 7) / 8
    8 * n ≤ g.wl → 8 * n ≤ g.pool →
    unitRead d (teamPart d g.tid) (.team g.tid) (g.spill.toNat % 2 ^ 56 / 4096 * 4096 + 0x1000 + (g.wl - 8 * n) * 4 * g.width) (8 * n * 4 * g.width) fi =
      .ok (regs, d1) →
    ∃ g', doSlide d gid fi = { d1 with groups := tmod d.groups gid (fun _ => g') } ∧ g'.wl = g.wl - 8 * n ∧ g'.wb = g.wb - r.frame ∧
      (∀ i l, i < 8 * n → l < g.width → (poolAt g' ((g.wl - 8 * n + i) % g.pool) l).toNat = at_ regs (4 * g.width * i + 4 * l) 4) ∧
      (∀ x l, l < 64 → (∀ i, i < 8 * n → x ≠ (g.wl - 8 * n + i) % g.pool) → poolAt g' x l = poolAt g x l))

/-! ## Events of groups and teams (02 R37, R47, R51 to R53, R66; 07 R258; 09 R320; 15 R433 to R450) -/

/-- The events of a group, where their conditions hold: an implicit return leaves the return of 02 R47 due; a timer trap clears TMCMP.EN, stores
its frame and enters the handler with cause 9 for the live lanes; a parking group writes its phase record and gives up its registers; a
group is re-created from a record of its format and width, with the carried registers and the lane PCs it holds and every other register
0, and dies with reason 0x2D, at the slot of its pbar (16 R454), from another; a service record is written once the host sees all that was
stored before it (07 R258), and SVCPTR.TAIL and the MSI-X vector follow. The phase record is
laid out as 02 R52 says. -/
def Obligations.GroupEvents : Prop :=
  let vectors := fun (carry : DWord) => (List.range 40).filter (fun n => carry.getLsbD n)
  let uniforms := fun (carry : DWord) => (List.range 16).filter (fun n => carry.getLsbD (40 + n))
  (∀ (g : Group) (carry : DWord), g.width ≤ 64 → (vectors carry).length ≤ 8 → (uniforms carry).length ≤ 4 →
    let r := phaseRecord g carry
    let k := carry.toNat / 2 ^ 56 % 8
    r.length = 96 + 36 * g.width ∧
    at_ r 0 8 = 1 + g.width * 2 ^ 8 + (vectors carry).length * 2 ^ 16 + (uniforms carry).length * 2 ^ 20 + (if k = 0 then 0 else 2 ^ 23) ∧
    (∀ j, j < 4 → at_ r (8 + 8 * j) 8 = (((uniforms carry)[j]?).map (fun n => (readS g n).toNat)).getD 0) ∧
    at_ r 40 8 = (if k = 0 then 0 else (readK g k).toNat) ∧ at_ r 48 8 = g.gcyc.toNat ∧ at_ r 56 8 = g.fps.toNat % 32 + g.fpe.toNat % 32 * 2 ^ 8 ∧
    at_ r 64 8 = g.tvec.toNat ∧ at_ r 72 8 = g.tmcmp.toNat ∧ at_ r 80 8 = g.rndkey.toNat ∧ at_ r 88 8 = g.tframe.toNat ∧
    ∀ l, l < g.width → at_ r (96 + 32 * g.width + 4 * l) 4 = (g.lpc.getD l 0xFFFFFFFF#32).toNat ∧
      ∀ j, j < 8 → at_ r (96 + 32 * l + 4 * j) 4 = (((vectors carry)[j]?).map (fun n => (readV g n l).toNat)).getD 0) ∧
  ∀ (s : State) (gid : Nat) (g : Group), tget s.dev.groups gid = some g → g.bound.dead = false →
    let d := s.dev
    let p := teamPart d g.tid
    let sets := fun (i : Instr) (d1 : Dev) (f : Group → Group) => Becomes s i { d1 with groups := tmod d1.groups gid f }
    (onCore g = true → g.bound.slide = none → g.bound.tret = false → coreRuns d p g.core = true → minPc g = none → 0 < g.depth →
      sets (.implicitReturn gid) d (fun g => { g with bound := { g.bound with slide := some .ret } })) ∧
    (g.bound.timer = true → onCore g = true → g.bound.slide = none → implicitDue g = false → boundTrap g = none → xrndOpen d gid = false →
      groupWaits d gid = false → halted d p = false → g.tvec.getLsbD 32 = true → ∀ d1,
      unitWriteWhole (modGroup d gid disarm) p (.team g.tid) (.update g.core) (frameAddr g)
        (trapFrame (modGroup d gid disarm) gid (disarm g) (timerReq (disarm g))) s.tick = .ok d1 →
      ∃ g', Becomes s (.timerTrap gid) { d1 with groups := tmod d1.groups gid (fun _ => g') } ∧
        g'.tmcmp = g.tmcmp &&& 0x7FFFFFFFFFFFFFFF#64 ∧ g'.tcause = 9 ∧ g'.tmask = liveSet g ∧ g'.tslot = 0 ∧
        g'.handler = some { saved := g.lpc, depth := g.depth }) ∧
    (∀ k, g.place = .parking → countsZero g = true → coreRuns d p g.core = true → teamTask d g.tid = some k →
      sets (.groupPark gid)
        { d with teams := tmod d.teams g.tid (fun t => { t with spad := writeBytes t.spad (k.phoff + g.gintm * phaseBytes k) (phaseRecord g k.carry) }) }
        (fun g => { g with place := .parked, v := [], s := [], k := [] })) ∧
    (∀ t k, g.place = .parked → parkOver d g = true → slotFree d g = true → coreRuns d p g.core = true →
      tget d.teams g.tid = some t → recreateOn d g.tid = true → teamTask d g.tid = some k →
      let bs := readBytes t.spad (k.phoff + g.gintm * phaseBytes k) (phaseBytes k)
      (at_ bs 0 1 = 1 → bits (at_ bs 0 8) 8 7 = g.width →
        ∃ g', Becomes s (.groupRecreate gid) (markCounts { d with groups := tput d.groups gid g' } g.tid) ∧
          g'.place = .resident ∧ g'.width = g.width ∧ g'.pool = g.pool ∧ g'.depth = 0 ∧ g'.wb = 0 ∧ g'.wl = 0 ∧ g'.cnt = [0, 0, 0, 0] ∧
          g'.gcyc = BitVec.ofNat 64 (at_ bs 48 8) ∧ g'.fps.toNat = at_ bs 56 8 % 32 ∧ g'.fpe.toNat = at_ bs 56 8 / 2 ^ 8 % 32 ∧
          g'.tvec.toNat = at_ bs 64 8 % 2 ^ 33 ∧ g'.rndkey = BitVec.ofNat 64 (at_ bs 80 8) ∧
          (∀ j n, (uniforms k.carry)[j]? = some n → readS g' n = BitVec.ofNat 64 (at_ bs (8 + 8 * j) 8)) ∧
          (∀ n, n ∉ uniforms k.carry → readS g' n = 0) ∧
          (∀ n, 0 < n → n < 8 → (readK g' n).toNat = if n = k.carry.toNat / 2 ^ 56 % 8 then at_ bs 40 8 % 2 ^ g.width else 0) ∧
          (g.width ≤ 64 → 40 ≤ g.pool →
            (∀ j n l, (vectors k.carry)[j]? = some n → l < g.width → readV g' n l = BitVec.ofNat 32 (at_ bs (96 + 32 * l + 4 * j) 4)) ∧
            (∀ n l, n < 40 → l < 64 → n ∉ vectors k.carry → readV g' n l = 0)) ∧
          ∀ l, l < g.width → g'.lpc.getD l 0#32 = BitVec.ofNat 32 (at_ bs (96 + 32 * g.width + 4 * l) 4)) ∧
      (¬ (at_ bs 0 1 = 1 ∧ bits (at_ bs 0 8) 8 7 = g.width) → Becomes s (.groupRecreate gid) (groupFatal d gid 0x2D 0 g.bound.parkSlot g.bound.pcx))) ∧
    (∀ code rest, g.bound.svc = code :: rest → g.bound.svcSlot = none → countsZero g = true → coreRuns d p g.core = true →
      g.place = .resident ∨ g.place = .evicting →
      let tail := regBits d (offSvcptr p) 16 8
      (tail + 1) % 256 ≠ regBits d (offSvcptr p) 0 8 → releaseOpen d = true →
      ∃ d', Becomes s (.svcRecordWrite gid) d' ∧ d'.accepted = [] ∧ d'.host = d.accepted.foldl (fun m x => writeCells m x.1 x.2) d.host ∧
        d'.bar2 = writeBytes d.bar2 (0x200000 * p + 0x100000 + 64 * tail) (leBytes (code.toNat + 2 ^ 16) 8 ++ leBytes (teamid d g).toNat 8 ++
          leBytes (grpid g).toNat 8 ++ leBytes (readS g 1).toNat 8 ++ leBytes (readS g 2).toNat 8 ++ leBytes (readS g 3).toNat 8 ++ leBytes 0 16) ∧
        regBits d' (offSvcptr p) 16 8 = (tail + 1) % 256 ∧ tgetD d'.msix (2 * p) 0 = tgetD d.msix (2 * p) 0 + 1 ∧
        d'.groups = tmod d.groups gid (fun g => { g with bound := { g.bound with svcSlot := some tail } }) ∧ d'.mem = d.mem)

/-- 15 R430 to R434, R437 to R440, 16 R452: a group whose fetch fails translation waits on the page, and is dead where the fetch or stage D
finds a context-fatal fault, of a packet that its port chooses and that waits for nothing more (05 R180, 09 R332); a group that waits on nothing more issues again at once; a side-log entry whose page is mapped goes to
memory with its translation; the walks of one instruction are served together, a walk that succeeds ends its report, one that meets a failing word does not complete (14
R403, log 69), and a refused unit
and one whose record is retired walk again. A report joins an unretired record of its page, or writes one in host memory, after all that the adapter has accepted, which holds it
while the link carries none (14 R424); or it is refused and counted, and its delay doubles. -/
def Obligations.HeldGroupsAndReports : Prop :=
  (∀ (s : State) (gid : Nat) (g : Group) (pc : Word), tget s.dev.groups gid = some g → minPc g = some pc →
    baseReady s.dev gid g = true → yieldOver s.dev g s.tick = true →
    (∀ va lvl e, fetchPacket s.dev g pc s.tick = .fault va lvl e →
      ∃ d', Becomes s (.instructionFetchFault gid) d' ∧ d'.mem = s.dev.mem ∧ groupWaits d' gid = true ∧
        d'.groups = tmod s.dev.groups gid (fun g => { g with bound := { g.bound with fault := true } })) ∧
    (∀ reason, fetchPacket s.dev g pc s.tick = .bad reason → Becomes s (.instructionFetchFault gid) (groupFatal s.dev gid reason 0 0 pc)) ∧
    (∀ ws fills ic slot reason, fetchPacket s.dev g pc s.tick = .words ws fills ic → stageD g ws = some (slot, reason) →
      packetReady s.dev gid g pc (slotsOf ws) = true → portChoice s.dev g.core (g.rslot % 2) s.tick = some gid →
      Becomes s (.illegalEncoding gid) (groupFatal s.dev gid reason 0 slot pc))) ∧
  (∀ (s : State) (gid : Nat) (g : Group), tget s.dev.groups gid = some g → reissueReady s.dev gid g = true →
    exec (.packetReissue gid) s = .next { s with
      agenda := s.agenda ++ [.group gid]
      dev := { s.dev with groups := tmod s.dev.groups gid (fun g => { g with bound := { g.bound with fault := false } }) } }) ∧
  (∀ (s : State) (core slot id lane : Nat) (o : Op), tget (tgetD s.dev.cores core default).slog slot = some (id, lane) →
    tget s.dev.ops id = some o → o.wait = false → waiting s.dev (.logged id lane) = false → logParts o lane ≠ [] →
    logBehind s.dev core id lane o = false → unitRuns s.dev o.part (unitCore core) = true →
    ∀ ts fills, laneXl s.dev o.part o.tid s.tick (BitVec.ofNat 64 (((logParts o lane).head?.map (fun a => a.va)).getD 0)) 1 (logAcc o.word)
        (match rmwForm o.word with
          | some (.cas _) => true
          | _ => false) (logVas o (logParts o lane)) = (.ok ts, fills) → fills.any (badTouch s.dev) = false →
      Becomes s (.sideLogReplay core slot) (replayTo (tlbTouchAll s.dev fills) id lane (logParts o lane) ts)) ∧
  (∀ (s : State) (oct : Nat) (w : Waiter), walkerRuns s.dev oct = true → walkPick s.dev oct = some w →
    Becomes s (.walkSchedule oct) ((walkBatch s.dev oct w).foldl walkReport s.dev) ∧
    (walkBatch s.dev oct w).length ≤ 32 ∧
    (∀ id ∈ walkBatch s.dev oct w, ∃ r, (id, r) ∈ s.dev.reports ∧ r.oct = oct ∧ r.st = .walk ∧ w ∈ r.who.map instOf) ∧
    (∀ id r v, (id, r) ∈ s.dev.reports → r.oct = oct → r.st = .walk → v ∈ r.who.map instOf →
      (walksOf s.dev oct w).length ≤ (walksOf s.dev oct v).length)) ∧
  (∀ (d : Dev) (id : Nat) (r : Report), tget d.reports id = some r →
    let fails := (walkTouches d r.part r.oct r.va).any (badTouch d)
    (fails = false → (∀ e lvl, walk d r.part r.va ≠ .bad e lvl) → (walkReport d id).reports = tdel d.reports id) ∧
    (fails = true → walkReport d id = d)) ∧
  (∀ (s : State) (id till delay : Nat) (r : Report), tget s.dev.reports id = some r → r.st = .backoff till delay → till ≤ s.dev.cyc →
    unitRuns s.dev r.part r.unit = true →
    Becomes s (.reportBackoffExpiry id) (walkReport { s.dev with reports := tput s.dev.reports id { r with delay := delay } } id)) ∧
  (∀ (s : State) (oct : Nat) (v : BitVec 11), s.dev.pow.on = true → oct < 8 →
    ∃ d1, Becomes s (.fltqHheadWrite oct v) (if walkerRuns d1 oct = true then walkAll d1 oct 64 else d1) ∧
      d1 = { s.dev with reg := d1.reg, reports := d1.reports } ∧ regBits d1 (offFltq oct + 8) 0 11 = v.toNat ∧
      (∀ id r n, tget s.dev.reports id = some r → r.st = .record oct n →
        retires (regBits s.dev (offFltq oct + 8) 0 11) v.toNat n = true → tget d1.reports id = some { r with st := .walk })) ∧
  (∀ (d : Dev) (r : Report), r.oct < 8 →
    let q := offFltq r.oct + 8
    let n := regBits d q 16 11
    let room := regBits d q 48 1 = 1 ∧ (n + 2048 - regBits d q 0 11) % 2048 ≠ 1024
    let x := reportPass d r
    (∀ m, recordOf d r.part r.oct r.page = some m → x = (d, { r with st := .record r.oct m })) ∧
    (recordOf d r.part r.oct r.page = none → room →
      let at_ := regBits d (offFltq r.oct) 15 49 * 32768 + 32 * (n % 1024)
      let bs := leBytes r.va 8 ++
        leBytes (r.part + (match r.acc with
          | .read => 0 | .write => 1 | .atomic => 2 | .fetch => 3) * 2 ^ 3 + r.lvl * 2 ^ 5 + r.src * 2 ^ 8 + r.unit * 2 ^ 16) 8 ++
        leBytes r.entry.toNat 8 ++ leBytes d.cyc 8
      x.2 = { r with st := .record r.oct n } ∧
      x.1 = { d with host := x.1.host, accepted := x.1.accepted, net := x.1.net, reg := x.1.reg, msix := x.1.msix } ∧
      (hostOpen d = true → x.1.accepted = [] ∧ x.1.host = writeBytes (d.accepted.foldl (fun m y => writeCells m y.1 y.2) d.host) at_ bs) ∧
      (hostOpen d = false → x.1.host = d.host ∧ x.1.accepted = d.accepted ++ [(at_, cellsOf bs)]) ∧
      regBits x.1 q 16 11 = (n + 1) % 2048 ∧ tgetD x.1.msix (17 + r.oct) 0 = tgetD d.msix (17 + r.oct) 0 + 1) ∧
    (recordOf d r.part r.oct r.page = none → ¬ room →
      x.2 = { r with st := .backoff (d.cyc + r.delay) (lesser (2 * r.delay) 65536) } ∧ x.1 = { d with reg := x.1.reg } ∧
      regBits x.1 q 32 16 = lesser (regBits d q 32 16 + 1) 0xFFFF))

/-- 09 R320, 15 R444 to R450, 02 R37: a team that ends gives up its rings, barriers and accumulator memory; a chosen group's image goes to the save
area, laid out as 15 R447 says, and its counts to the eviction table, and it comes back with what its image holds; a marked team that is quiet is written out with its
scratchpad and accumulator memory, before any of its groups is re-created, and comes back with them, where no word of the image has failed
(14 R403, log 69). The model's choices: a group image that cannot be saved is context-fatal 0x23 and its link records stand most recent
first (log 24), so is a team image, after which the team is no longer marked (log 24), and a team marked before its phase is over is
swapped before any of its groups is re-created (log 61). -/
def Obligations.LeavingAndReturning : Prop :=
  (∀ (s : State) (tid : Nat) (t : Team), tget s.dev.teams tid = some t → teamEnds s.dev tid t = true →
    ∃ d1, Becomes s (.teamRetire tid) (completeGrids d1 t.part s.tick) ∧ d1.mem = s.dev.mem ∧ d1.groups = s.dev.groups ∧
      d1.teams = tmod s.dev.teams tid (fun t => { t with st := .retired, am := [], rings := [], bars := [] }) ∧
      d1.grids = tmod s.dev.grids t.grid (fun g => { g with live := g.live - 1 })) ∧
  (∀ (s : State) (gid : Nat) (g : Group), tget s.dev.groups gid = some g → evictReady s.dev gid g = true → saveOk s.dev (teamPart s.dev g.tid) = true →
    ∃ d', Becomes s (.groupEvict gid) d' ∧ d'.mem = writeBytes s.dev.mem (imageAt s.dev (teamPart s.dev g.tid) g) (groupImage g) ∧
      d'.groups = tmod s.dev.groups gid (fun g => { g with place := .evicted }) ∧
      tget (tgetD d'.cores g.core default).evict gid = some g.cnt) ∧
  (∀ g : Group, g.width ≤ 64 → g.pool ≤ 256 → g.depth ≤ 256 → (∀ h, g.handler = some h → h.depth ≤ 256) → (∀ r ∈ g.links, r.frame ≤ 40) →
    let f := groupImage g
    at_ f 0 8 = 2 + g.width * 2 ^ 8 + g.pool * 2 ^ 16 ∧ at_ f 8 8 = g.wb % 2 ^ 16 + g.depth * 2 ^ 16 + g.wl % 2 ^ 16 * 2 ^ 32 ∧
    at_ f 16 8 = g.fps.toNat % 32 + g.fpe.toNat % 32 * 2 ^ 8 ∧ at_ f 24 8 = g.tvec.toNat ∧ at_ f 32 8 = g.tframe.toNat ∧ at_ f 40 8 = g.tmcmp.toNat ∧
    at_ f 48 8 = g.gcyc.toNat ∧ at_ f 56 8 = g.rndkey.toNat ∧ at_ f 64 8 = g.held.toNat ∧
    at_ f 72 8 = (g.handler.map (fun h => 1 + h.depth * 2)).getD 0 ∧
    at_ f 80 8 = g.tcause.toNat ∧ at_ f 88 8 = g.tmask.toNat ∧ at_ f 96 8 = g.tslot.toNat ∧
    (∀ n, n < 16 → at_ f (128 + 8 * n) 8 = (readS g n).toNat) ∧ (∀ n, n < 7 → at_ f (256 + 8 * n) 8 = (readK g (n + 1)).toNat) ∧
    (∀ i r, i < 4 → g.links[i]? = some r → at_ f (320 + 16 * i) 8 = r.ret.toNat + r.frame * 2 ^ 32 ∧ at_ f (328 + 16 * i) 8 = r.held.toNat) ∧
    (∀ l, l < g.width → at_ f (512 + 4 * l) 4 = (g.lpc.getD l 0#32).toNat) ∧
    (∀ h l, g.handler = some h → l < g.width → at_ f (if l < 32 then 384 + 4 * l else 768 + 4 * (l - 32)) 4 = (h.saved.getD l 0#32).toNat) ∧
    (∀ a l, a < g.pool → l < g.width → at_ f (1024 + 4 * g.width * a + 4 * l) 4 = (poolAt g a l).toNat)) ∧
  (∀ (s : State) (gid : Nat) (g : Group), tget s.dev.groups gid = some g → evictReady s.dev gid g = true → saveOk s.dev (teamPart s.dev g.tid) = false →
    Becomes s (.groupEvict gid) (groupFatal s.dev gid 0x23 0 0 g.bound.pcx)) ∧
  (∀ (s : State) (gid : Nat) (g : Group), tget s.dev.groups gid = some g → g.place = .evicted →
    firstLeft s.dev (teamPart s.dev g.tid) gid g.core = true → slotFree s.dev g = true →
    (residents s.dev g.core).any (fun x => x.rslot == g.rslot) = false → coreRuns s.dev (teamPart s.dev g.tid) g.core = true →
    badRun s.dev (imageAt s.dev (teamPart s.dev g.tid) g) (1024 + 4 * g.width * g.pool) = false →
    let bs := readBytes s.dev.mem (imageAt s.dev (teamPart s.dev g.tid) g) (1024 + 4 * g.width * g.pool)
    ∃ d' g', Becomes s (.groupReturn gid) d' ∧ d'.mem = s.dev.mem ∧ tget d'.groups gid = some g' ∧ g'.place = .resident ∧ g'.rslot = g.rslot ∧
      g'.cnt = tgetD (tgetD s.dev.cores g.core default).evict gid g.cnt ∧ g'.gcyc = BitVec.ofNat 64 (at_ bs 48 8) ∧
      g'.tvec = BitVec.ofNat 64 (at_ bs 24 8 % 2 ^ 33) ∧ g'.depth = bits (at_ bs 8 8) 16 9 ∧
      (∀ l, l < g.width → g'.lpc.getD l 0#32 = BitVec.ofNat 32 (at_ bs (512 + 4 * l) 4)) ∧
      (∀ n, n < 16 → readS g' n = BitVec.ofNat 64 (at_ bs (128 + 8 * n) 8)) ∧
      (∀ a l, a < g.pool → l < g.width → g.width ≤ 64 → poolAt g' a l = BitVec.ofNat 32 (at_ bs (1024 + 4 * g.width * a + 4 * l) 4))) ∧
  (∀ (s : State) (tid : Nat) (t : Team), tget s.dev.teams tid = some t → t.st = .marked → teamQuiet s.dev tid t = true → phaseParked s.dev t = true →
    coreRuns s.dev t.part t.core = true →
    (saveOk s.dev t.part = true → ∃ d', Becomes s (.teamSwap tid) d' ∧
      (twf s.dev.mem = true → twf t.spad = true → twf t.am = true → (taskOf s.dev t).spq ≤ 128 → (taskOf s.dev t).amq ≤ 64 →
        let k := taskOf s.dev t
        let a := teamImageAt s.dev t
        at_ (readBytes d'.mem a 16) 0 8 = 3 + k.spq * 2 ^ 8 + k.amq * 2 ^ 16 ∧
        at_ (readBytes d'.mem a 16) 8 8 = (t.slot * 2 ^ 56 + t.core * 2 ^ 48 + t.tidx) % 2 ^ 64 ∧
        (∀ x, 16 ≤ x → x < 0x1000 → readByte d'.mem (a + x) = 0#8) ∧
        (∀ x, x < k.spq * 4096 → readByte d'.mem (a + 0x1000 + x) = readByte t.spad x) ∧
        (∀ x, x < k.amq * 16384 → readByte d'.mem (a + 0x81000 + x) = readByte t.am x) ∧
        (∀ x, x < a ∨ a + 0x1000 + k.spq * 4096 ≤ x → x < a + 0x81000 ∨ a + 0x81000 + k.amq * 16384 ≤ x →
          readByte d'.mem x = readByte s.dev.mem x)) ∧
      d'.teams = tmod s.dev.teams tid (fun t => { t with st := .swapped, spad := [], am := [] }) ∧ d'.groups = s.dev.groups) ∧
    (saveOk s.dev t.part = false → ∃ d', Becomes s (.teamSwap tid) d' ∧ d'.mem = s.dev.mem ∧
      d'.teams = tmod s.dev.teams tid (fun t => { t with st := .live }) ∧ d'.groups = s.dev.groups)) ∧
  (∀ (s : State) (gid : Nat) (g : Group) (t : Team), tget s.dev.groups gid = some g → tget s.dev.teams g.tid = some t →
    swapFirst s.dev t = true → Becomes s (.groupRecreate gid) s.dev) ∧
  (∀ (s : State) (tid : Nat) (t : Team), tget s.dev.teams tid = some t → t.st = .swapped → firstLeft s.dev t.part tid t.core = true →
    teamRoom s.dev t = true → coreRuns s.dev t.part t.core = true →
    badRun s.dev (teamImageAt s.dev t) 0x1000 = false → badRun s.dev (teamImageAt s.dev t + 0x1000) (allotSpad (taskOf s.dev t)) = false →
    badRun s.dev (teamImageAt s.dev t + 0x81000) (allotAm (taskOf s.dev t)) = false →
    ∃ d' t', Becomes s (.teamReturn tid) d' ∧ d'.mem = s.dev.mem ∧ d'.groups = s.dev.groups ∧ tget d'.teams tid = some t' ∧
      t' = { t with st := .live, spad := t'.spad, am := t'.am } ∧
      (twf s.dev.mem = true → ∀ x, x < allotSpad (taskOf s.dev t) →
        readByte t'.spad x = readByte s.dev.mem (teamImageAt s.dev t + 0x1000 + x)) ∧
      (twf s.dev.mem = true → ∀ x, x < allotAm (taskOf s.dev t) →
        readByte t'.am x = readByte s.dev.mem (teamImageAt s.dev t + 0x81000 + x)))

/-! ## Rings, feeders, drains and notices (07 R241 to R255, 09 R317 to R319, 17 R467 to R470) -/

/-- 07 R241, R244: a racq that waits obtains slot rix once it is FREE: the slot is RESERVED, rix moves on, the handle is the slot's address
in the local window, and the word is complete; an rpop obtains slot qix once it is COMMITTED, with its EOS and ERR in the handle. 07 R248, R250: a barrier completes when CNT = ARR and PEND = 0: PH inverts and CNT is 0; an arrival raises CNT by one and is
refused where it would exceed ARR, a feeder's too (09 R318); landed bytes lower PEND and expected bytes raise it. -/
def Obligations.RingsAndBarriers : Prop :=
  (∀ (s : State) (id : Nat) (o : Op) (t : Team) (r : Ring) (g : Group) (m : MHdr) (dst : Fin 16) (n : BitVec 6),
     tget s.dev.ops id = some o → o.wait = false → opReady s.dev o = true → o.gather = false → slotBehind s.dev id o = false →
     tget s.dev.teams o.tid = some t → tget t.rings n.toNat = some r →
     tget s.dev.groups o.gid = some g → g.place = .resident →
     (o.word = .racq m (.s dst) n → r.rix < r.slots.length → slotSt r r.rix = .free → outranked s.dev id o isRacq = false →
       ∃ d' r' g', Becomes s (.racqGrant id) d' ∧ tget d'.ops id = none ∧ d'.mem = s.dev.mem ∧ tget d'.groups o.gid = some g' ∧
         ringOf d' o.tid n.toNat = some r' ∧ r'.rix = (r.rix + 1) % r.cfg.nslot ∧ slotSt r' r.rix = .reserved ∧ r'.qix = r.qix ∧
         (∀ i, i ≠ r.rix → slotSt r' i = slotSt r i) ∧ readS g' dst.val = BitVec.ofNat 64 (0x00FFFF0000000000 + r.cfg.soff + r.rix * r.cfg.ssz) ∧
         g' = { g with s := g'.s, cnt := g'.cnt }) ∧
     (o.word = .rpop m (.s dst) n → r.qix < r.slots.length → slotSt r r.qix = .committed → outranked s.dev id o isRpop = false →
       let x := r.slots.getD r.qix default
       ∃ d' r' g', Becomes s (.rpopGrant id) d' ∧ tget d'.ops id = none ∧ d'.mem = s.dev.mem ∧ tget d'.groups o.gid = some g' ∧
         ringOf d' o.tid n.toNat = some r' ∧ r'.qix = (r.qix + 1) % r.cfg.nslot ∧ slotSt r' r.qix = .popped ∧ r'.rix = r.rix ∧
         (∀ i, i ≠ r.qix → slotSt r' i = slotSt r i) ∧
         readS g' dst.val = BitVec.ofNat 64 (0x00FFFF0000000000 + r.cfg.soff + r.qix * r.cfg.ssz + (if x.err then 2 else 0) + (if x.eos then 1 else 0)) ∧
         g' = { g with s := g'.s, cnt := g'.cnt })) ∧
  (∀ (b : Bar) (gid n : Nat) (x : DWord),
     (b.cnt = b.arr → b.pend = 0 → (barCheck b).ph = !b.ph ∧ (barCheck b).cnt = 0 ∧ (barCheck b).recs = [] ∧ (barCheck b).arr = b.arr) ∧
     (¬ (b.cnt = b.arr ∧ b.pend = 0) → barCheck b = b) ∧
     (b.arr ≤ b.cnt → barArrive b gid = none) ∧
     (b.cnt < b.arr → ∃ c, barArrive b gid = some c ∧
       (b.cnt + 1 = b.arr → b.pend = 0 → c.ph = (!b.ph) ∧ c.cnt = 0) ∧
       (¬ (b.cnt + 1 = b.arr ∧ b.pend = 0) → c.ph = b.ph ∧ c.cnt = b.cnt + 1 ∧ c.recs = b.recs ++ [gid])) ∧
     (b.arr ≤ b.cnt → barFeed b = none) ∧
     (b.cnt < b.arr → ∃ c, barFeed b = some c ∧ (b.cnt + 1 = b.arr → b.pend = 0 → c.ph = (!b.ph) ∧ c.cnt = 0 ∧ c.fed = false) ∧
       (¬ (b.cnt + 1 = b.arr ∧ b.pend = 0) → c.ph = b.ph ∧ c.cnt = b.cnt + 1 ∧ c.recs = b.recs ∧ c.fed = true)) ∧
     (b.cnt ≠ b.arr → (barLand b n).pend = b.pend - BitVec.ofNat 64 n ∧ (barExpect b x).pend = b.pend + x))

/-- 09 R317 to R319: a feeder fills the slot it holds with the next bytes of its pattern, zeros after them, and commits it; after the last it
commits one slot with EOS, and does nothing once no group of its team is left (17 R467); a drain writes its slot's bytes at the pattern's addresses and releases it, and only releases a slot with
EOS or ERR. -/
def Obligations.FeedersAndDrains : Prop :=
  ∀ (s : State) (tid n : Nat) (t : Team) (r : Ring), tget s.dev.teams tid = some t → ringOf s.dev tid n = some r →
    feedReady s.dev tid n t r = true →
    let unit := fun (d : Dev) => stepped d (unitFeed t.core)
    let fillTo := fun (t : Team) (a : Nat) (bs : List Byte) (room : Nat) =>
      { t with spad := writeBytes (writeBytes t.spad a bs) (a + bs.length) (List.replicate (room - bs.length) 0#8) }
    let left := fun (done : Nat) => lesser (patLen r.cfg - done) r.cfg.ssz
    (t.gids.any (fun i => (tget s.dev.groups i).isSome) = false → Becomes s (.feederSlotCommit tid n) s.dev) ∧
    (r.cfg.prod = 0 → t.gids.any (fun i => (tget s.dev.groups i).isSome) = true → ∀ i r1, fillSlot r = some (i, r1) →
      (r.fed < patLen r.cfg → ∀ bs d1,
        unitReadList t.part (.team tid) s.tick (patAddrs r.cfg t.tidx (r.fed + r1.taken) (left r.fed - r1.taken)) s.dev = (bs, d1, none) →
        Becomes s (.feederSlotCommit tid n) (unit (feederLand (modRing (modTeam d1 tid (fun t => fillTo t (r.cfg.soff + i * r.cfg.ssz + r1.taken) bs (r.cfg.ssz - r1.taken))) tid n
          (fun _ => { ringCommit r1 i false false none with fed := r.fed + left r.fed, taken := 0 })) tid r.cfg (left r.fed)))) ∧
      (patLen r.cfg ≤ r.fed → r.cfg.feos = true → r.feosDone = false →
        Becomes s (.feederSlotCommit tid n) (unit (modRing s.dev tid n (fun _ => { ringCommit r1 i true false none with feosDone := true }))))) ∧
    (r.cfg.cons = 1 → ∀ i r1, drainPick r = some (i, r1) →
      let x := r1.slots.getD i default
      ((x.eos || x.err) = true → Becomes s (.drainSlot tid n) (unit (drainEnd (modRing s.dev tid n (fun _ => ringRelease r1 i)) x))) ∧
      ((x.eos || x.err) = false → ∀ d1 k,
        unitWriteList t.part (.team tid) (.remove t.core) s.tick ((patAddrs r.cfg t.tidx (r.drained + r1.taken) (left r.drained - r1.taken)).zip
          (readBytes t.spad (r.cfg.soff + i * r.cfg.ssz + r1.taken) (left r.drained - r1.taken))) s.dev 0 = (d1, k, none) →
        Becomes s (.drainSlot tid n) (unit (drainEnd (modRing d1 tid n
          (fun _ => { ringRelease r1 i with drained := r.drained + left r.drained, taken := 0 })) x))))

/-- 07 R253 to R255, 17 R469, R470: a notice's block is read and checked before any delivery; it then joins the queue of each receiver's ring; one
whose receiver is gone is acknowledged and counted in NTCLOST; a notice of 0 bytes is acknowledged as it is pulled, and a longer one is
read into a slot; an acknowledgement lands its bytes in the sender's barrier. The model's choices: a notice is two flits of its
partition's request channel (log 68), and the receiving feeder translates SADDR for its own team (log 23). -/
def Obligations.NoticeEvents : Prop :=
  (∀ (s : State) (id cl : Nat) (o : Op) (t : Team), ntcOpen s.dev id = some (o, t) → o.prog = 0 →
    Becomes s (.noticeDeliver id cl) (readBlock s.dev id o t s.tick)) ∧
  (∀ (s : State) (id cl i rtid : Nat) (o : Op) (t u : Team) (r : Ring), ntcOpen s.dev id = some (o, t) → o.prog ≠ 0 →
    ntcBit o (blockOf o) cl = some i → receiver s.dev t cl (blkMemb (blockOf o)) = .team rtid u →
    tget u.rings (blkRing (blockOf o)) = some r → r.cfg.prod = 2 → r.notices.length < 16 →
    Becomes s (.noticeDeliver id cl) (ntcTaken (netAdd (modRing s.dev rtid (blkRing (blockOf o)) (fun r => { r with notices := r.notices ++
      [{ saddr := BitVec.ofNat 64 (blockOf o).saddr, len := (blockOf o).len, pulled := 0, part := o.part, tid := o.tid, bar := o.d.toNat, op := id,
         fdet := fdet o.rslot 0 0 o.slot o.pcx }] })) (coreLeaf o.core) o.part 2) id i (blockOf o))) ∧
  (∀ (s : State) (id cl i : Nat) (o : Op) (t : Team), ntcOpen s.dev id = some (o, t) → o.prog ≠ 0 →
    ntcBit o (blockOf o) cl = some i → receiver s.dev t cl (blkMemb (blockOf o)) = .gone →
    ∃ d1, Becomes s (.noticeLost id cl) (ntcTaken d1 id i (blockOf o)) ∧
      d1 = { s.dev with reg := d1.reg, acks := d1.acks, fresh := d1.fresh } ∧
      tget d1.acks s.dev.fresh = some (o.part, o.tid, o.d.toNat, (blockOf o).len) ∧
      regBits d1 (offNtclost o.part) 48 16 = (if regBits s.dev (offNtclost o.part) 48 16 < 0xFFFF then regBits s.dev (offNtclost o.part) 48 16 + 1 else 0xFFFF)) ∧
  (∀ (s : State) (tid n : Nat) (t : Team) (r : Ring) (x : Notice) (rest : List Notice), tget s.dev.teams tid = some t → ringOf s.dev tid n = some r →
    r.notices = x :: rest → feedReady s.dev tid n t r = true →
    (x.len = 0 → Becomes s (.noticePull tid n)
      (sendAck (modRing s.dev tid n (fun r => { r with notices := r.notices.drop 1 })) x.part x.tid x.bar 0)) ∧
    (x.len ≠ 0 → ∀ i r1, fillSlot r = some (i, r1) →
      Becomes s (.noticePull tid n) (stepped (pullSlot s.dev tid n t r1 x i s.tick) (unitFeed t.core)))) ∧
  (∀ (s : State) (ack p tid bar len : Nat), tget s.dev.acks ack = some (p, tid, bar, len) →
    Becomes s (.noticeAck ack) (modBar { s.dev with acks := tdel s.dev.acks ack } tid bar (fun b => barCheck { b with pend := b.pend - BitVec.ofNat 64 len })))

/-! ## Caches, other devices and engine commands (03 R83 to R88, R99; 08; 11 R370 to R374; 17 R472 to R474) -/

/-- 03 R86, R88, 11 R363, R370: a core's line may go at any moment and a superblock's dirty lines are written back, with no byte of any
memory changed; a request of another device is performed where its scope is that of the octant's partition, and refused elsewhere. -/
def Obligations.CachesAndOtherDevices : Prop :=
  ∀ s : State,
    (∀ core line, ∃ d', Becomes s (.dcacheLineEvict core line) d' ∧ d' = { s.dev with cores := d'.cores } ∧
      tget (tgetD d'.cores core default).dc line = none ∧
      ∀ k, k ≠ line → tget (tgetD d'.cores core default).dc k = tget (tgetD s.dev.cores core default).dc k) ∧
    (∀ sb, evictable s.dev sb = true → Becomes s (.llcSuperblockEvict sb) { s.dev with llc := tdel s.dev.llc sb }) ∧
    (∀ r : RemoteReq, regBits s.dev offDomid 10 1 = 1 → (List.range 18).all (fun k => linkDown s.dev (unitPort k) || linkBusy s.dev (unitPort k)) = false →
      remoteHeld s.dev r = false →
      (remoteAllowed s.dev r = false → ∃ d', Becomes s (.remoteAccess r) d' ∧ d' = { s.dev with net := d'.net, reply := none }) ∧
      (remoteAllowed s.dev r = true →
        (∀ n, r.act = .read n → ∃ d', Becomes s (.remoteAccess r) d' ∧ d' = { s.dev with llc := d'.llc, victims := d'.victims, net := d'.net, reply := d'.reply } ∧
          d'.reply = some (readBytes s.dev.mem r.pa n)) ∧
        (∀ bs, r.act = .write bs → ∃ d', Becomes s (.remoteAccess r) d' ∧ d'.mem = writeBytes s.dev.mem r.pa bs ∧ d'.reply = some [] ∧
          d' = { s.dev with mem := d'.mem, llc := d'.llc, victims := d'.victims, rels := d'.rels, cx := d'.cx, net := d'.net, reply := d'.reply }) ∧
        (∀ f x y, r.act = .rmw f x y → (f = .vbt → lateTile s.dev (.dev r.pa false) = none) →
          let n1 := (r.cross.map (fun c => c.1)).getD (rmwLen f)
          let old := readBytes s.dev.mem r.pa n1 ++ (r.cross.map (fun c => readBytes s.dev.mem c.2 (rmwLen f - c.1))).getD []
          ∃ d', Becomes s (.remoteAccess r) d' ∧ d'.reply = some old ∧
          (rmwNew f old (remoteIn x y) = none → d'.mem = s.dev.mem) ∧
          (∀ bs, rmwNew f old (remoteIn x y) = some bs →
            d'.mem = match r.cross with
              | none => writeCells s.dev.mem r.pa (cellsOf (bs.take n1))
              | some c => writeCells (writeCells s.dev.mem r.pa (cellsOf (bs.take n1))) c.2 (cellsOf (bs.drop n1)))) ∧
        (∀ x y key, r.act = .rmw .vbt x y → lateTile s.dev (.dev r.pa false) = some key → ∃ d', Becomes s (.remoteAccess r) d' ∧
          d'.mem = s.dev.mem ∧ d'.tiles = tmod s.dev.tiles key (fun t => { t with late := t.late + 1 }))))

/-- 08 R283 to R285: a command on accumulator memory whose offsets are aligned and inside the allotment completes: acld returns each lane's 4 bytes,
acst stores them in ascending lane order, aczr zeroes its bytes and no others, xacc adds each lane's value exactly into its
record, xrnd returns each record's value rounded once, an FP64 one in a pair or an s register, and ORs the flags into FPS (04 R139); a
destination of zero keeps every register. A bad offset is context-fatal 0x22, at the lowest lane that has one (aczr at lane 0), and
changes no accumulator and no register. -/
def Obligations.AccumulatorCommands : Prop :=
  ∀ (s : State) (id : Nat) (o : Op) (t : Team) (g : Group), tget s.dev.ops id = some o → engineOpen s.dev id o = true → o.gather = false →
    tget s.dev.teams o.tid = some t → tget s.dev.groups o.gid = some g → g.place ≠ .evicted → o.outs = [] → o.fin = 0 → o.lanes.length ≤ 64 →
    (∀ x ∈ o.lanes, x.lane < 64) → (o.lanes.map (fun x => x.lane)).Nodup →
    let off := fun (x : LaneIn) => x.a.toNat % 2 ^ 32
    let ok := fun (x : LaneIn) => off x % amLen o.word == 0 && decide (off x + amLen o.word ≤ amSize s.dev o.tid)
    let fine := o.lanes.all ok
    let ends := fun (d' : Dev) (v' : Group → Group) (am : Memory) => Becomes s (.engineCommandComplete id) d' ∧ tget d'.ops id = none ∧
      tget d'.groups o.gid = some { v' g with cnt := cntMod g.cnt o.stream (· - 1) } ∧ d'.mem = s.dev.mem ∧
      d'.teams = tmod s.dev.teams o.tid (fun t => { t with am := am })
    let fails := fun (lane : Nat) => ∃ d', Becomes s (.engineCommandComplete id) d' ∧ d'.teams = s.dev.teams ∧ d'.groups = s.dev.groups ∧
      d'.mem = s.dev.mem ∧ tget d'.ops id = some { o with wait := true } ∧
      tgetD d'.events o.part [] = tgetD s.dev.events o.part [] ++ [{ held := false, unit := unitMx o.core, kind := 3, cause := 1, detail := BitVec.ofNat 64 (o.rslot * 2 ^ 48 + 0x22 * 2 ^ 40 + lane * 2 ^ 34 + o.slot * 2 ^ 32 + o.pcx.toNat), cyc := s.dev.cyc, grp := some (o.core, o.grp) }]
    let keeps := fun (g' : Group) (rs : List Nat) => 40 ≤ g.pool → ∀ r l, r < 40 → l < 64 → r ∉ rs ∨ (∀ x ∈ o.lanes, x.lane ≠ l) →
      readV g' r l = readV g r l
    (∀ m dst a, o.word = .acld m dst a → fine = true →
      ∃ d' g', ends d' (fun _ => g') t.am ∧ (dst = .zero → g' = g) ∧
        ∀ n, dst = .v n → g' = { g with v := g'.v } ∧ keeps g' [n.val] ∧ ∀ x ∈ o.lanes, (readV g' n.val x.lane).toNat = readNat t.am (off x) 4) ∧
    (∀ m d a, o.word = .acst m d a → fine = true → ∃ d', ends d' (fun g => g)
      (o.lanes.foldl (fun am x => writeBytes am (off x) (leBytes x.d.toNat 4)) t.am)) ∧
    (∀ m d a, o.word = .xaccE32 m d a → fine = true → ∃ d', ends d' (fun g => g) (o.lanes.foldl (fun am x =>
      writeBytes am (off x) (exaAdd exa32 (readBytes am (off x) 64) (unpack .fp32 (x.d.toNat % 2 ^ 32)))) t.am)) ∧
    (∀ m d a, o.word = .xaccE64 m d a → fine = true → ∃ d', ends d' (fun g => g) (o.lanes.foldl (fun am x =>
      writeBytes am (off x) (exaAdd exa64 (readBytes am (off x) 288) (unpack .fp64 (x.d.toNat % 2 ^ 64)))) t.am)) ∧
    (∀ m fd dst a, (o.word = .xrndE32 m fd dst a ∧ fd ≠ .d ∨ o.word = .xrndE64 m fd dst a) → fine = true →
      let dbl := amLen o.word == 288
      let wide := fd == .d
      let fmt : FC := match fd with
        | .h => .fp16 | .bf => .bf16 | .s => .fp32 | .d => .fp64
      let vb := if dbl then 2240 else 384
      let rounded := fun (r : List Byte) =>
        let flag := fun (i : Nat) => bit (at_ r (vb / 8) 4) i
        let u := at_ r 0 (vb / 8) + at_ r (vb / 8 + 4) 4 * 2 ^ vb
        let v : Int := if 2 ^ (vb + 31) ≤ u then (u : Int) - 2 ^ (vb + 32) else u
        if flag 0 = true then (nanPat fmt, 0#5) else if (flag 1 && flag 2) = true then (nanPat fmt, 1#5)
        else if flag 1 = true then rnd (.inf false) fmt .rne 0 else if flag 2 = true then rnd (.inf true) fmt .rne 0
        else if flag 3 = true then (nanPat fmt, 1#5) else rnd (mkFin v 1 (if dbl then -1088 else -160) false) fmt .rne 0
      let out := fun (x : LaneIn) => rounded (readBytes t.am (off x) (amLen o.word))
      ∃ d' g', ends d' (fun _ => g') t.am ∧
        g' = { g with v := g'.v, s := g'.s, fps := g'.fps, bound := { g.bound with xtrap := g'.bound.xtrap } } ∧
        (dst = .zero → g'.v = g.v ∧ g'.s = g.s) ∧
        (∀ n, dst = .v n → g.pool ≠ 1 → (wide = true → n.val < 39) → g'.s = g.s ∧ keeps g' (if wide then [n.val, n.val + 1] else [n.val]) ∧ ∀ x ∈ o.lanes,
          readV g' n.val x.lane = BitVec.ofNat 32 (out x).1 ∧ (wide = true → readV g' (n.val + 1) x.lane = BitVec.ofNat 32 ((out x).1 / 2 ^ 32))) ∧
        (∀ n x, dst = .s n → x ∈ o.lanes → (∀ y ∈ o.lanes, off y = off x) → g'.v = g.v ∧
          ∀ k, readS g' k = if k = n.val then atWidth wide (BitVec.ofNat 64 (out x).1) else readS g k) ∧
        (∀ i, i < 5 → g'.fps.getLsbD i = (g.fps.getLsbD i || o.lanes.any (fun x => (out x).2.getLsbD i))) ∧
        (∀ i, 5 ≤ i → g'.fps.getLsbD i = g.fps.getLsbD i)) ∧
    (∀ m d a, o.word = .aczr m d a →
      let lo := o.a.toNat
      let n := o.d.toNat
      (n = 0 → ∃ d', ends d' (fun g => g) t.am) ∧
      (n ≠ 0 → lo % 64 = 0 → n % 64 = 0 → lo + n ≤ amSize s.dev o.tid →
        ∃ d' am, ends d' (fun g => g) am ∧ (twf t.am = true → ∀ x, readByte am x = if lo ≤ x ∧ x < lo + n then 0#8 else readByte t.am x)) ∧
      (n ≠ 0 → lo % 64 ≠ 0 ∨ n % 64 ≠ 0 ∨ amSize s.dev o.tid < lo + n → fails 0)) ∧
    (amLen o.word ≠ 0 → ∀ x before after, o.lanes = before ++ x :: after → before.all ok = true → ok x = false → fails x.lane)

/-- 03 R99, 08 R268 to R270, R286, R300, R301, R303, R304, R309, 15 R441, 16 R454: a command its unit may take up. A descriptor outside
its limits is context-fatal 0x2A at the lowest lane. A trace, vmarch, attr, tex or slg runs its lanes' scripts (what those are: RayQueries,
MarchesAndSamples); with the last lane's result, every lane's registers take their values, no other register changes, and the command
completes; a check that fails is the lane's fault and writes no register; a page makes the lane wait; a bound reached leaves the command
to be gone on with. What a script answers depends on the bytes read alone. xmov copies a run of bytes. ovq lists its matches. rbin
writes and commits a lane's reserved record. dsc: a lookup finds its key READY or PENDING, takes the lowest EMPTY way, or the READY way
published earliest, or waits; a publish makes the owner's way READY and answers every lane that waits for it; a drop empties a READY
way; else 0x60, and 0x61 for a reserved operation; the result is status, index and address. -/
def Obligations.EngineCommands : Prop :=
  (∀ (s : State) (id : Nat) (o : Op) (t : Team) (g : Group), tget s.dev.ops id = some o → engineOpen s.dev id o = true → o.gather = false →
    tget s.dev.teams o.tid = some t → tget s.dev.groups o.gid = some g → g.place ≠ .evicted →
    (∀ x ∈ o.lanes, x.lane < 64) → (o.lanes.map (fun x => x.lane)).Nodup →
    let fatal := fun (reason lane : Nat) => ∃ d', Becomes s (.engineCommandComplete id) d' ∧ d'.groups = s.dev.groups ∧ d'.mem = s.dev.mem ∧
      (tget d'.ops id).map (fun q => q.wait) = some true ∧
      tgetD d'.events o.part [] = tgetD s.dev.events o.part [] ++ [{ held := false, unit := engineUnit o.core o.word, kind := 3, cause := causeOf reason, detail := fdet o.rslot reason lane o.slot o.pcx, cyc := s.dev.cyc, grp := some (o.core, o.grp) }]
    let ends := fun (d' : Dev) (g' : Group) => Becomes s (.engineCommandComplete id) d' ∧ tget d'.ops id = none ∧ tget d'.groups o.gid = some g' ∧
      g' = { g with v := g'.v, cnt := cntMod g.cnt o.stream (· - 1) }
    let takes := fun (g' : Group) (n : Nat) (out : LaneIn → List (Nat × Nat)) =>
      40 ≤ g.pool → (∀ y ∈ o.lanes, ∀ r ∈ out y, n + r.1 < 40) → ∀ l k, l < 64 → k < 40 →
        readV g' k l = match (o.lanes.find? (fun y => y.lane == l)).bind (fun y => (out y).reverse.find? (fun r => n + r.1 == k)) with
          | some r => BitVec.ofNat 32 r.2
          | none => readV g k l
    -- descriptors
    (∀ (n : Nat) (bs : List Byte) (d1 : Dev), o.blk = none → unitRead s.dev o.part (.team o.tid) o.a.toNat n s.tick = .ok (bs, d1) →
      let rsv := fun (lo hi : Nat) => ∃ i, lo ≤ i ∧ i < hi ∧ bs.getD i 0#8 ≠ 0#8
      let side := fun (x : Nat) => x = 0 ∨ 16384 < x
      let cells := fun (x : Nat) => x = 0 ∨ 4096 < x
      (((∃ m a b, o.word = .trace m a b ∨ o.word = .ovq m a b) ∨ ∃ m a, o.word = .refit m a) ∧ n = 64 ∧
        (at_ bs 0 8 % 256 ≠ 0 ∨ at_ bs 8 8 % 16 ≠ 0 ∨ 8 ≤ at_ bs 20 4 ∨ at_ bs 24 8 % 8 ≠ 0 ∨ rsv 36 64)) ∨
      ((∃ m a b, o.word = .vmarch m a b) ∧ n = 128 ∧
        (cells (at_ bs 16 2) ∨ cells (at_ bs 18 2) ∨ cells (at_ bs 20 2) ∨ 4 ≤ at_ bs 22 2 ∨ 4 ≤ at_ bs 28 4 ∨ (2 ≤ at_ bs 28 4 ∧ at_ bs 80 8 % 4 ≠ 0) ∨ rsv 96 128)) ∨
      ((∃ m a b, o.word = .attr m a b) ∧ n = 32 ∧ rsv 20 32) ∨
      ((∃ m a b, o.word = .tex m a b) ∧ n = 32 ∧
        (at_ bs 0 8 % 256 ≠ 0 ∨ side (at_ bs 8 2) ∨ side (at_ bs 10 2) ∨ at_ bs 12 1 % 16 = 0 ∨ at_ bs 12 1 / 16 % 4 = 3 ∨ at_ bs 12 1 / 64 = 3 ∨ 2 ≤ at_ bs 13 3 ∨
          rsv 16 32)) ∨
      ((∃ m a b, o.word = .dsc m a b) ∧ n = 32 ∧ o.applied = false ∧ (∃ x ∈ o.lanes, x.a ≠ 1) ∧
        (at_ bs 0 8 % 16 ≠ 0 ∨ (∀ k, k ≤ 20 → at_ bs 8 4 ≠ 2 ^ k) ∨ at_ bs 12 4 % 16 ≠ 0 ∨ at_ bs 12 4 = 0 ∨ 4096 < at_ bs 12 4 ∨ rsv 24 32)) →
      fatal 0x2A (if groupOnce o.word = true then 0 else lowLane o.act)) ∧
    -- lane by lane
    (∀ (n : Fin 40) (x : LaneIn) (f : LaneIn → Script (List (Nat × Nat))) (bs : List Byte) (d0 : Dev), x ∈ o.lanes → tget o.outs x.lane = none →
      tget o.logs x.lane = none → waiting s.dev (.lane id x.lane) = false → (∀ y ∈ o.lanes, y.lane ≠ x.lane → (tget o.outs y.lane).isSome = true) →
      ((o.blk = some bs ∧ d0 = s.dev ∧
        ((∃ m a, o.word = .trace m (.v n) a ∧ f = traceLane (parseTu bs) (walkFuel o) s.tick) ∨
         (∃ m a, o.word = .vmarch m (.v n) a ∧ f = marchLane (parseMedium bs) (walkFuel o)) ∨
         (∃ m a, o.word = .attr m (.v n) a ∧ f = attrLane bs) ∨ (∃ m a, o.word = .tex m (.v n) a ∧ f = texLane (parseTex bs)))) ∨
       (∃ m a gal y, o.word = .slg m (.v n) a ∧ g.galley = some gal ∧ (galley s.dev o.part gal).bad = false ∧ waiting s.dev (.galley o.part gal) = false ∧
         galDesc s.dev o.part gal s.tick = .ok (y, d0) ∧ f = slgLane g y)) →
      let r := runScript o.part (.team o.tid) (.remove o.core) s.tick (f x) [] allAccesses d0
      (∀ regs, r.out = .ok (some regs) → ∃ d' g', ends d' g' ∧ d'.mem = s.dev.mem ∧
        takes g' n.val (fun y => if y.lane = x.lane then regs else tgetD o.outs y.lane [])) ∧
      (r.out = .ok none → ∃ d', Becomes s (.engineCommandComplete id) d' ∧ d'.groups = s.dev.groups ∧ d'.mem = s.dev.mem ∧ (tget d'.ops id).isSome = true) ∧
      (∀ reason va, r.out = .error (.prot reason va) → fatal reason x.lane) ∧
      (∀ va lvl e acc, r.out = .error (.xl va lvl e acc) → ∃ d', Becomes s (.engineCommandComplete id) d' ∧ d'.groups = s.dev.groups ∧ d'.mem = s.dev.mem ∧
        (tget d'.ops id).isSome = true ∧ waiting d' (.lane id x.lane) = true)) ∧
    -- ovq's lists, one lane's matches at its offset
    (∀ (m : MHdr) (n : Fin 40) (a : Operand) (bs : List Byte) (x : LaneIn) (tot wr : Nat) (xs : List (Nat × Nat)), o.word = .ovq m (.v n) a → o.blk = some bs →
      o.lanes = [x] → tget o.outs x.lane = some ((0, tot) :: (1, wr) :: xs) →
      let off := (x.run.getD 7 0#32).toNat
      (xs = [] ∨ off + 8 * xs.length ≤ spadSize s.dev t → ∃ d' g', ends d' g' ∧ d'.mem = s.dev.mem ∧ takes g' n.val (fun _ => [(0, tot), (1, wr)]) ∧
        d'.teams = tmod s.dev.teams o.tid (fun t => { t with spad := writeBytes t.spad off (xs.flatMap (fun y => leBytes y.2 8)) })) ∧
      (xs ≠ [] → spadSize s.dev t < off + 8 * xs.length → fatal 0x21 x.lane)) ∧
    -- xmov
    (∀ (m : MHdr) (d a : Operand), o.prog = 0 →
      let len := o.d.toNat / 2 ^ 32 % 2 ^ 21
      let off := o.d.toNat % 2 ^ 20
      o.a.toNat < 2 ^ 56 → o.a.toNat % 32 = 0 → off % 32 = 0 → len % 32 = 0 → off + len ≤ amSize s.dev o.tid →
      (o.word = .xmovSt m d a → ∀ d1 k, unitWrite s.dev o.part (.team o.tid) (.remove o.core) o.a.toNat (readBytes t.am off len) s.tick = (d1, k, none) →
        ∃ d', Becomes s (.engineCommandComplete id) d' ∧ tget d'.ops id = none ∧ d'.mem = d1.mem ∧ d'.accepted = d1.accepted ∧ d'.peers = d1.peers ∧
          d'.teams = d1.teams) ∧
      (o.word = .xmovLd m d a → ∀ bs d1, unitReadList o.part (.team o.tid) s.tick ((List.range len).map (fun i => o.a.toNat + i)) s.dev = (bs, d1, none) →
        ∃ d', Becomes s (.engineCommandComplete id) d' ∧ tget d'.ops id = none ∧ d'.mem = s.dev.mem ∧
          d'.teams = tmod s.dev.teams o.tid (fun t => { t with am := writeBytes t.am off bs }))) ∧
    -- rbin: the record that a lane holds
    (∀ (m : MHdr) (x : LaneIn) (before after : List LaneIn) (i gal mat : Nat) (y : GalDesc) (d1 d2 : Dev) (a b : Operand), o.word = .rbin m a b →
      o.lanes = before ++ x :: after → (∀ z ∈ before, o.fin.getLsbD z.lane = true) → o.fin.getLsbD x.lane = false →
      tget o.outs x.lane = some [(0, i), (1, gal), (2, mat)] → galDesc s.dev o.part gal s.tick = .ok (y, d1) →
      let w := fun k => (x.run.getD k 0#32).toNat
      let record := leBytes (w 3 + w 4 * 2 ^ 32) 8 ++ leBytes (w 0) 4 ++ leBytes (w 1) 4 ++ leBytes (w 2) 4 ++ leBytes (w 5) 4 ++ leBytes (mat + 65536) 4 ++
        leBytes (x.lane + o.d.toNat % 2 ^ 26 * 64) 4
      writeRec d1 o.part (.team o.tid) (.remove o.core) y i record ((List.range 8).flatMap (fun j => leBytes (w (6 + j)) 4)) s.tick = .ok d2 →
      ∃ d', Becomes s (.engineCommandComplete id) d' ∧ d'.mem = d2.mem ∧ d'.groups = s.dev.groups ∧
        galley d' o.part gal = commitRec (galley d2 o.part gal) i s.dev.cyc ∧ (tget d'.ops id).map (fun q => q.fin) = some (o.fin ||| BitVec.ofNat 64 (2 ^ x.lane))) ∧
    (∀ (m : MHdr) (a b : Operand), o.word = .rbin m a b → (∀ z ∈ o.lanes, o.fin.getLsbD z.lane = true) →
      ∃ d' g', ends d' g' ∧ g'.v = g.v ∧ d'.mem = s.dev.mem) ∧
    -- dsc: every result has come
    (∀ (m : MHdr) (n : Fin 40) (a : Operand), o.word = .dsc m (.v n) a → (∀ x ∈ o.lanes, o.fin.getLsbD x.lane = true ∧ x.a = 1) →
      ∃ d' g', ends d' g' ∧ d'.mem = s.dev.mem ∧
        takes g' n.val (fun y => (List.range 4).map (fun i => (i, y.d.toNat / 2 ^ (32 * i) % 2 ^ 32))) ∧
        ((∃ x ∈ o.lanes, (x.run.getD 4 0#32).toNat % 4 = 0 ∧ x.d.toNat % 2 ^ 32 = 0) → (tgetD d'.cores o.core default).dc = []))) ∧
  -- a script answers by what it has read
  (∀ (p fi b : Nat) (ag : Agent) (cm : CacheMode) (f : Script (List (Nat × Nat))) (d : Dev) (x : List (Nat × Nat)) (m : Nat → Byte),
    let r := runScript p ag cm fi f [] b d
    r.out = .ok (some x) → r.log = (scriptOn f m).2.1 → EndsIn m f x) ∧
  -- dsc: one lane's turn
  (∀ (d : Dev) (o : Op) (x : LaneIn) (s pa k : Nat) (e : DscSet), e.ways.length = 8 → dscEntry d o.part o.a.toNat s = some (k, e) →
    let w := fun j => (x.run.getD j 0#32).toNat
    let key := [BitVec.ofNat 64 (w 0 + w 1 * 2 ^ 32), BitVec.ofNat 64 (w 2), BitVec.ofNat 64 (w 3), o.a]
    let way := fun i => e.ways.getD i default
    let has := fun i => i < 8 ∧ (way i).st ≠ .empty ∧ (way i).key = key ∧ ∀ j, j < i → (way j).st = .empty ∨ (way j).key ≠ key
    let absent := ∀ i, i < 8 → (way i).st = .empty ∨ (way i).key ≠ key
    let set := fun i x => { d with dsc := tput d.dsc k { e with ways := e.ways.set i x } }
    (w 4 % 4 = 0 →
      (∀ i, has i → dscTurn d o x s pa = if (way i).st = .ready then .done 0 i d else if (way i).stamp = o.gid then .done 2 i d else .follow i d) ∧
      (∀ i, absent → i < 8 → (way i).st = .empty → (∀ j, j < i → (way j).st ≠ .empty) →
        dscTurn d o x s pa = .done 1 i (set i { st := .pending, key := key, stamp := o.gid })) ∧
      (∀ i, absent → (∀ j, j < 8 → (way j).st ≠ .empty) → i < 8 → (way i).st = .ready →
        (∀ j, j < 8 → (way j).st = .ready → (way i).stamp < (way j).stamp ∨ ((way i).stamp = (way j).stamp ∧ i ≤ j)) →
        dscTurn d o x s pa = .done 1 i (set i { st := .pending, key := key, stamp := o.gid })) ∧
      (absent → (∀ j, j < 8 → (way j).st = .pending) → dscTurn d o x s pa = .retry)) ∧
    (w 4 % 4 = 1 →
      (∀ i, has i → (way i).st = .pending → (way i).stamp = o.gid → ∃ d', dscTurn d o x s pa = .done 0 i d' ∧
        d' = { set i { way i with st := .ready, stamp := d.fresh } with fresh := d.fresh + 1, ops := d'.ops } ∧
        ∀ id q, tget d.ops id = some q → ∃ q', tget d'.ops id = some q' ∧ q'.lanes = q.lanes.map (fun y =>
          if q.part = e.part ∧ (∃ r ∈ q.resv, r.1 = y.lane) ∧ dscKey q y = key then { y with a := 1 } else y)) ∧
      (∀ i, has i → (way i).st = .ready ∨ (way i).stamp ≠ o.gid → dscTurn d o x s pa = .bad 0x60) ∧
      (absent → dscTurn d o x s pa = .bad 0x60)) ∧
    (w 4 % 4 = 2 →
      (∀ i, has i → (way i).st = .ready → dscTurn d o x s pa = .done 0 i (set i { st := .empty, key := [], stamp := 0 })) ∧
      (∀ i, has i → (way i).st = .pending → dscTurn d o x s pa = .bad 0x60) ∧ (absent → dscTurn d o x s pa = .bad 0x60)) ∧
    (w 4 % 4 = 3 → dscTurn d o x s pa = .bad 0x61)) ∧
  (∀ (d : Dev) (o : Op) (x : LaneIn) (s pa : Nat), dscEntry d o.part o.a.toNat s = none →
    ((x.run.getD 4 0#32).toNat % 4 = 1 ∨ (x.run.getD 4 0#32).toNat % 4 = 2 → dscTurn d o x s pa = .bad 0x60) ∧
    ((x.run.getD 4 0#32).toNat % 4 = 0 → (d.dsc.filter (fun e => e.2.slice == homeSlice pa)).length < 2048 →
      ∃ d', dscTurn d o x s pa = .done 1 0 d' ∧ d' = { d with dsc := d'.dsc, fresh := d.fresh + 1 } ∧
        ∃ e, tget d'.dsc d.fresh = some e ∧ e = { part := o.part, slice := homeSlice pa, desc := o.a.toNat, set := s, ways := e.ways } ∧
          e.ways = { st := .pending, key := dscKey o x, stamp := o.gid } :: List.replicate 7 { st := .empty, key := [], stamp := 0 })) ∧
  (∀ (o : Op) (l status s way addr : Nat) (came : Bool), ∀ x ∈ o.lanes,
    ∃ y ∈ (dscKeep o l status s way addr came).lanes, y.lane = x.lane ∧
      y = if x.lane = l then { x with a := if came = true then 1 else 0, d := BitVec.ofNat 128 (status + (s * 8 + way) * 2 ^ 32 + addr * 2 ^ 64) } else x)

/-- 08 R287 to R293: the traversal unit in exact arithmetic. A box is hit where some t of the interval lies in it, at the least such t;
a box with a NaN bound always is. A triangle is hit at the t, u and v that place the ray's point in it, front where the determinant is
above 0. A record counts a test and replaces the best hit where it is not culled and has a lesser t, or the same t and a lesser
identifier; ANY then ends the walk; so a leaf without ANY leaves the least (t, identifier). A node's children that the ray meets are
taken by ascending entry, then number. A ray with a NaN, or tmin above tmax, misses and reads nothing; over a one-triangle structure a lane returns
the hit's rounded t, u and v, identifier and counts, or a miss (the identifier's other bits then 0: the model's choice, log 95); a push
beyond 512 entries is 0x2B. ovq: a query box, or sphere, meets a triangle's box where they share a point; a leaf's matches are counted,
and the first CAP listed in address order. refit: a box spans its points, with each bound attained, and is written to its child alone. -/
def Obligations.RayQueries : Prop :=
  -- box
  (∀ (o d : Vec3) (bx : List Nat) (tlo thi : Rat), bx.length = 6 → (∀ p ∈ bx, fin32 p = true) → (∀ i, i < 3 → q32 (bx.getD i 0) ≤ q32 (bx.getD (i + 3) 0)) →
    let inside := fun (t : Rat) => tlo ≤ t ∧ t ≤ thi ∧ ∀ i, i < 3 →
      q32 (bx.getD i 0) ≤ o.axes.getD i 0 + t * d.axes.getD i 0 ∧ o.axes.getD i 0 + t * d.axes.getD i 0 ≤ q32 (bx.getD (i + 3) 0)
    (∀ e, boxTest o d bx (.q tlo) (.q thi) = some e ↔ ∃ t, e = .q t ∧ inside t ∧ ∀ t', inside t' → t ≤ t') ∧
    (boxTest o d bx (.q tlo) (.q thi) = none ↔ ∀ t, ¬ inside t)) ∧
  (∀ (o d : Vec3) (bx : List Nat) (tlo thi : ERat), (∃ p ∈ bx, (f32 p).isNan = true) → boxTest o d bx tlo thi = some tlo) ∧
  -- triangle
  (∀ (o d : Vec3) (vs : List (List Nat)) (tlo thi : Rat), (∀ v ∈ vs, ∀ p ∈ v, fin32 p = true) →
    let v := fun i j => q32 ((vs.getD i []).getD j 0)
    let e := fun i j => v i j - v 0 j
    let dd := fun j => d.axes.getD j 0
    let det := e 1 0 * (dd 1 * e 2 2 - dd 2 * e 2 1) + e 1 1 * (dd 2 * e 2 0 - dd 0 * e 2 2) + e 1 2 * (dd 0 * e 2 1 - dd 1 * e 2 0)
    let meets := fun (t a b : Rat) => tlo ≤ t ∧ t ≤ thi ∧ 0 ≤ a ∧ 0 ≤ b ∧ a + b ≤ 1 ∧
      ∀ j, j < 3 → o.axes.getD j 0 + t * dd j = v 0 j + a * e 1 j + b * e 2 j
    (∀ h, triTest o d vs (.q tlo) (.q thi) = some h ↔ det ≠ 0 ∧ meets h.t h.u h.v ∧ h.front = decide (0 < det)) ∧
    (triTest o d vs (.q tlo) (.q thi) = none ↔ det = 0 ∨ ∀ t a b, ¬ meets t a b)) ∧
  (∀ (o d : Vec3) (vs : List (List Nat)) (tlo thi : ERat), (∃ v ∈ vs, ∃ p ∈ v, fin32 p = false) → triTest o d vs tlo thi = none) ∧
  -- the records of a leaf
  (∀ (o d : Vec3) (flags : Nat) (tmin tmax : Rat) (r : TuTri) (w : Walk3),
    let far := (w.best.map (fun b => b.h.t)).getD tmax
    let w1 := { w with tests := w.tests + 1 }
    let test := r.verts.bind (fun vs => triTest o d vs (.q tmin) (.q far))
    (test = none → recTest o d flags (.q tmin) (.q tmax) r w = (w1, false)) ∧
    (∀ h, test = some h →
      let ident := r.id / 16 * 16 + if h.front = true then 1 else 2
      let culled := (h.front = true ∧ flags / 4 % 2 = 1) ∨ (h.front = false ∧ flags / 2 % 2 = 1)
      let better := ∀ b, w.best = some b → h.t < b.h.t ∨ (h.t = b.h.t ∧ ident < b.id)
      (culled ∨ ¬ better → recTest o d flags (.q tmin) (.q tmax) r w = (w1, false)) ∧
      (¬ culled → better → recTest o d flags (.q tmin) (.q tmax) r w = ({ w1 with best := some { h := h, id := ident } }, flags % 2 == 1)))) ∧
  (∀ (o d : Vec3) (flags : Nat) (tmin tmax : Rat) (rs : List TuTri) (w : Walk3), flags % 2 = 0 → w.best = none →
    let w' := rs.foldl (fun w r => (recTest o d flags (.q tmin) (.q tmax) r w).1) w
    let hits := fun (h : TriHit) (ident : Nat) => ∃ r ∈ rs, ∃ vs, r.verts = some vs ∧ triTest o d vs (.q tmin) (.q tmax) = some h ∧
      ident = r.id / 16 * 16 + (if h.front = true then 1 else 2) ∧ ¬ (h.front = true ∧ flags / 4 % 2 = 1) ∧ ¬ (h.front = false ∧ flags / 2 % 2 = 1)
    w'.tests = w.tests + rs.length ∧ w'.visits = w.visits ∧ w'.stack = w.stack ∧ (w'.best = none ↔ ∀ h i, ¬ hits h i) ∧
    ∀ b, w'.best = some b → hits b.h b.id ∧ ∀ h i, hits h i → b.h.t < h.t ∨ (b.h.t = h.t ∧ b.id ≤ i)) ∧
  -- the children of a node
  (∀ (bs : List Byte) (o d : Vec3) (tmin far : ERat),
    let hs := nodeHits bs o d tmin far
    let entry := fun c => boxTest o d (boxOf bs c) tmin far
    ∃ cs : List Nat, cs.Nodup ∧ (∀ c, c ∈ cs ↔ c < 8 ∧ ((childOf bs c).kind = 1 ∨ (childOf bs c).kind = 2) ∧ (entry c).isSome = true) ∧
      hs.map (fun x => (some x.1, x.2)) = cs.map (fun c => (entry c, childOf bs c)) ∧
      cs.Pairwise (fun a b => ∀ x y, entry a = some x → entry b = some y → x.lt y = true ∨ (y.lt x = false ∧ a < b))) ∧
  -- lanes
  (∀ (h : TuHdr) (fuel fi : Nat) (x : LaneIn) (m : Nat → Byte), (∃ i, i < 8 ∧ (f32 (reg x i)).isNan = true) ∨ (e32 (reg x 7)).lt (e32 (reg x 3)) = true →
    scriptOn (traceLane h fuel fi x) m = (.ok [(0, 0x7F800000), (1, 0), (2, 0), (3, 0), (4, 0), (5, 0), (6, 0), (7, 0)], [], m)) ∧
  (∀ (h : TuHdr) (fuel fi : Nat) (x : LaneIn) (m : Nat → Byte) (i0 i1 i2 leaf : Nat), 3 ≤ fuel → (∀ i, i < 8 → fin32 (reg x i) = true) →
    q32 (reg x 3) ≤ q32 (reg x 7) →
    natOn m (h.root + 192) 8 = 2 ^ 58 + 2 * 2 ^ 56 + leaf → leaf < 2 ^ 56 → (∀ c, 1 ≤ c → c < 8 → natOn m (h.root + 192 + 8 * c) 8 / 2 ^ 56 % 4 = 0) →
    natOn m leaf 4 = i0 → natOn m (leaf + 4) 4 = i1 → natOn m (leaf + 8) 4 = i2 → i0 < h.nvert → i1 < h.nvert → i2 < h.nvert →
    let o : Vec3 := ⟨q32 (reg x 0), q32 (reg x 1), q32 (reg x 2)⟩
    let d : Vec3 := ⟨q32 (reg x 4), q32 (reg x 5), q32 (reg x 6)⟩
    let far := ERat.q (q32 (reg x 7))
    let near := ERat.q (q32 (reg x 3))
    let verts := [i0, i1, i2].map (fun i => (List.range 3).map (fun j => natOn m (h.vbase + 16 * i + 4 * j) 4))
    let bx := (List.range 6).map (fun i => natOn m (h.root + 4 * i) 4)
    let miss := fun (counts : Nat) => [(0, 0x7F800000), (1, 0), (2, 0), (3, 0), (4, 0), (5, counts), (6, 0), (7, 0)]
    (boxTest o d bx near far = none → EndsIn m (traceLane h fuel fi x) (miss 1)) ∧
    ((boxTest o d bx near far).isSome = true →
      (triTest o d verts near far = none → EndsIn m (traceLane h fuel fi x) (miss 0x10001)) ∧
      (∀ t, triTest o d verts near far = some t →
        (((t.front = true ∧ h.flags / 4 % 2 = 1) ∨ (t.front = false ∧ h.flags / 2 % 2 = 1)) → EndsIn m (traceLane h fuel fi x) (miss 0x10001)) ∧
        (¬ ((t.front = true ∧ h.flags / 4 % 2 = 1) ∨ (t.front = false ∧ h.flags / 2 % 2 = 1)) →
          let ident := natOn m (leaf + 16) 8 / 16 * 16 + if t.front = true then 1 else 2
          EndsIn m (traceLane h fuel fi x) [(0, r32 t.t), (1, r32 t.u), (2, r32 t.v), (3, ident % 2 ^ 32), (4, ident / 2 ^ 32), (5, 0x10001), (6, 0), (7, 0)])))) ∧
  (∀ (h : TuHdr) (o d : Vec3) (tmin tmax tn : ERat) (fuel : Nat) (w : Walk3) (k : Child) (rest : List (ERat × Child)) (m : Nat → Byte), w.stack = (tn, k) :: rest →
    k.kind = 1 → (walkFar w tmax).lt tn = false → 512 < (nodeHits (bytesOn m k.addr 256) o d tmin (walkFar w tmax)).length + rest.length →
    FailsBy m (walkGo h o d tmin tmax (fuel + 1) w) 0x2B) ∧
  -- ovq
  (∀ (x : LaneIn) (bx : List Nat), bx.length = 6 → (∀ p ∈ bx, fin32 p = true) → (∀ i, i < 3 → q32 (bx.getD i 0) ≤ q32 (bx.getD (i + 3) 0)) →
    let inBox := fun (p : Nat → Rat) => ∀ i, i < 3 → q32 (bx.getD i 0) ≤ p i ∧ p i ≤ q32 (bx.getD (i + 3) 0)
    (reg x 6 % 2 = 0 → (∀ i, i < 6 → fin32 (reg x i) = true) → (∀ i, i < 3 → q32 (reg x i) ≤ q32 (reg x (i + 3))) →
      (ovqMeets x bx = true ↔ ∃ p, inBox p ∧ ∀ i, i < 3 → q32 (reg x i) ≤ p i ∧ p i ≤ q32 (reg x (i + 3)))) ∧
    (reg x 6 % 2 = 1 → (∀ i, i < 4 → fin32 (reg x i) = true) →
      (ovqMeets x bx = true ↔ 0 ≤ q32 (reg x 3) ∧ ∃ p, inBox p ∧ (p 0 - q32 (reg x 0)) * (p 0 - q32 (reg x 0)) + (p 1 - q32 (reg x 1)) * (p 1 - q32 (reg x 1)) +
        (p 2 - q32 (reg x 2)) * (p 2 - q32 (reg x 2)) ≤ q32 (reg x 3) * q32 (reg x 3)))) ∧
  (∀ (x : LaneIn) (cap : Nat) (ts : List TuTri) (w : Ovq),
    let found := ts.filter (fun t => match t.verts.bind (fun vs => boxPoints vs vs) with
      | some bx => ovqMeets x bx
      | none => false)
    let w' := ovqLeaf x cap ts w
    w'.stack = w.stack ∧ w'.total = w.total + found.length ∧ w'.list = w.list ++ (found.map (fun t => t.addr)).take (cap - w.total)) ∧
  -- refit
  (∀ (vs : List (List Nat)), vs ≠ [] → (∀ v ∈ vs, v.length = 3 ∧ ∀ p ∈ v, fin32 p = true) →
    ∃ bx, boxPoints vs vs = some bx ∧ bx.length = 6 ∧ (∀ p ∈ bx, fin32 p = true) ∧ ∀ i, i < 3 →
      (∀ v ∈ vs, q32 (bx.getD i 0) ≤ q32 (v.getD i 0) ∧ q32 (v.getD i 0) ≤ q32 (bx.getD (i + 3) 0)) ∧
      (∃ v ∈ vs, q32 (bx.getD i 0) = q32 (v.getD i 0)) ∧ ∃ v ∈ vs, q32 (bx.getD (i + 3) 0) = q32 (v.getD i 0)) ∧
  (∀ (h : TuHdr) (node c : Nat) (m : Nat → Byte) (bx : List Nat), bx.length = 6 →
    let k := childOf (List.replicate 192 0#8 ++ bytesOn m (node + 192 + 8 * c) 8) 0
    (k.kind = 0 → scriptOn (refitNode h node [c]) m = (.ok (), (scriptOn (readRun (node + 192 + 8 * c) 8) m).2.1, m)) ∧
    (EndsIn m (refitBox h k) (some bx) →
      (scriptOn (refitNode h node [c]) m).1 = .ok () ∧ ∀ a, (scriptOn (refitNode h node [c]) m).2.2 a =
        if node + 24 * c ≤ a ∧ a < node + 24 * c + 24 then (bx.flatMap (fun p => leBytes p 4)).getD (a - (node + 24 * c)) 0#8 else m a)) ∧
  (∀ (h : TuHdr) (k : Child) (m : Nat → Byte), k.kind = 1 →
    let bs := bytesOn m k.addr 256
    let bxs := ((List.range 8).filter (fun c => (childOf bs c).kind == 1 || (childOf bs c).kind == 2)).map (boxOf bs)
    EndsIn m (refitBox h k) (some (if bxs = [] then [0x7F800000, 0x7F800000, 0x7F800000, 0xFF800000, 0xFF800000, 0xFF800000]
      else (boxPoints (bxs.map (fun b => b.take 3)) (bxs.map (fun b => b.drop 3))).getD [])))

/-- 08 R294 to R299, R303 to R306, 04 R141, 10 R353: what the lanes of vmarch, attr, tex, slg and rbin read and compute. vmarch: a flight ends the march
with STATUS 2 where LIMIT or the draws do not allow it; else its length is -lg of a draw over the majorant; at or past the cell's end it
goes on from there, and before it the density is read: ratio tracking scales T, delta tracking collides where q times the majorant is
below the density. A draw is the KEY's or the word of BUF above its low 8 bits; a majorant and a density are read at their cell. A ray
with no march returns EXIT with nothing drawn or read; over one cell with no majorant above 0 the march leaves at t1. attr: the weights
of an identifier's triangle sum to 1 and place the pixel in it, with the quotients of R299 for their derivatives; every register is one rounding of its
exact value; KIND 0 gives 0, S = 0 or an input that is not finite a NaN, a bad instance or cluster 0x2E, NI above 16 0x2A. tex: the weights of a sample sum to
1 and lie in its levels; a point sample reads its one texel, repeated or clamped, and a channel is one rounding of the exact sum of its
terms. slg reads a record and its slug at the batch entry, or zeros. rbin takes an identifier's material and galley. An exact
zero among attr's interpolants is a zero of either sign (its sign is the model's choice, log 87). -/
def Obligations.MarchesAndSamples : Prop :=
  -- vmarch
  (∀ (md : Medium) (ax : List Axis) (c : List Nat) (c0 mu te : Nat) (w : March) (m : Nat → Byte),
    let need := if md.ratio = true then 1 else 2
    let given := fun (n : Nat) => natOn m (md.key + 4 * ((c0 + n) % 2 ^ 64)) 4 / 256
    let ready := fun (n : Nat) => md.given = false ∨ (c0 + n) % 2 ^ 64 < md.ndraw
    let drawn := fun (n : Nat) => if md.given = true then mkFin (given n) 1 (-24) false else drawU (BitVec.ofNat 64 md.key) (BitVec.ofNat 64 (c0 + n))
    let blocked := (md.limit ≠ 0 ∧ md.limit < w.k + need) ∨ ∃ i, i < need ∧ ¬ ready (w.k + i)
    let tn := addF w.t (divF (negLog (drawn w.k)) mu)
    let cell := fun (i : Nat) => denIdx (ax.getD i default) md.f (c.getD i 0) tn
    let sigma := (rnd (xMul (f32 md.sigma) (unpack .fp16 (natOn m (md.den + 2 * (cell 0 + md.f * md.nx * (cell 1 + md.f * md.ny * cell 2))) 2))).1 .fp32 .rne 0).1
    (blocked → scriptOn (flight md ax c c0 mu te w) m = (.ok (.stop 2 w), [], m)) ∧
    (¬ blocked → leF te tn = true → EndsIn m (flight md ax c c0 mu te w) (.leave { t := te, k := w.k + 1, tr := w.tr })) ∧
    (¬ blocked → leF te tn = false → md.ratio = true →
      EndsIn m (flight md ax c c0 mu te w) (.stay { t := tn, k := w.k + 1, tr := mulF w.tr (subF 0x3F800000 (divF sigma mu)) })) ∧
    (¬ blocked → leF te tn = false → md.ratio = false →
      let w2 : March := { t := tn, k := w.k + 2, tr := w.tr }
      EndsIn m (flight md ax c c0 mu te w) (if ltX (xMul (drawn (w.k + 1)) (f32 mu)).1 (f32 sigma) = true then .stop 0 w2 else .stay w2))) ∧
  (∀ (md : Medium) (c : List Nat) (m : Nat → Byte), EndsIn m (majorant md c)
    (rnd (xMul (f32 md.sigma) (unpack .fp16 (natOn m (md.maj + 2 * (c.getD 0 0 + md.nx * (c.getD 1 0 + md.ny * c.getD 2 0))) 2))).1 .fp32 .rne 0).1) ∧
  (∀ (md : Medium) (fuel : Nat) (x : LaneIn) (m : Nat → Byte), (∃ i ∈ [0, 1, 2, 4, 5, 6], fin32 (reg x i) = false) ∨ (f32 (reg x 3)).isNan = true ∨ (f32 (reg x 7)).isNan = true ∨
      (∃ e ∈ md.xf, fin32 e = false) →
    scriptOn (marchLane md fuel x) m = (.ok [(3, canon32 (reg x 7)), (8, reg x 8), (9, reg x 9), (10, 1), (11, if md.ratio = true then canon32 (reg x 11) else reg x 11),
      (12, 0x7FC00000), (13, 0x7FC00000), (14, 0x7FC00000)], [], m)) ∧
  (∀ (md : Medium) (ax : List Axis) (c0 t1 fuel : Nat) (w : March) (m : Nat → Byte), ax.length = 3 → (∀ a ∈ ax, a.n = 1 ∧ cellIdx a w.t = 0) → ltF w.t t1 = true → ltF t1 t1 = false →
    let mu := (rnd (xMul (f32 md.sigma) (unpack .fp16 (natOn m md.maj 2))).1 .fp32 .rne 0).1
    ltF 0 mu = false → EndsIn m (marchGo md ax c0 t1 (fuel + 2) none w) (1, { w with t := t1 })) ∧
  -- attr
  (∀ (desc : List Byte) (x : LaneIn) (m : Nat → Byte), desc.length = 32 →
    let id := (x.run.getD 0 0#32).toNat + (x.run.getD 1 0#32).toNat * 2 ^ 32
    let itab := at_ desc 0 8 + 32 * (id / 2 ^ 40)
    let ni := natOn m (itab + 12) 4 / 2 ^ 16 % 32
    let clus := id / 2 ^ 12 % 2 ^ 28
    let cent := natOn m itab 8 + 16 * clus
    let vs := 16 + 16 * ((ni + 3) / 4)
    let corner := fun (i : Nat) => natOn m cent 8 + vs * natOn m (natOn m (cent + 8) 8 + 4 * (id / 2 ^ 4 % 2 ^ 8) + i) 1
    let clip := fun (i j : Nat) => natOn m (corner i + 4 * j) 4
    let px := (x.run.getD 2 0#32).toNat
    let py := (x.run.getD 3 0#32).toNat
    let vw := at_ desc 12 4
    let vh := at_ desc 16 4
    let all := fun (v : Nat) => (List.range 22).map (fun i => (i, v))
    (id % 16 = 0 → scriptOn (attrLane desc x) m = (.ok (all 0), [], m)) ∧
    (id % 16 ≠ 0 → at_ desc 8 4 ≤ id / 2 ^ 40 → FailsBy m (attrLane desc x) 0x2E) ∧
    (id % 16 ≠ 0 → id / 2 ^ 40 < at_ desc 8 4 →
      (16 < ni → FailsBy m (attrLane desc x) 0x2A) ∧
      (ni ≤ 16 → natOn m (itab + 8) 4 ≤ clus → FailsBy m (attrLane desc x) 0x2E) ∧
      (ni ≤ 16 → clus < natOn m (itab + 8) 4 →
        let bad := (∃ p ∈ [px, py, vw, vh], fin32 p = false) ∨ (∃ i j, i < 3 ∧ j < 4 ∧ fin32 (clip i j) = false) ∨ q32 vw = 0 ∨ q32 vh = 0
        let X := 2 * q32 px / q32 vw - 1
        let Y := 1 - 2 * q32 py / q32 vh
        let v := fun i => (⟨q32 (clip (i % 3) 0), q32 (clip (i % 3) 1), q32 (clip (i % 3) 3)⟩ : Vec3)
        let c := fun i => (v (i + 1)).cross (v (i + 2))
        let e := fun i => (c i).x * X + (c i).y * Y + (c i).z
        let sum := e 0 + e 1 + e 2
        let G := (c 0).x + (c 1).x + (c 2).x
        let H := (c 0).y + (c 1).y + (c 2).y
        let dx := fun i => 2 / q32 vw * (((c i).x * sum - e i * G) / (sum * sum))
        let dy := fun i => -2 / q32 vh * (((c i).y * sum - e i * H) / (sum * sum))
        let a := fun (i n : Nat) => natOn m (corner i + 16 + 4 * n) 4
        (bad ∨ sum = 0 → EndsIn m (attrLane desc x) (all 0x7FC00000)) ∧
        (¬ bad → sum ≠ 0 → ∃ l0 l1 l2 : Rat, l0 + l1 + l2 = 1 ∧
          l0 * (v 0).x + l1 * (v 1).x + l2 * (v 2).x = X * (l0 * (v 0).z + l1 * (v 1).z + l2 * (v 2).z) ∧
          l0 * (v 0).y + l1 * (v 1).y + l2 * (v 2).y = Y * (l0 * (v 0).z + l1 * (v 1).z + l2 * (v 2).z) ∧
          ∃ outs : List Nat, outs.length = 22 ∧ EndsIn m (attrLane desc x) ((List.range 22).map (fun i => (i, outs.getD i 0))) ∧
            outs.take 6 = [r32 l1, r32 l2, r32 (dx 1), r32 (dy 1), r32 (dx 2), r32 (dy 2)] ∧
            ∀ n, n < 16 → (ni ≤ n → outs.getD (6 + n) 0 = 0) ∧ (n < ni →
              ((∃ i, i < 3 ∧ fin32 (a i n) = false) → outs.getD (6 + n) 0 = 0x7FC00000) ∧
              ((∀ i, i < 3 → fin32 (a i n) = true) →
                let value := l0 * q32 (a 0 n) + l1 * q32 (a 1 n) + l2 * q32 (a 2 n)
                (value ≠ 0 → outs.getD (6 + n) 0 = r32 value) ∧ (value = 0 → outs.getD (6 + n) 0 = 0 ∨ outs.getD (6 + n) 0 = 0x80000000))))))) ∧
  -- tex
  (∀ (t : Tex) (u v : Rat) (lod : XVal), 1 ≤ t.levels → t.filt < 3 →
    let ts := texTerms t u v lod
    (ts.map (fun x => x.w)).foldl (· + ·) 0 = 1 ∧ ts.length ≤ 8 ∧ (∀ x ∈ ts, x.w ≠ 0 ∧ x.m < t.levels) ∧
    (t.filt = 1 → ∀ x ∈ ts, ∃ a b : Rat, u * (levelSide t.wid x.m : Rat) - 1 / 2 = a ∧ v * (levelSide t.hgt x.m : Rat) - 1 / 2 = b ∧
      (x.i = a.floor ∨ x.i = a.floor + 1) ∧ (x.j = b.floor ∨ x.j = b.floor + 1)) ∧
    (t.filt = 0 → ∃ x, ts = [x] ∧ x.i = (u * (levelSide t.wid x.m : Rat)).floor ∧ x.j = (v * (levelSide t.hgt x.m : Rat)).floor ∧
      ∀ l : Rat, (∃ n d e, lod = .fin n d e) → lod.rat = l → (x.m : Int) = max 0 (min (l + 1 / 2).floor ((t.levels : Int) - 1)))) ∧
  (∀ (t : Tex) (i : Int) (n : Nat), 0 < n → texWrap t i n < n ∧ (t.clampTo = false → ∃ k : Int, (texWrap t i n : Int) = i + k * n) ∧
    (t.clampTo = true → (i < 0 → texWrap t i n = 0) ∧ ((n : Int) ≤ i → texWrap t i n = n - 1) ∧ (0 ≤ i → i < n → (texWrap t i n : Int) = i))) ∧
  (∀ (xs : List (Rat × List Nat)) (c : Nat), (∀ x ∈ xs, fin32 (x.2.getD c 0) = true) →
    let sum := (xs.map (fun x => x.1 * q32 (x.2.getD c 0))).foldl (· + ·) 0
    (sum ≠ 0 → texChannel xs c = r32 sum) ∧ (sum = 0 → texChannel xs c = 0 ∨ texChannel xs c = 0x80000000)) ∧
  (∀ (xs : List (Rat × List Nat)) (c : Nat), (∃ x ∈ xs, (f32 (x.2.getD c 0)).isNan = true) → texChannel xs c = 0x7FC00000) ∧
  (∀ (t : Tex) (x : LaneIn) (m : Nat → Byte), t.filt = 0 → t.levels = 1 → (∀ i, i < 2 → fin32 (reg x i) = true) → 0 < t.wid → 0 < t.hgt →
    let size := if t.fmt = 1 then 8 else 4
    let i := texWrap t (q32 (reg x 0) * (t.wid : Rat)).floor t.wid
    let j := texWrap t (q32 (reg x 1) * (t.hgt : Rat)).floor t.hgt
    let bs := bytesOn m (t.base + (j * t.wid + i) * size) size
    EndsIn m (texLane t x) ((List.range 4).map (fun c => (c, texChannel [(1, texel t.fmt bs)] c))) ∧
    (t.fmt = 0 → ∀ c, c < 4 → (texel t.fmt bs).getD c 0 = r32 ((at_ bs c 1 : Rat) / 255)) ∧
    (t.fmt = 1 → ∀ c, c < 4 → (texel t.fmt bs).getD c 0 = (rnd (unpack .fp16 (at_ bs (2 * c) 2)) .fp32 .rne 0).1) ∧
    (t.fmt = 2 → texel t.fmt bs = [canon32 (at_ bs 0 4), 0, 0, 0x3F800000])) ∧
  -- slg and rbin
  (∀ (g : Group) (y : GalDesc) (x : LaneIn) (m : Nat → Byte),
    let entry := tget g.batch (x.a.toNat % 2 ^ 32 % g.width)
    (entry = none → scriptOn (slgLane g y x) m = (.ok ((List.range 16).map (fun i => (i, 0))), [], m)) ∧
    (∀ i, entry = some i → EndsIn m (slgLane g y x) ((List.range 16).map (fun k =>
      (k, if k < 8 then natOn m (y.rbase + 32 * (i % y.nrec) + 4 * k) 4 else natOn m (y.sbase + 32 * (i % y.nrec) + 4 * (k - 8)) 4))))) ∧
  (∀ (g : GalSet) (id : Nat) (m : Nat → Byte), id < 2 ^ 64 →
    let ent := g.itab + 32 * (id / 2 ^ 40)
    let mat := natOn m (ent + 12) 2
    (id % 16 = 0 → EndsIn m (rbinGalley g id) (0xFFFF, g.missg)) ∧
    (id % 16 ≠ 0 → g.ninst ≤ id / 2 ^ 40 ∨ (id / 2 ^ 40 < g.ninst ∧ natOn m (ent + 8) 4 ≤ id / 2 ^ 12 % 2 ^ 28) → FailsBy m (rbinGalley g id) 0x2E) ∧
    (id % 16 ≠ 0 → id / 2 ^ 40 < g.ninst → id / 2 ^ 12 % 2 ^ 28 < natOn m (ent + 8) 4 →
      EndsIn m (rbinGalley g id) (mat, if mat < g.nmat then natOn m (g.gtab + 2 * mat) 2 else g.missg)))

/-- 04 R129 to R131, 08 R272 to R280: what a matrix command computes. An element is read by its FMT (INT8 as two's complement: the model's choice, log 89)
and stands for its value times 2^(X - 127) under a scale X; a row of memory holds its elements in ascending k and then its scales. A chunk
adds its exact sum of products to the accumulator with one rounding; a NaN, or 0 times infinity, or infinities of both signs give the
canonical NaN, and an infinite product its infinity; INT8 adds modulo 2^32. Which row meets which: mxd, mxb with and without SHB, and the
three generators. MATRIX_COMMAND_START reads the block; an output outside the allotment or misaligned is context-fatal 0x22, any other field outside its
limits 0x2A; then the command stands with RPROG = START, or, with no pass to run, is complete, its outputs 0 where it starts from nothing.
MATRIX_PASS on operands in memory: each output of the pass takes its accumulator's next value and no other byte of AM changes; RPROG rises by the chunk,
and the last pass completes the command. A pass whose ring has no COMMITTED slot to pop changes no byte of AM and not RPROG. -/
def Obligations.MatrixPasses : Prop :=
  -- elements, scales and rows
  (∀ r ∈ [(0, FC.fp32, 8, 4, FC.fp32, 32), (1, .fp64, 8, 8, .fp64, 64), (2, .fp16, 32, 4, .fp32, 16), (3, .bf16, 32, 4, .fp32, 16), (4, .e5m2, 64, 4, .fp32, 8), (5, .e4m3, 64, 4, .fp32, 8),
      (6, .e2m1, 128, 4, .fp32, 4)],
    mxFc r.1 = r.2.1 ∧ mxChunk r.1 = r.2.2.1 ∧ mxEsz r.1 = r.2.2.2.1 ∧ mxAcc r.1 = r.2.2.2.2.1 ∧ mxBits r.1 = r.2.2.2.2.2) ∧
  (mxChunk 7 = 64 ∧ mxEsz 7 = 4) ∧
  (∀ (f : Nat) (bs : List Byte) (k : Nat),
    (f < 6 → mxElem f bs (k * mxBits f) = unpack (mxFc f) (at_ bs (k * (mxBits f / 8)) (mxBits f / 8))) ∧
    (f = 6 → mxElem f bs (k * 4) = unpack .e2m1 (at_ bs (k / 2) 1 / 16 ^ (k % 2) % 16)) ∧
    (f = 7 → mxElem f bs (k * 8) = ofInt (if at_ bs k 1 < 128 then at_ bs k 1 else (at_ bs k 1 : Int) - 256))) ∧
  (∀ (x : XVal) (sc : Nat), (mxScaled x 255).isNan = true ∧ (sc < 255 →
    (x.isFin = true → (mxScaled x sc).isFin = true ∧ (mxScaled x sc).rat = x.rat * (2 : Rat) ^ ((sc : Int) - 127)) ∧ (x.isFin = false → mxScaled x sc = x))) ∧
  (∀ (d d1 d2 : Dev) (p tid k0 n i fi : Nat) (x : MxBlk) (o : MxOpnd) (bs sc : List Byte),
    let row := o.addr + i * o.stride
    let lo := k0 * mxBits x.f / 8
    unitRead d p (.team tid) (row + lo) (((k0 + n) * mxBits x.f + 7) / 8 - lo) fi = .ok (bs, d1) →
    unitRead d1 p (.team tid) (row + (x.k * mxBits x.f + 7) / 8 + k0 / 32) (if x.mx = true ∧ 0 < n then (k0 + n - 1) / 32 - k0 / 32 + 1 else 0) fi = .ok (sc, d2) →
    rowFromMem d p tid x o k0 n i fi = .ok ((List.range n).map (fun j =>
      let e := mxElem x.f bs (k0 * mxBits x.f % 8 + j * mxBits x.f)
      if x.mx = true then mxScaled e (sc.getD ((k0 + j) / 32 - k0 / 32) 0#8).toNat else e), d2)) ∧
  -- a chunk
  (∀ (f acc : Nat) (xs : List (XVal × XVal)), f < 7 →
    let fc := mxAcc f
    let a := unpack fc acc
    let fin := fun (v : XVal) => v.isFin = true ∧ ∀ n d e, v = .fin n d e → n ≠ 0 ∧ 0 < d
    let isInf := fun (v : XVal) => v = .inf true ∨ v = .inf false
    let bad := fun (p : XVal × XVal) => p.1.isNan = true ∨ p.2.isNan = true ∨ (p.1.isZero = true ∧ isInf p.2) ∨ (isInf p.1 ∧ p.2.isZero = true)
    let inf := fun (neg : Bool) (p : XVal × XVal) => (isInf p.1 ∨ isInf p.2) ∧ neg = xor p.1.isNeg p.2.isNeg
    let total := a.rat + (xs.map (fun p => p.1.rat * p.2.rat)).foldl (· + ·) 0
    (fin a → (∀ p ∈ xs, fin p.1 ∧ fin p.2) →
      (total ≠ 0 → mxUpdate f acc xs = (rnd (ratX total) fc .rne 0).1) ∧ (total = 0 → mxUpdate f acc xs = 0 ∨ mxUpdate f acc xs = signPat fc true)) ∧
    (a.isNan = true ∨ (∃ p ∈ xs, bad p) ∨ ((∃ p ∈ xs, inf true p) ∧ ∃ p ∈ xs, inf false p) → mxUpdate f acc xs = nanPat fc) ∧
    (∀ neg, a.isNan = false → (∀ p ∈ xs, ¬ bad p ∧ ¬ inf (!neg) p) →
      (a = .inf (!neg) → (∃ p ∈ xs, inf neg p) → mxUpdate f acc xs = nanPat fc) ∧
      (a ≠ .inf (!neg) → a = .inf neg ∨ (∃ p ∈ xs, inf neg p) → mxUpdate f acc xs = signPat fc neg + infPat fc))) ∧
  (∀ (acc : Nat) (zs : List (Int × Int)), acc < 2 ^ 32 →
    mxUpdate 7 acc (zs.map (fun z => (ofInt z.1, ofInt z.2))) = (((acc : Int) + (zs.map (fun (z : Int × Int) => z.1 * z.2)).foldl (· + ·) 0) % 2 ^ 32).toNat) ∧
  -- which row meets which
  (∀ (x : MxBlk) (p0 : Nat) (ra rb : List (List XVal)) (idx : List Nat) (u : Nat × Nat × List (XVal × XVal)),
    let n := min (mxChunk x.f) ((if x.kind = 2 ∧ x.mg = 3 then x.m else x.k) - p0)
    let el := fun (i k : Nat) => (ra.getD i []).getD k (.zero false)
    let one : XVal := .fin 1 1 0
    u ∈ passOuts x p0 ra rb idx ↔
      (x.kind = 0 ∧ ∃ i j, i < x.m ∧ j < x.n ∧ u = (i, j, (ra.getD i []).zip (rb.getD j []))) ∨
      (x.kind = 1 ∧ ∃ b i j, b < x.m ∧ i < 16 ∧ j < 16 ∧ u = (16 * b + i, j, (ra.getD (16 * b + i) []).zip (rb.getD (if x.shb = true then j else 16 * b + j) []))) ∨
      (1 < x.kind ∧ x.mg = 1 ∧ ∃ k i, k < n ∧ i < x.m ∧ u = (p0 + k, i, [(el i k, one)])) ∨
      (1 < x.kind ∧ x.mg = 2 ∧ ∃ i k, i < x.m ∧ k < n ∧ u = (i, p0 + k, [(if idx.getD i 0 < x.m then el (idx.getD i 0) k else .zero false, one)])) ∨
      (1 < x.kind ∧ x.mg ≠ 1 ∧ x.mg ≠ 2 ∧ ∃ k, k < x.k ∧ u = (0, k, ra.map (fun r => (r.getD k (.zero false), one))))) ∧
  -- MATRIX_COMMAND_START
  (∀ (s : State) (core : Nat) (c : MxCmd) (rest : List MxCmd) (o : Op) (bs : List Byte) (d1 : Dev), (tgetD s.dev.cores core default).mq = c :: rest →
    tget s.dev.ops c.op = some o → mxRuns s.dev core c o = true → c.started = false → opReady s.dev o = true →
    unitRead s.dev o.part (.team o.tid) o.a.toNat 64 s.tick = .ok (bs, d1) →
    let kind := mxKind o.word
    let ctrl := at_ bs 0 8
    let M := at_ bs 8 2
    let N := at_ bs 10 2
    let K := at_ bs 12 4
    let out := at_ bs 48 8
    let start := at_ bs 56 8
    let f := ctrl % 8
    let mx := ctrl / 8 % 2
    let mg := ctrl / 64 % 4
    let esz := if f = 1 then 8 else 4
    let total := if kind = 2 ∧ mg = 3 then M else K
    let R := if kind = 0 then M else if kind = 1 then 16 * M else if mg = 1 then K else if mg = 2 then M else 1
    let C := if kind = 2 then (if mg = 1 then M else K) else N
    let at' := fun (i j : Nat) => out % 2 ^ 20 + i * (out / 2 ^ 32 % 2 ^ 20) + j * esz
    let opnd := fun (q : Nat) =>
      let w := at_ bs (q + 12) 4
      32 ≤ w ∨ 2 ≤ w % 4 ∨ at_ bs q 8 % 16 ≠ 0 ∨ at_ bs (q + 8) 4 % 16 ≠ 0 ∨
      (w % 4 = 0 ∧ at_ bs (q + 8) 4 < (K * mxBits f + 7) / 8 + (if mx = 1 then (K + 31) / 32 else 0)) ∨
      (w % 4 = 1 ∧ (at_ bs q 8 ≠ 0 ∨ ∀ r, ringOf s.dev o.tid (w / 4 % 8) = some r → r.cfg.cons ≠ 2))
    let bad22 := at' 0 0 % esz ≠ 0 ∨ out / 2 ^ 32 % 2 ^ 20 % esz ≠ 0 ∨ ∃ i j, i < R ∧ j < C ∧ amSize s.dev o.tid < at' i (j + 1)
    let bad2A := 2 ^ 8 ≤ ctrl ∨ (kind = 2 ↔ mg = 0) ∨ (kind ≠ 1 ∧ ctrl / 32 % 2 = 1) ∨ (mx = 1 ∧ (f < 4 ∨ f = 7)) ∨ out / 2 ^ 20 % 2 ^ 12 ≠ 0 ∨ out / 2 ^ 52 ≠ 0 ∨
      2 ^ 32 ≤ start ∨ total < start ∨ 2 ^ 24 < K ∨ (mx = 1 ∧ K % 32 ≠ 0) ∨ (kind = 0 ∧ (M = 0 ∨ 64 < M ∨ N = 0 ∨ 64 < N)) ∨ (kind = 1 ∧ (M = 0 ∨ 16 < M ∨ N ≠ 16)) ∨
      (kind = 2 ∧ (N ≠ 0 ∨ 64 < K ∨ (mg ≠ 3 ∧ 64 < M))) ∨ opnd 16 ∨ (kind ≠ 2 ∧ opnd 32) ∨
      (kind = 2 ∧ (at_ bs 40 4 ≠ 0 ∨ at_ bs 44 4 ≠ 0 ∨ (mg = 2 ∧ at_ bs 32 8 % 16 ≠ 0) ∨ (mg ≠ 2 ∧ at_ bs 32 8 ≠ 0)))
    let fatal := fun (reason : Nat) => ∃ d', Becomes s (.matrixCommandStart core) d' ∧ d'.teams = s.dev.teams ∧ d'.mem = s.dev.mem ∧
      (tgetD d'.cores core default).mq = { c with wait := true } :: rest ∧
      tgetD d'.events o.part [] = tgetD s.dev.events o.part [] ++ [{ held := false, unit := 5 * core + 1, kind := 3, cause := causeOf reason, detail := fdet o.rslot reason 0 o.slot o.pcx, cyc := s.dev.cyc, grp := some (o.core, o.grp) }]
    (bad22 → fatal 0x22) ∧ (¬ bad22 → bad2A → fatal 0x2A) ∧
    (¬ bad22 → ¬ bad2A → at_ bs 28 4 % 4 = 0 → at_ bs 44 4 % 4 = 0 →
      (start < total → ∃ d', Becomes s (.matrixCommandStart core) d' ∧ d'.teams = s.dev.teams ∧ d'.events = s.dev.events ∧
        (tgetD d'.cores core default).mq = { c with started := true, rprog := start, blk := bs } :: rest ∧ tget d'.ops c.op = some o) ∧
      (total ≤ start → ∃ d', Becomes s (.matrixCommandStart core) d' ∧ d'.events = s.dev.events ∧ (tgetD d'.cores core default).mq = rest ∧ tget d'.ops c.op = none ∧
        (ctrl / 16 % 2 = 1 ∨ start ≠ 0 → d'.teams = s.dev.teams) ∧
        (ctrl / 16 % 2 = 0 → start = 0 → ∀ t, tget s.dev.teams o.tid = some t → Memory.wf t.am = true → ∃ t', tget d'.teams o.tid = some t' ∧ ∀ b,
          ((∃ i j, i < R ∧ j < C ∧ at' i j ≤ b ∧ b < at' i j + esz) → readByte t'.am b = 0#8) ∧
          ((∀ i j, i < R → j < C → b < at' i j ∨ at' i j + esz ≤ b) → readByte t'.am b = readByte t.am b))))) ∧
  -- MATRIX_PASS
  (∀ (s : State) (core : Nat) (c : MxCmd) (rest : List MxCmd) (o : Op) (t : Team), (tgetD s.dev.cores core default).mq = c :: rest →
    tget s.dev.ops c.op = some o → mxRuns s.dev core c o = true → c.started = true → c.tok = true → tget s.dev.teams o.tid = some t → Memory.wf t.am = true →
    let x := parseMx (mxKind o.word) c.blk
    let total := if x.kind = 2 ∧ x.mg = 3 then x.m else x.k
    let p := c.rprog
    let n := min (mxChunk x.f) (total - p)
    let esz := mxEsz x.f
    let at' := fun (i j : Nat) => x.coff + i * x.cstr + j * esz
    (∀ (ra rb : List (List XVal)) (idx : List Nat) (d1 d2 d3 : Dev) (ib : List Byte), x.a.src = 0 → x.b.src = 0 →
      rowsFromMem o.part o.tid x x.a (if x.kind = 2 ∧ x.mg = 3 then 0 else p) (if x.kind = 2 ∧ x.mg = 3 then x.k else n) s.tick
        (if x.kind = 2 ∧ x.mg = 3 then (List.range n).map (fun i => p + i) else List.range (if x.kind = 1 then 16 * x.m else x.m)) s.dev = .ok (ra, d1) →
      (x.kind ≠ 2 → rowsFromMem o.part o.tid x x.b p n s.tick (List.range (if x.kind = 0 then x.n else if x.shb = true then 16 else 16 * x.m)) d1 = .ok (rb, d2)) →
      (x.kind = 2 → rb = [] ∧ d2 = d1) →
      (x.kind = 2 ∧ x.mg = 2 → unitRead d2 o.part (.team o.tid) x.b.addr (2 * x.m) s.tick = .ok (ib, d3) ∧ idx = (List.range x.m).map (fun i => at_ ib (2 * i) 2)) →
      (¬ (x.kind = 2 ∧ x.mg = 2) → idx = [] ∧ d3 = d2) →
      let outs := passOuts x p ra rb idx
      let from_ := fun (i j : Nat) => match tget c.acc (outKey i j) with
        | some a => a
        | none => if x.accin = true ∨ (0 < x.start ∧ ¬ (x.kind = 2 ∧ x.mg ≠ 3)) then readNat t.am (at' i j) esz else 0
      (∀ e ∈ c.acc, e.2 < 2 ^ (8 * esz)) → (∀ u ∈ outs, u.2.1 < 65536 ∧ u.2.1 * esz + esz ≤ x.cstr) →
      ∃ d' t', Becomes s (.matrixPass core) d' ∧ d'.mem = s.dev.mem ∧ tget d'.teams o.tid = some t' ∧
        (∀ u ∈ outs, readNat t'.am (at' u.1 u.2.1) esz = mxUpdate x.f (from_ u.1 u.2.1) u.2.2) ∧
        (∀ b, (∀ u ∈ outs, b < at' u.1 u.2.1 ∨ at' u.1 u.2.1 + esz ≤ b) → readByte t'.am b = readByte t.am b) ∧
        (total ≤ p + n → tget d'.ops c.op = none ∧ (tgetD d'.cores core default).mq = rest) ∧
        (p + n < total → tget d'.ops c.op = some o ∧ ∃ c', (tgetD d'.cores core default).mq = c' :: rest ∧ c' = { c with rprog := p + n, tok := false, acc := c'.acc } ∧
          ∀ u ∈ outs, tget c'.acc (outKey u.1 u.2.1) = some (mxUpdate x.f (from_ u.1 u.2.1) u.2.2))) ∧
    (∀ r, x.kind = 0 → x.a.src = 1 → 0 < x.m → p < x.k → ringOf s.dev o.tid x.a.ring = some r → slotSt r r.qix ≠ .committed →
      c.ra.have_ ≤ (p - x.start) / mxChunk x.f * x.m * x.a.stride + (x.m - 1) * x.a.stride →
      ∃ d' t' c', Becomes s (.matrixPass core) d' ∧ tget d'.teams o.tid = some t' ∧ t'.am = t.am ∧ (tgetD d'.cores core default).mq = c' :: rest ∧ c'.rprog = p ∧
        (tget d'.ops c.op).isSome = true))

/-- 11 R371 to R374, 17 R472 to R474: collective commands. A CX that is idle reads TAIL and HEAD (of a ring with no notice left: log 82):
a TAIL that the ring does not allow, a field or an RLIST entry against R472 halt with code 0x01 and the slot's address, a protection fault
with 0x04; else it waits from now on with its input read and its digest sent to its peers on this device. A digest of the partition's
scope joins the rest; one with the command's TAG and another field different halts with code 0x02; one of another scope is not taken. The
result: the merge of records is the same in every order of the ranks, the sum is the tree over rank indices (three ranks:
(a + b) + c), and each OP puts its runs of bytes at their offsets from DST. A CX sends the rest of its input to its peers, writes what
has come for every rank, and at the end writes CVAL to COMPL and then HEAD + 1, and is idle. One whose peer has sent nothing for WDP
cycles halts with cause 0x05 and code 0x03. How elements move in portions is log 31. -/
def Obligations.Collectives : Prop :=
  -- CX_COMMAND_START
  (∀ (s : State) (oct : Nat) (hb : List Byte) (d1 : Dev),
    let x := cxOf s.dev oct
    let ring := regBits s.dev (offCxbase oct) 6 50 * 64
    let slots := 2 ^ regBits s.dev (offCxbase oct) 56 8
    let tail := at_ hb 0 8
    let head := at_ hb 8 8
    let slot := ring + 64 + 64 * (head % slots)
    let halts := fun (code : Nat) => ∃ d', Becomes s (.cxCommandStart oct) d' ∧ cxOf d' oct = { x with dead := true } ∧ d'.mem = s.dev.mem ∧
      tgetD d'.events (octPn s.dev oct) [] = tgetD s.dev.events (octPn s.dev oct) [] ++
        [{ held := false, unit := 960 + 5 * oct + 2, kind := 3, cause := 1, detail := BitVec.ofNat 64 (code * 2 ^ 56 + slot % 2 ^ 56), cyc := s.dev.cyc }]
    regBits s.dev (offCxbase oct) 0 1 = 1 → cxRuns s.dev oct = true → x.st = .idle → x.tails = [] → cxRead s.dev oct ring 16 s.tick = .ok (hb, d1) →
    (tail < head ∨ head + slots < tail → halts 1) ∧
    (tail = head → ∃ d', Becomes s (.cxCommandStart oct) d' ∧ cxOf d' oct = x ∧ d'.events = s.dev.events ∧ d'.mem = s.dev.mem) ∧
    (∀ (bs : List Byte) (d2 : Dev), head < tail → tail ≤ head + slots → cxRead { d1 with cx := tput d1.cx oct x } oct slot 64 s.tick = .ok (bs, d2) →
      let op := at_ bs 0 4 % 4
      let dt := at_ bs 0 4 / 4 % 8
      let nrank := at_ bs 8 4
      let rank := at_ bs 12 4
      let len := at_ bs 32 8
      let sz := [64, 288, 4, 8, 2, 1].getD dt 1
      let bad := op = 3 ∨ 6 ≤ dt ∨ (dt = 5 ∧ op ≠ 1) ∨ nrank = 0 ∨ 288 < nrank ∨ nrank ≤ rank ∨ len % sz ≠ 0 ∨ (op = 2 ∧ len % (nrank * sz) ≠ 0)
      (bad → halts 1) ∧
      (∀ (rb : List Byte) (d3 : Dev), ¬ bad → cxRead d2 oct (at_ bs 40 8) (4 * nrank) s.tick = .ok (rb, d3) →
        let rs := (List.range nrank).map (fun i => at_ rb (4 * i) 4)
        let dev := fun (k : Nat) => rs.getD k 0 % 512
        let octOfRank := fun (k : Nat) => rs.getD k 0 / 256 % 16
        let badList := (∃ k, k < nrank ∧ (288 ≤ dev k ∨ 8 ≤ octOfRank k)) ∨ (∃ i j, i < j ∧ j < nrank ∧ rs.getD i 0 = rs.getD j 0) ∨
          dev rank ≠ regBits s.dev offDomid 0 9 ∨ octOfRank rank ≠ oct
        let own : Digest := { tag := at_ bs 4 4, op := op, dt := dt, nrank := nrank, rank := rank, len := len, rlist := rs,
                              scope := BitVec.ofNat 16 (regBits s.dev (offPnet (octPn s.dev oct)) 32 16) }
        (badList → halts 1) ∧
        (∀ r va, ¬ badList → cxRead d3 oct (at_ bs 16 8) len s.tick = .error (.prot r va) → halts 4) ∧
        (∀ (input : List Byte) (d4 : Dev), ¬ badList → cxRead d3 oct (at_ bs 16 8) len s.tick = .ok (input, d4) →
          (∀ r va, cxBlocked d4 oct s.tick (parseCx bs) = some (.prot r va) → halts 4) ∧
          (cxBlocked d4 oct s.tick (parseCx bs) = none → cxSendErr d4 own = none →
            (∀ g ∈ x.digests, g.tag = own.tag → g.op = op ∧ g.dt = dt ∧ g.nrank = nrank ∧ g.len = len ∧ g.rlist = rs) →
            ∃ d', Becomes s (.cxCommandStart oct) d' ∧ d'.mem = s.dev.mem ∧
              cxOf d' oct = { x with st := .waiting s.dev.cyc, slot := slot, cmd := bs, own := some own, input := input, got := [], sent := 0, wrote := 0 } ∧
              ((∀ k, k < nrank → rs.getD k 0 < 4096) → ∀ q, q ≠ oct → (cxOf d' q).digests = (cxOf s.dev q).digests ++
                (if (∃ k, k < nrank ∧ dev k = regBits s.dev offDomid 0 9 ∧ octOfRank k = q) ∧ octAsg s.dev q = true ∧
                    (octPn s.dev q = octPn s.dev oct ∨ (own.scope ≠ 0#16 ∧ regBits s.dev (offPnet (octPn s.dev q)) 32 16 = own.scope.toNat))
                 then [own] else []))))))) ∧
  -- CX_DIGEST_RECEIVE
  (∀ (s : State) (oct : Nat) (g : Digest), octAsg s.dev oct = true → halted s.dev (octPn s.dev oct) = false → portOpen s.dev = true → regBits s.dev offDomid 10 1 = 1 →
    rankDev (g.rlist.getD g.rank 0) ≠ regBits s.dev offDomid 0 9 →
    let x := cxOf s.dev oct
    let scope := regBits s.dev (offPnet (octPn s.dev oct)) 32 16
    let differs := fun (o h : Digest) => h.tag = o.tag ∧ (h.op ≠ o.op ∨ h.dt ≠ o.dt ∨ h.nrank ≠ o.nrank ∨ h.len ≠ o.len ∨ h.rlist ≠ o.rlist)
    (scope = 0 ∨ g.scope.toNat ≠ scope → Becomes s (.cxDigestReceive oct g) s.dev) ∧
    (scope ≠ 0 → g.scope.toNat = scope → (∀ o, x.own = some o → ∀ h ∈ x.digests ++ [g], ¬ differs o h) →
      Becomes s (.cxDigestReceive oct g) { s.dev with cx := tput s.dev.cx oct { x with digests := x.digests ++ [g] } }) ∧
    (scope ≠ 0 → g.scope.toNat = scope → x.dead = false → (∃ o, x.own = some o ∧ differs o g) →
      ∃ d', Becomes s (.cxDigestReceive oct g) d' ∧ d' = { s.dev with events := d'.events, cx := d'.cx } ∧ cxOf d' oct = { x with digests := x.digests ++ [g], dead := true } ∧
        tgetD d'.events (octPn s.dev oct) [] = tgetD s.dev.events (octPn s.dev oct) [] ++
          [{ held := false, unit := 960 + 5 * oct + 2, kind := 3, cause := 1, detail := BitVec.ofNat 64 (2 * 2 ^ 56 + x.slot % 2 ^ 56), cyc := s.dev.cyc }])) ∧
  -- the result
  (∀ (dt : Nat) (xs ys : List (List Byte)), dt < 2 → List.Perm xs ys → cxReduce dt xs = cxReduce dt ys) ∧
  (∀ xs, cxReduce 0 xs = xs.foldl (exaMerge exa32) (List.replicate 64 0#8) ∧ cxReduce 1 xs = xs.foldl (exaMerge exa64) (List.replicate 288 0#8)) ∧
  (∀ r ∈ [(2, FC.fp32, 4), (3, .fp64, 8), (4, .bf16, 2)], ∀ (xs : List (List Byte)) (w : Nat) (a b c : Nat),
    let out := fun (v : Nat) => leBytes (canonNan r.2.1 v) r.2.2
    let plus := fun (v w : Nat) => (addElem .rne r.2.1 v w).1
    (xs.length ≤ 2 ^ w → w = 0 ∨ 2 ^ (w - 1) < xs.length →
      cxReduce r.1 xs = out (treeSum r.2.1 .rne w ((List.range (2 ^ w)).map (fun i => (xs[i]?).map leNat))).1) ∧
    (a < 256 ^ r.2.2 → b < 256 ^ r.2.2 → c < 256 ^ r.2.2 →
      cxReduce r.1 [leBytes a r.2.2] = out a ∧ cxReduce r.1 [leBytes a r.2.2, leBytes b r.2.2] = out (plus a b) ∧
      cxReduce r.1 [leBytes a r.2.2, leBytes b r.2.2, leBytes c r.2.2] = out (plus (plus a b) c))) ∧
  (∀ (o : Digest) (ins : List (List Byte)), ins.length = o.nrank → o.rank < o.nrank → o.len % [64, 288, 4, 8, 2, 1].getD o.dt 1 = 0 → (∀ bs ∈ ins, bs.length = o.len) →
    let sz := [64, 288, 4, 8, 2, 1].getD o.dt 1
    let n := o.len / sz
    let element := fun (e : Nat) => cxReduce o.dt (ins.map (fun bs => (bs.drop (e * sz)).take sz))
    (o.op = 0 → cxPieces o ins 0 n = [(0, (List.range n).flatMap element)]) ∧
    (o.op = 1 → cxPieces o ins 0 n = (List.range o.nrank).map (fun k => (k * o.len, ins.getD k []))) ∧
    (o.op = 2 → cxPieces o ins 0 n = [(0, (List.range (n / o.nrank)).flatMap (fun e => element (o.rank * (n / o.nrank) + e)))])) ∧
  -- CX_COMMAND_COMPLETE
  (∀ (s : State) (oct t : Nat) (o : Digest), cxRuns s.dev oct = true → (cxOf s.dev oct).st = .waiting t → (cxOf s.dev oct).own = some o →
    let x := cxOf s.dev oct
    let total := o.len / [64, 288, 4, 8, 2, 1].getD o.dt 1
    let dst := at_ x.cmd 24 8
    (x.sent < x.input.length → (∀ k, k < o.nrank → k ≠ o.rank → (digestOf x k).isSome = true) → cxSendErr s.dev o = none → cxAvail x o = x.wrote → x.wrote < total →
      (localPeers s.dev oct o).Nodup → ∃ d', Becomes s (.cxCommandComplete oct) d' ∧ d'.mem = s.dev.mem ∧ cxOf d' oct = { x with sent := x.input.length } ∧
        ∀ q ∈ localPeers s.dev oct o, tgetD (cxOf d' q).got o.rank [] = tgetD (cxOf s.dev q).got o.rank [] ++ x.input.drop x.sent) ∧
    (∀ d1, x.input.length ≤ x.sent → cxMoves x o = true → writePieces (octPn s.dev oct) oct dst s.tick (cxPieces o (cxInputs x o) x.wrote (cxAvail x o)) s.dev = .ok d1 →
      (cxAvail x o < total → x.wrote < cxAvail x o → ∃ d', Becomes s (.cxCommandComplete oct) d' ∧ d'.mem = d1.mem ∧
        cxOf d' oct = { cxOf d1 oct with st := .waiting s.dev.cyc, wrote := cxAvail x o }) ∧
      (∀ (hb : List Byte) (d2 d3 : Dev), cxAvail x o = total → at_ x.cmd 48 8 = 0 →
        let e := { d1 with cx := tput d1.cx oct { cxOf d1 oct with st := .written, wrote := total } }
        cxRead e oct (cxRing e oct + 8) 8 s.tick = .ok (hb, d2) →
        unitWriteWhole d2 (octPn e oct) (.octant oct) .leave (cxRing e oct + 8) (leBytes (at_ hb 0 8 + 1) 8) s.tick = .ok d3 →
        ∃ d', Becomes s (.cxCommandComplete oct) d' ∧ d'.mem = d3.mem ∧ (cxOf d' oct).st = .idle ∧ (cxOf d' oct).own = none))) ∧
  (∀ (s : State) (oct : Nat) (hb : List Byte) (d1 d2 d3 : Dev), cxRuns s.dev oct = true → (cxOf s.dev oct).st = .written →
    let p := octPn s.dev oct
    let compl := at_ (cxOf s.dev oct).cmd 48 8
    compl ≠ 0 → unitWriteWhole s.dev p (.octant oct) .leave compl (leBytes (at_ (cxOf s.dev oct).cmd 56 8) 8) s.tick = .ok d1 →
    cxRead d1 oct (cxRing d1 oct + 8) 8 s.tick = .ok (hb, d2) →
    unitWriteWhole d2 p (.octant oct) .leave (cxRing d2 oct + 8) (leBytes (at_ hb 0 8 + 1) 8) s.tick = .ok d3 →
    ∃ d', Becomes s (.cxCommandComplete oct) d' ∧ d'.mem = d3.mem ∧ d'.accepted = d3.accepted ∧ (cxOf d' oct).st = .idle ∧ (cxOf d' oct).own = none ∧
      (cxOf d' oct).input = [] ∧ (cxOf d' oct).tails = (cxOf d3 oct).tails) ∧
  -- CX_PEER_TIMEOUT
  (∀ (s : State) (oct t : Nat) (o : Digest), cxRuns s.dev oct = true → (cxOf s.dev oct).st = .waiting t → (cxOf s.dev oct).own = some o →
    cxMoves (cxOf s.dev oct) o = false → regBits s.dev offWdcfg 0 32 ≠ 0 → t + regBits s.dev offWdcfg 0 32 ≤ s.dev.cyc →
    ∃ d', Becomes s (.cxPeerTimeout oct) d' ∧ d' = { s.dev with events := d'.events, cx := d'.cx } ∧ cxOf d' oct = { cxOf s.dev oct with dead := true } ∧
      tgetD d'.events (octPn s.dev oct) [] = tgetD s.dev.events (octPn s.dev oct) [] ++
        [{ held := false, unit := 960 + 5 * oct + 2, kind := 3, cause := 5, detail := BitVec.ofNat 64 (3 * 2 ^ 56 + (cxOf s.dev oct).slot % 2 ^ 56), cyc := s.dev.cyc }])

/-! ## The dispatcher, graphs, galleys and draws (09 R320 to R335, 10 R336 to R352, 17 R462 to R466) -/

/-- 09 R320, R323, R328, 11 R367, 17 R464: a launch record enters its queue from the slot HEAD names; a descriptor is read once its record heads its
queue; a replay leaves its queue; a node's retirement is applied; a selection completes what is done and places the next cluster; a
graph that has stalled for WDP cycles raises code 0x0A. 09 R330, R331, 17 R466: FLUSH cycles without a commit make a batch of the ready records; a material team takes the first batches before
any queue is served; a reservation that has waited WDP cycles with nothing freed raises code 0x0C. -/
def Obligations.DispatcherAndGalleyEvents : Prop :=
  ((∀ (s : State) (p q : Nat), assigned s.dev p = true → halted s.dev p = false → q < 64 →
     regBits s.dev (offQptr p q) 16 8 ≠ regBits s.dev (offQptr p q) 0 8 → (queueOf s.dev p q).length < 256 →
     (tget s.dev.parts p).isSome = true →
     let head := regBits s.dev (offQptr p q) 16 8
     ∃ d', Becomes s (.launchRecordAccept p q) d' ∧ regBits d' (offQptr p q) 16 8 = (head + 1) % 256 ∧
       queueOf d' p q = queueOf s.dev p q ++ [parseRec (readBytes s.dev.bar2 (0x200000 * p + 0x4000 * q + 64 * head) 64) none] ∧
       d' = { s.dev with reg := d'.reg, parts := d'.parts }) ∧
   (∀ (s : State) (p q : Nat) (r : LaunchRec) (t : List LaunchRec), queueOf s.dev p q = r :: t → r.st = .unread → halted s.dev p = false →
     waiting s.dev (.head p q) = false →
     (∀ h d1, readHead s.dev p r s.tick = .ok (h, d1) → Becomes s (.descriptorRead p q) (putQueue d1 p q ({ r with st := h } :: t))) ∧
     (∀ code a, readHead s.dev p r s.tick = .error (.refuse code a) →
       Becomes s (.descriptorRead p q) (putQueue (tdFail s.dev p (servingOct s.dev p) (.head p q) (.refuse code a)) p q t))) ∧
   (∀ (s : State) (p q : Nat) (r : LaunchRec) (d1 : Dev), halted s.dev p = false → firstLaunch s.dev p s.tick = none →
     (turns s.dev p).find? (fun h => (tryHead s.dev p s.tick h).isSome) = some (q, r) → replayReady s.dev p q r = true →
     tryHead s.dev p s.tick (q, r) = some d1 →
     Becomes s (.graphReplay p q) d1 ∧
     ∀ hdr, r.st = .replay hdr → ∀ d2, replay (putQueue s.dev p q ((queueOf s.dev p q).drop 1)) p hdr r s.tick = (d2, none) → d1 = d2) ∧
   (∀ (s : State) (p run : Nat) (g : GraphRun), (tget s.dev.parts p).bind (fun x => tget x.runs run) = some g → halted s.dev p = false →
     g.dead = false → waiting s.dev (.graph p run) = false →
     (∀ i rest, g.retired = i :: rest → Becomes s (.graphNodeRetire p run) (retireNode s.dev p run g i s.tick)) ∧
     (g.retired = [] → g.left = 0 → Becomes s (.graphNodeRetire p run) (endRun s.dev p run g s.tick))) ∧
   (∀ (s : State) (p run t : Nat) (g : GraphRun), (tget s.dev.parts p).bind (fun x => tget x.runs run) = some g → g.stall = some t →
     regBits s.dev offWdcfg 0 32 ≠ 0 → t + regBits s.dev offWdcfg 0 32 ≤ s.dev.cyc → runStalled s.dev p run g = true → halted s.dev p = false →
     Becomes s (.graphStall p run) (modPart (tdRefuse s.dev p 0x0A g.hdr) p
       (fun x => { x with runs := tmod x.runs run (fun r => { r with stall := some s.dev.cyc }) }))) ∧
   (∀ (s : State) (p : Nat), assigned s.dev p = true → halted s.dev p = false → unitRuns s.dev p (unitOct (servingOct s.dev p) 0) = true →
     let d := enqueueWaiting (completeGrids s.dev p s.tick) p s.tick
     (firstLaunch d p s.tick = none → Becomes s (.tdSelect p) (selectQueue d p s.tick)) ∧
     (firstLaunch d p s.tick ≠ none → Becomes s (.tdSelect p) d))) ∧
  (∀ (s : State) (p : Nat), halted s.dev p = false →
     (∀ gal, (galley s.dev p gal).ready ≠ [] → (galley s.dev p gal).bad = false → waiting s.dev (.galley p gal) = false →
       (∀ y d1, galDesc s.dev p gal s.tick = .ok (y, d1) → (galley s.dev p gal).lastCommit + y.flush ≤ s.dev.cyc →
         Becomes s (.galleyFlush p gal) (modPart d1 p (fun q => { q with galleys := tput q.galleys gal (closeBatch (galley d1 p gal)) }))) ∧
       (∀ x : Galley, x.ready ≠ [] → closeBatch x = { x with ready := [], batches := x.batches ++ [{ idxs := x.ready, tid := none, freed := false }] }) ∧
       (∀ e, galDesc s.dev p gal s.tick = .error e → Becomes s (.galleyFlush p gal) (galFail s.dev p gal e))) ∧
     (∀ gal y k arg exts place d1, firstLaunch s.dev p s.tick = some (.go gal y k arg exts place d1) →
       Becomes s (.galleyBatchLaunch p) (launchBatches d1 p gal y k arg exts place s.tick)) ∧
     (∀ d1, firstLaunch s.dev p s.tick = some (.fail d1) → Becomes s (.galleyBatchLaunch p) d1) ∧
     (∀ gal t, (galley s.dev p gal).waitSince = some t → regBits s.dev offWdcfg 0 32 ≠ 0 → t + regBits s.dev offWdcfg 0 32 ≤ s.dev.cyc →
       (galley s.dev p gal).lastFree + regBits s.dev offWdcfg 0 32 ≤ s.dev.cyc →
       Becomes s (.galleyStall p gal) (tdRefuse (putGalley s.dev p gal { galley s.dev p gal with waitSince := none }) p 0x0C (galAddr s.dev p gal))))

/-- 08 R298, 10 R340 to R344, R348, R351, R352: what the rasteriser and the classify engines compute. A vertex is dropped or takes its
fixed-point place, rounded to the nearest integer with ties to even; the next triangle is read over the tables of R298, and dropped,
culled, or taken with its identifier, slot, record and blocks. The value of an edge at a pixel centre is its side of the line less 1
unless the edge is left or top; the three sides add up to the area; two triangles that share an edge never both cover a centre. The
record holds the edges and the plane through the three points. The blocks are those of R344 in row-major order, and every
block that holds a covered sample is one of them. A tile's scan takes each sample once, in the place of R348. A sample's class, the
classes of an entry in order of first appearance, their galleys, and the fields of their records and of a pad. -/
def Obligations.RasterAndClassify : Prop :=
  -- vertices and triangles
  (∀ q : Rat, let n : Rat := rneInt q
    n - q ≤ 1 / 2 ∧ q - n ≤ 1 / 2 ∧ (n - q = 1 / 2 ∨ q - n = 1 / 2 → rneInt q % 2 = 0)) ∧
  (∀ (vw vh : Nat) (bs : List Byte),
    let c := fun (i : Nat) => at_ bs (4 * i) 4
    let q := fun (i : Nat) => q32 (c i)
    let x := rneInt ((q 0 / q 3 + 1) * (vw : Rat) / 2 * 256)
    let y := rneInt ((1 - q 1 / q 3) * (vh : Rat) / 2 * 256)
    let z := r32 (q 2 / q 3)
    let out := (∃ i, i < 4 ∧ fin32 (c i) = false) ∨ q 3 ≤ 0 ∨ fin32 z = false ∨ q32 z < 0 ∨ 1 < q32 z ∨ x < -4194304 ∨ 4194304 ≤ x ∨ y < -4194304 ∨ 4194304 ≤ y
    (out → screenVert vw vh bs = none) ∧ (¬ out → screenVert vw vh bs = some { x := x, y := y, z := z })) ∧
  (∀ (w : Draw) (m : Nat → Byte),
    let lw := natOn m (w.d.list + 8 * w.li) 8
    let e : ListEntry := { inst := lw % 2 ^ 24, clus := lw / 2 ^ 24 % 2 ^ 28, ntri := lw / 2 ^ 52 % 2 ^ 8 + 1 }
    let ent := w.d.itab + 32 * e.inst
    let cent := natOn m ent 8 + 16 * e.clus
    let tw := natOn m (cent + 8) 8 + 4 * w.tri
    let vs := 16 + 16 * ((natOn m (ent + 12) 4 / 2 ^ 16 % 32 + 3) / 4)
    let vert := fun (i : Nat) => screenVert w.d.vw w.d.vh (bytesOn m (natOn m cent 8 + vs * natOn m (tw + i) 1) 16)
    (w.d.ninst ≤ e.inst ∨ natOn m (ent + 8) 4 ≤ e.clus → EndsIn m (triScript w) (takeTri w e none)) ∧
    (e.inst < w.d.ninst → e.clus < natOn m (ent + 8) 4 →
      ((vert 0 = none ∨ vert 1 = none ∨ vert 2 = none) → EndsIn m (triScript w) (takeTri w e none)) ∧
      ∀ a b c, vert 0 = some a → vert 1 = some b → vert 2 = some c → EndsIn m (triScript w) (takeTri w e (some [a, b, c])))) ∧
  (∀ (w : Draw) (e : ListEntry) (vs : Option Tri),
    let v := takeTri w e vs
    let area := fun (t : Tri) => (vx t 1 - vx t 0) * (vy t 2 - vy t 0) - (vx t 2 - vx t 0) * (vy t 1 - vy t 0)
    let kept := v.n = w.n ∧ v.ident = w.ident ∧ v.slot = w.slot ∧ v.setup = w.setup ∧ v.blocks = w.blocks
    v.tris = w.tris + 1 ∧ v.nblocks = w.nblocks ∧ (w.tri + 1 < e.ntri → v.li = w.li ∧ v.tri = w.tri + 1) ∧ (e.ntri ≤ w.tri + 1 → v.li = w.li + 1 ∧ v.tri = 0) ∧
    (vs = none → v.dropped = w.dropped + 1 ∧ v.culled = w.culled ∧ kept) ∧
    (∀ t, vs = some t → v.dropped = w.dropped ∧
      (area t = 0 ∨ (w.d.cull = 1 ∧ area t < 0) ∨ (w.d.cull = 2 ∧ 0 < area t) → v.culled = w.culled + 1 ∧ kept) ∧
      (¬ (area t = 0 ∨ (w.d.cull = 1 ∧ area t < 0) ∨ (w.d.cull = 2 ∧ 0 < area t)) → v.culled = w.culled ∧ v.n = w.n + 1 ∧ v.slot = w.n % w.d.nsu ∧
        v.ident = e.inst * 2 ^ 40 + e.clus * 2 ^ 12 + w.tri * 2 ^ 4 + (if 0 < area t then 1 else 2) ∧
        v.setup = setupRecord t ∧ v.blocks = triBlocks t w.d.vw w.d.vh))) ∧
  -- edges, plane and record
  (∀ (t : Tri), t.length = 3 →
    let area := (vx t 1 - vx t 0) * (vy t 2 - vy t 0) - (vx t 2 - vx t 0) * (vy t 1 - vy t 0)
    let sg : Int := if 0 < area then 1 else -1
    let A := fun (i : Nat) => sg * (vy t ((i + 1) % 3) - vy t ((i + 2) % 3))
    let B := fun (i : Nat) => sg * (vx t ((i + 2) % 3) - vx t ((i + 1) % 3))
    let side := fun (i : Nat) (x y : Int) => A i * (x - vx t ((i + 1) % 3)) + B i * (y - vy t ((i + 1) % 3))
    let tied := fun (i : Nat) => 0 < A i ∨ (A i = 0 ∧ 0 < B i)
    let value := fun (i : Nat) (px py : Int) => (triEdge t i).2.2 + (triEdge t i).1 * px + (triEdge t i).2.1 * py
    (∀ px py : Int, side 0 px py + side 1 px py + side 2 px py = sg * area) ∧
    (∀ i, i < 3 → (triEdge t i).1 = 256 * A i ∧ (triEdge t i).2.1 = 256 * B i ∧ ∀ px py : Int,
      value i px py = side i (256 * px + 128) (256 * py + 128) - (if tied i then 0 else 1) ∧
      (0 ≤ value i px py ↔ 0 < side i (256 * px + 128) (256 * py + 128) ∨ (side i (256 * px + 128) (256 * py + 128) = 0 ∧ tied i))) ∧
    (area ≠ 0 → ∃ zx zy z0 : Rat, triPlane t = (r32 zx, r32 zy, r32 z0) ∧
      ∀ i, i < 3 → vz t i = z0 + zx * ((vx t i : Rat) / 256 - 1 / 2) + zy * ((vy t i : Rat) / 256 - 1 / 2)) ∧
    ((∀ i, i < 3 → -4194304 ≤ vx t i ∧ vx t i < 4194304 ∧ -4194304 ≤ vy t i ∧ vy t i < 4194304) →
      let rec_ := setupRecord t
      rec_.length = 64 ∧ (∀ i, i < 3 → (BitVec.ofNat 32 (at_ rec_ (8 * i) 4)).toInt = (triEdge t i).1 ∧ (BitVec.ofNat 32 (at_ rec_ (8 * i + 4) 4)).toInt = (triEdge t i).2.1 ∧
        (BitVec.ofNat 64 (at_ rec_ (24 + 8 * i) 8)).toInt = (triEdge t i).2.2) ∧
      at_ rec_ 48 4 = (triPlane t).1 ∧ at_ rec_ 52 4 = (triPlane t).2.1 ∧ at_ rec_ 56 4 = (triPlane t).2.2 ∧ at_ rec_ 60 4 = 0) ∧
    -- blocks
    (∀ (vw vh x y : Nat),
      (triBlocks t vw vh).Pairwise (fun a b => a.2 < b.2 ∨ (a.2 = b.2 ∧ a.1 < b.1)) ∧
      ((x, y) ∈ triBlocks t vw vh ↔ x % 8 = 0 ∧ y % 8 = 0 ∧ x + 8 ≤ vw ∧ y + 8 ≤ vh ∧
        (∃ i, i < 3 ∧ vx t i < 256 * ((x : Int) + 8)) ∧ (∃ i, i < 3 ∧ 256 * (x : Int) ≤ vx t i) ∧
        (∃ i, i < 3 ∧ vy t i < 256 * ((y : Int) + 8)) ∧ (∃ i, i < 3 ∧ 256 * (y : Int) ≤ vy t i) ∧
        ∀ i, i < 3 → ∃ cx ∈ [x, x + 8], ∃ cy ∈ [y, y + 8],
          0 ≤ 2 * (triEdge t i).2.2 + (triEdge t i).1 * (2 * (cx : Int) - 1) + (triEdge t i).2.1 * (2 * (cy : Int) - 1))) ∧
    (∀ (vw vh px py : Nat) (ox oy : Int), area ≠ 0 → vw % 8 = 0 → vh % 8 = 0 → px < vw → py < vh → -8 ≤ ox → ox ≤ 7 → -8 ≤ oy → oy ≤ 7 →
      (∀ i, i < 3 → 0 ≤ 16 * value i px py + (triEdge t i).1 * ox + (triEdge t i).2.1 * oy) → (px / 8 * 8, py / 8 * 8) ∈ triBlocks t vw vh)) ∧
  (∀ (u v p q : ScreenVert) (px py : Int),
    let value := fun (t : Tri) => (triEdge t 0).2.2 + (triEdge t 0).1 * px + (triEdge t 0).2.1 * py
    (0 < triArea [p, u, v] ∧ 0 < triArea [q, v, u]) ∨ (triArea [p, u, v] < 0 ∧ triArea [q, v, u] < 0) → ¬ (0 ≤ value [p, u, v] ∧ 0 ≤ value [q, v, u])) ∧
  -- tiles, classes and records
  (∀ (w : DrawDesc) (t : Tile) (lx ly k : Nat), 0 < w.spp →
    let place := (32 * (t.idx % w.tw) + lx, 32 * (t.idx / w.tw) + ly, (((ly / 8 * 4 + lx / 8) * 64 + (ly % 8) * 8 + lx % 8) * w.spp + k) * 16)
    (lx < 32 → ly < 32 → k < w.spp → ∃ n c, n < 256 * w.spp ∧ c < 4 ∧ samplePlace w { t with scan := n } c = place) ∧
    (∀ n c, n < 256 * w.spp → c < 4 → lx < 32 → ly < 32 → k < w.spp → samplePlace w { t with scan := n } c = place →
      n = ((ly / 8 * 4 + lx / 8) * 16 + ly % 8 / 2 * 4 + lx % 8 / 2) * w.spp + k ∧ c = ly % 2 * 2 + lx % 2)) ∧
  (∀ (d : Dev) (p oct va v fi : Nat) (w : DrawDesc) (g : GalSet),
    let kind := v % 16
    let inst := v / 2 ^ 40 % 2 ^ 24
    (kind ≠ 1 ∧ kind ≠ 2 → classOf d p oct w g va v fi = .ok (if w.missrec = true then some 0xFFFF else none, d)) ∧
    (kind = 1 ∨ kind = 2 → g.ninst ≤ inst → classOf d p oct w g va v fi = .error (.prot 0x2E va)) ∧
    (∀ bs d1, kind = 1 ∨ kind = 2 → inst < g.ninst → unitRead d p (.octant oct) (g.itab + 32 * inst + 12) 2 fi = .ok (bs, d1) →
      classOf d p oct w g va v fi = .ok (some (at_ bs 0 2), d1))) ∧
  (∀ (d : Dev) (p oct m fi : Nat) (g : GalSet), (m = 0xFFFF ∨ g.nmat ≤ m → classGalley d p oct g m fi = .ok (g.missg, d)) ∧
    (∀ bs d1, m ≠ 0xFFFF → m < g.nmat → unitRead d p (.octant oct) (g.gtab + 2 * m) 2 fi = .ok (bs, d1) → classGalley d p oct g m fi = .ok (at_ bs 0 2, d1))) ∧
  (∀ (t : Tile) (xs : List QuadSample) (x : QuadSample),
    let classes := fun (ys : List QuadSample) => entryClasses { t with samples := ys }
    classes [] = [] ∧ classes (xs ++ [x]) = match x.cls with
      | none => classes xs
      | some m => if m ∈ classes xs then classes xs else classes xs ++ [m]) ∧
  (∀ (w : DrawDesc) (t : Tile) (m i : Nat), m < 65536 → t.idx < 2 ^ 24 → t.scan % w.spp < 16 →
    let rs := quadRecords w t m
    rs.length = t.samples.length ∧ (at_ (padRecord t m) 0 8 = 0 ∧ at_ (padRecord t m) 8 8 = 0 ∧ at_ (padRecord t m) 16 8 = 0 ∧ at_ (padRecord t m) 24 4 = m + 2 ^ 17 ∧
      at_ (padRecord t m) 28 4 = t.idx * 256) ∧
    (∀ x, t.samples[i]? = some x → x.px < 65536 → x.py < 65536 → x.val < 2 ^ 128 →
      ∃ r helper, rs[i]? = some (r, helper) ∧ helper = decide (x.cls ≠ some m) ∧ r.length = 32 ∧
        at_ r 12 8 = 0 ∧ at_ r 20 4 = x.py * 65536 + x.px ∧ at_ r 24 4 = m + (if helper = true then 2 ^ 17 else 0) ∧ at_ r 28 4 = t.idx * 256 + t.scan % w.spp ∧
        (x.cls = some m → at_ r 0 8 = x.val % 2 ^ 64 ∧ at_ r 8 4 = x.val / 2 ^ 64 % 2 ^ 32) ∧
        (∀ (j : Nat) (y : QuadSample), x.cls ≠ some m → t.samples[j]? = some y → y.cls = some m → (∀ (k : Nat) (z : QuadSample), k < j → t.samples[k]? = some z → z.cls ≠ some m) →
          at_ r 0 8 = y.val % 2 ^ 64 ∧ at_ r 8 4 = y.val / 2 ^ 64 % 2 ^ 32)))

/-- 10 R336 to R352, 17 R462, R468: draws. OPEN refuses a set that shares a byte with a tile of the directory (code 0x06) or finds no room in a slice
(0x05); else it sets every byte of the set's tiles to 0 and no other, and enters each as OPEN with LATE 0. CLOSE waits for the raster draws on its
set; it closes every tile of an OPEN set, else 0x06. RELEASE, once tiles whose last records are freed in its cycle are SHADED, zeroes
every tile and frees its entry, and LATE stays with the CLOSE; else 0x06. RASTER: a set-up record goes to its slot once the slot is freed; a block record
is reserved, written and committed; then the next triangle comes (what it is: RasterAndClassify). A draw whose work is done, and only such a draw,
writes its status block, then CVAL after what the adapter has accepted, and leaves; a node's draw is retired in its run. A CLE takes the
first closed tile of its octant: an INST out of range is context-fatal 0x2E; pads bring the galley to a multiple of 4, four records
are reserved and committed together, and the last quad makes the tile CLASSIFIED, or SHADED where no record is left. -/
def Obligations.DrawEvents : Prop :=
  ∀ (s : State) (id : Nat) (w : Draw), tget s.dev.draws id = some w → halted s.dev w.part = false →
    let p := w.part
    let refused := fun (ev : Instr) (e : Dev) (code : Nat) => ∃ d', Becomes s ev d' ∧ tget d'.draws id = none ∧ d'.mem = e.mem ∧ d'.tiles = e.tiles ∧
      tgetD d'.events p [] = tgetD e.events p [] ++
        [{ held := false, unit := 960 + 5 * servingOct e p, kind := 3, cause := 8, detail := BitVec.ofNat 64 (code * 2 ^ 56 + w.d.addr % 2 ^ 56), cyc := e.cyc }]
    let size := min (16384 * w.d.spp) 65536
    let zeroed := fun (m m' : Memory) (tiles : List (List Nat)) => ∀ a, ((∃ pas ∈ tiles, ∃ b ∈ pas, b ≤ a ∧ a < b + size) → readByte m' a = 0#8) ∧
      ((∀ pas ∈ tiles, ∀ b ∈ pas, a < b ∨ b + size ≤ a) → readByte m' a = readByte m a)
    -- OPEN and CLOSE
    (∀ tiles d1, w.took = false → waiting s.dev (.draw id) = false → setPas s.dev p w.d s.tick = .ok (tiles, d1) → (tiles.map tileKey).Nodup →
      let keys := tiles.map tileKey
      let meets := ∃ x ∈ s.dev.tiles, ∃ pas ∈ tiles, ∃ a ∈ pas, ∃ b ∈ x.2.pas, ∃ y, a ≤ y ∧ y < a + size ∧ b ≤ y ∧ y < b + min x.2.size 65536
      let clear := ∀ x ∈ s.dev.tiles, ∀ pas ∈ tiles, ∀ a ∈ pas, ∀ b ∈ x.2.pas, a + size ≤ b ∨ b + min x.2.size 65536 ≤ a
      let room := ∀ k, k < 48 → (s.dev.tiles.filter (fun t => t.2.slice == k)).length + (keys.filter (fun a => homeSlice a == k)).length ≤ 4096
      (w.d.op = 1 → (meets → refused (.drawOpen id) s.dev 0x06) ∧ (clear → ¬ room → refused (.drawOpen id) s.dev 0x05) ∧
        (clear → room → ∃ d', Becomes s (.drawOpen id) d' ∧ zeroed s.dev.mem d'.mem tiles ∧ tget d'.draws id = some { w with took := true, keys := keys, set := keys } ∧
          (∀ i pas, tiles[i]? = some pas → ∃ t, tget d'.tiles (tileKey pas) = some t ∧ t.part = p ∧ t.idx = i ∧ t.pas = pas ∧ t.size = 16384 * w.d.spp ∧ t.st = .opened ∧
            t.cnt = 0 ∧ t.late = 0 ∧ t.slice = homeSlice (tileKey pas) ∧ t.dead = false) ∧
          ∀ k, k ∉ keys → tget d'.tiles k = tget s.dev.tiles k)) ∧
      (w.d.op = 2 → (∀ x ∈ s.dev.draws, ¬ (x.2.part = p ∧ x.2.d.op = 0 ∧ x.2.d.tset = w.d.tset)) →
        ((∃ k ∈ keys, ∀ t, tget s.dev.tiles k = some t → t.st ≠ .opened) → refused (.drawClose id) s.dev 0x06) ∧
        ((∀ k ∈ keys, ∃ t, tget s.dev.tiles k = some t ∧ t.st = .opened) → ∃ d', Becomes s (.drawClose id) d' ∧ d'.mem = s.dev.mem ∧
          tget d'.draws id = some { w with took := true, keys := keys, set := keys } ∧ (∀ k, k ∉ keys → tget d'.tiles k = tget s.dev.tiles k) ∧
          ∀ i k t, keys[i]? = some k → tget s.dev.tiles k = some t → ∃ t', tget d'.tiles k = some t' ∧ t' = { t with
            st := .closed, idx := i, cnt := 0, scan := 0, samples := [], todo := [], gal := none, resv := [], full := none }))) ∧
    (w.d.op = 2 → (∃ x ∈ s.dev.draws, x.2.part = p ∧ x.2.d.op = 0 ∧ x.2.d.tset = w.d.tset) → Becomes s (.drawClose id) s.dev) ∧
    -- RELEASE
    (let e := retireMaterial s.dev p s.tick
     ∀ tiles d1, w.d.op = 3 → w.took = false → waiting s.dev (.draw id) = false → setPas e p w.d s.tick = .ok (tiles, d1) → tget e.draws id = some w →
      let keys := tiles.map tileKey
      ((∃ k ∈ keys, ∀ t, tget e.tiles k = some t → t.st ≠ .shaded) → refused (.drawRelease id) e 0x06) ∧
      ((∀ k ∈ keys, ∃ t, tget e.tiles k = some t ∧ t.st = .shaded) → ∃ d', Becomes s (.drawRelease id) d' ∧ zeroed e.mem d'.mem tiles ∧
        (tget d'.draws id).map (fun v => (v.took, v.keys)) = some (true, []) ∧ (∀ k, tget d'.tiles k = if k ∈ keys then none else tget e.tiles k) ∧
        ∀ i v, i ≠ id → tget e.draws i = some v → ∃ v', tget d'.draws i = some v' ∧ v' = { v with
          set := v.set.filter (fun k => !keys.contains k)
          late := v.late + ((v.set.filter (fun k => keys.contains k)).map (fun k => ((tget e.tiles k).map (fun t => t.late)).getD 0)).foldl (· + ·) 0 })) ∧
    -- RASTER
    (∀ ev, rasterOpen s.dev id w = true → (ev = .drawRaster id ∧ w.slotWait = false ∧ w.full = false ∧ w.setup ≠ []) ∨ (ev = .setupSlotResume id ∧ w.slotWait = true) →
      let freed := ∀ i, tget w.slots w.slot = some i → i < (galley s.dev p w.d.rgal).fre
      (¬ freed → ∃ d', Becomes s ev d' ∧ d'.mem = s.dev.mem ∧ tget d'.draws id = some { w with slotWait := true }) ∧
      (∀ d1, freed → unitWriteWhole s.dev p (.octant w.oct) .leave (w.d.subase + 64 * w.slot) w.setup s.tick = .ok d1 →
        ∃ d', Becomes s ev d' ∧ d'.mem = d1.mem ∧ tget d'.draws id = some { w with setup := [], slotWait := false, slots := tdel w.slots w.slot })) ∧
    (rasterOpen s.dev id w = true → w.slotWait = false → w.full = false → w.setup = [] →
      (∀ b rest, w.blocks = b :: rest →
        (∀ d1, reserveRec s.dev p w.d.rgal none s.tick = .full d1 → ∃ d', Becomes s (.drawRaster id) d' ∧ d'.mem = s.dev.mem ∧ tget d'.draws id = some { w with full := true }) ∧
        (∀ i g d1 d2, reserveRec s.dev p w.d.rgal none s.tick = .got i g d1 →
          writeRec d1 p (.octant w.oct) .leave g i (leBytes w.ident 8 ++ List.replicate 12 0#8 ++ leBytes (b.2 * 65536 + b.1) 4 ++ leBytes 0xFFFE 4 ++ leBytes w.slot 4)
            (List.replicate 32 0#8) s.tick = .ok d2 →
          ∃ d', Becomes s (.drawRaster id) d' ∧ d'.mem = d2.mem ∧
            tget d'.draws id = some { w with blocks := rest, nblocks := w.nblocks + 1, open_ := w.open_ ++ [i], slots := tput w.slots w.slot i, full := false } ∧
            galley d' p w.d.rgal = commitRec { galley d2 p w.d.rgal with blocks := tput (galley d2 p w.d.rgal).blocks i id } i s.dev.cyc)) ∧
      (w.blocks = [] → w.d.nlist ≤ w.li → ∃ d', Becomes s (.drawRaster id) d' ∧ d'.mem = s.dev.mem ∧ tget d'.draws id = some { w with took := true }) ∧
      (∀ v d1, w.blocks = [] → w.li < w.d.nlist → rasterTri s.dev w s.tick = .ok (v, d1) → ∃ d' v', Becomes s (.drawRaster id) d' ∧ tget d'.draws id = some v' ∧
        v' = { v with setup := v'.setup, slotWait := v'.slotWait, slots := v'.slots, dead := v'.dead } ∧ (v.setup = [] → v' = v ∧ d'.mem = s.dev.mem))) ∧
    -- retirement
    (waiting s.dev (.draw id) = false →
      let done := w.took = true ∧ w.dead = false ∧
        (w.d.op = 0 → w.open_ = [] ∧ (∀ i ∈ w.rast, tget s.dev.groups i = none) ∧ ∀ i ∈ w.teams, ∀ t, tget s.dev.teams i = some t → t.st = .retired) ∧
        (w.d.op = 2 → w.keys = []) ∧
        (w.compl ≠ 0 → (hostOpen s.dev = true ∨ s.dev.accepted = []) ∧ (w.d.op = 0 → ∀ o ∈ s.dev.ops, o.2.gid ∉ w.rast) ∧ (w.d.op = 2 → ∀ o ∈ s.dev.ops, o.2.tid ∉ w.teams))
      let late := w.late + (w.set.map (fun k => ((tget s.dev.tiles k).map (fun t => t.late)).getD 0)).foldl (· + ·) 0
      let status := (if w.d.op = 0 then [w.tris, w.dropped, w.culled, w.nblocks, 0, 0, 0, 0] else if w.d.op = 2 then [0, 0, 0, 0, late, w.recs, 0, 0]
        else List.replicate 8 0).flatMap (fun n => leBytes n 8)
      let gone := fun (f : Dev) => ∃ d', Becomes s (.drawRetire id) d' ∧ tget d'.draws id = none ∧ d'.mem = f.mem ∧ d'.host = f.host ∧ d'.accepted = f.accepted ∧
        (w.node = none → d'.parts = f.parts) ∧
        (∀ run i q r, w.node = some (run, i) → tget f.parts p = some q → tget q.runs run = some r →
          ∃ q' r', tget d'.parts p = some q' ∧ tget q'.runs run = some r' ∧ r' = { r with retired := r.retired ++ [i] })
      (¬ done → Becomes s (.drawRetire id) s.dev) ∧
      (∀ d1, done → (w.d.stat = 0 ∧ d1 = s.dev) ∨
          (w.d.stat ≠ 0 ∧ unitWriteWhole s.dev p (.octant (if w.d.op = 0 then w.oct else servingOct s.dev p)) .leave w.d.stat status s.tick = .ok d1) →
        (w.compl = 0 → gone d1) ∧
        (∀ d2, w.compl ≠ 0 → unitWriteWhole (landHost d1) p (.octant (servingOct d1 p)) .leave w.compl (leBytes w.cval.toNat 8) s.tick = .ok d2 → gone d2))) ∧
    -- classification
    (∀ (oct key : Nat) (t : Tile) (before after : List Nat), cleOpen s.dev id oct w = true → w.keys = before ++ key :: after → tget s.dev.tiles key = some t →
      t.st = .closed → t.slice / 6 = oct → (∀ k ∈ before, ∀ q, tget s.dev.tiles k = some q → q.st ≠ .closed ∨ q.slice / 6 ≠ oct) → t.full = none → t.dead = false →
      let ends := fun (m : Memory) (t' : Tile) (w' : Draw) => ∃ d', Becomes s (.cleClassifyTile id oct) d' ∧ d'.mem = m ∧ tget d'.tiles key = some t' ∧ tget d'.draws id = some w'
      let past := fun (x : Tile) => { x with scan := x.scan + 1, samples := [], todo := [], gal := none, full := none }
      let moves := fun (x : Tile) =>
        (x.scan + 1 < 256 * w.d.spp → ends s.dev.mem (past x) w) ∧
        (256 * w.d.spp ≤ x.scan + 1 → x.cnt ≠ 0 → ends s.dev.mem { past x with st := .classified } w) ∧
        (256 * w.d.spp ≤ x.scan + 1 → x.cnt = 0 → ends s.dev.mem { past x with st := .shaded } { w with keys := w.keys.filter (fun k => k != key) })
      (t.samples.length < 4 → ∀ gb d1, unitRead s.dev p (.octant oct) w.d.gset 32 s.tick = .ok (gb, d1) →
        (∀ t1 d2, takeSamples p oct w.d (parseGset gb) s.tick (4 - t.samples.length) t d1 = (t1, d2, none) → entryClasses t1 = [] → moves t1) ∧
        (∀ t1 d2 va, takeSamples p oct w.d (parseGset gb) s.tick (4 - t.samples.length) t d1 = (t1, d2, some (.prot 0x2E va)) → ∃ d', Becomes s (.cleClassifyTile id oct) d' ∧
          tget d'.tiles key = some { t1 with dead := true } ∧ tgetD d'.events p [] = tgetD s.dev.events p [] ++
            [{ held := false, unit := 960 + 5 * oct + 1, kind := 3, cause := 1, detail := BitVec.ofNat 64 (0x2E * 2 ^ 56 + va % 2 ^ 56), cyc := s.dev.cyc }])) ∧
      (4 ≤ t.samples.length → t.todo = [] → moves t) ∧
      (∀ (m gal : Nat) (rest : List Nat), t.samples.length = 4 → t.todo = m :: rest → t.gal = some gal →
        let rsv := (galley s.dev p gal).rsv
        (t.resv.length < 4 → ∀ d1, reserveRec s.dev p gal (some key) s.tick = .full d1 → ends s.dev.mem { t with full := some gal } w) ∧
        (t.resv = [] → rsv % 4 ≠ 0 → ∀ i y d1 d2, reserveRec s.dev p gal (some key) s.tick = .got i y d1 →
          writeRec d1 p (.octant oct) .leave y i (padRecord t m) (List.replicate 32 0#8) s.tick = .ok d2 →
          ends d2.mem { t with cnt := t.cnt + 1 } { w with recs := w.recs + 1 }) ∧
        (t.resv.length < 4 → t.resv ≠ [] ∨ rsv % 4 = 0 → ∀ i y d1, reserveRec s.dev p gal (some key) s.tick = .got i y d1 →
          ends s.dev.mem { t with resv := t.resv ++ [i] } w) ∧
        (t.resv.length = 4 → ∀ y d1 d2, galDesc s.dev p gal s.tick = .ok (y, d1) →
          writeRecs p oct y s.tick (t.resv.zip ((quadRecords w.d t m).map (fun r => r.1))) d1 = .ok d2 →
          ends d2.mem { t with resv := [], todo := rest, gal := none, cnt := t.cnt + 4 } { w with recs := w.recs + 4 })))

/-! ## Halts, errors, management and power (01 R30 to R34, 11 R361 to R378, 14, 17 R470 to R477) -/

/-- 14 R404 to R418: an event takes the next SEQ of its queue; a halting one of a partition that runs sets HALT, CAUSE, UNIT and PEND in HALTST and
raises vector 2p + 1, and of a halted one it is of KIND 4; a record is written where the queue is enabled and has room, else MISS
counts it. -/
def Obligations.EventsAreAccepted : Prop :=
  ∀ (s : State) (q idx : Nat) (e : Event), q ≤ 8 → eventNext s.dev q idx = some e →
    let d := s.dev
    let seq := tgetD d.seqs q 0
    let kind := if e.kind = 3 ∧ halted d q then 4 else e.kind
    let r := offEvq q + 8
    ∃ d', Becomes s (.eventAccept q idx) d' ∧ d'.mem = d.mem ∧ d'.groups = d.groups ∧ tgetD d'.seqs q 0 = seq + 1 ∧
      tgetD d'.events q [] = (tgetD d.events q []).eraseIdx idx ∧
      (kind = 3 → q < 8 →
        regGet d' (offHaltst q) = BitVec.ofNat 64 (2 ^ 63 + e.cause * 2 ^ 48 + e.unit * 2 ^ 32 + (unitsOf d q).length) ∧
        tgetD d'.msix (2 * q + 1) 0 = tgetD d.msix (2 * q + 1) 0 + 1) ∧
      (kind ≠ 3 → q < 8 → regGet d' (offHaltst q) = regGet d (offHaltst q)) ∧
      (regBits d r 0 1 = 0 → d'.host = d.host) ∧
      (regBits d r 0 1 = 1 → (regBits d r 16 8 + 1) % 256 ≠ regBits d r 8 8 →
        let rec_ := leBytes seq 8 ++ leBytes (kind + e.cause * 2 ^ 8 + e.unit * 2 ^ 16 + (if q < 8 then q * 2 ^ 32 else 0)) 8 ++
          leBytes e.detail.toNat 8 ++ leBytes e.cyc 8
        let slot := regBits d (offEvq q) 13 51 * 8192 + 32 * regBits d r 16 8
        (hostOpen d = true → d'.accepted = [] ∧ d'.host = writeBytes (d.accepted.foldl (fun m x => writeCells m x.1 x.2) d.host) slot rec_) ∧
        (hostOpen d = false → d'.host = d.host ∧ d'.accepted = d.accepted ++ [(slot, cellsOf rec_)]) ∧
        regBits d' r 16 8 = (regBits d r 16 8 + 1) % 256) ∧
      (regBits d r 0 1 = 1 → (regBits d r 16 8 + 1) % 256 = regBits d r 8 8 →
        d'.host = d.host ∧ regBits d' r 32 8 = lesser (regBits d r 32 8 + 1) 255)

/-- 14 R404, R407 to R412, 17 R471: a unit of a halted partition stops within its bound, and its stop record goes to its place in the stop area, with
PEND one less and DONE with the last; an aborted packet's credit returns; a watchdog that runs out raises cause 0x05, and the stop
watchdog counts its unit as failed. -/
def Obligations.StopsAndWatchdogs : Prop :=
  ∀ s : State,
    let d := s.dev
    let wdp := regBits d offWdcfg 0 32
    let posts := fun (x : Dev) (p unit : Nat) => { x with events := tput x.events p (tgetD x.events p [] ++
      [{ held := false, unit := unit, kind := 3, cause := 5, detail := 0, cyc := x.cyc }]) }
    (∀ u p q, unitPart d u = some p → halted d p = true → tget d.parts p = some q → tget q.stopped u = none → stopArea d p = true →
      ∃ d', Becomes s (.unitStop u) d' ∧ (tget d'.parts p).bind (fun q => tget q.stopped u) = some (lesser d.cyc (q.haltAt + stopBound u)) ∧
        d'.mem = d.mem ∧ d'.groups = d.groups) ∧
    (∀ u p q at_, unitPart d u = some p → halted d p = true → tget d.parts p = some q → tget q.stopped u = some at_ → u ∉ q.written → stopArea d p = true → d.cyc < q.haltAt + 12500 →
      let st := if u ∈ q.failed then 3 else if holdsWork d p u = true then 2 else 1
      let own := if regBits d (offHaltst p) 32 16 = u ∧ q.haltDet ≠ 0 ∧ regBits d (offHaltst p) 48 8 ≠ 4 then q.haltDet.toNat else (tget q.causes u).getD 0
      ∃ d', Becomes s (.stopRecordWrite u) d' ∧
        d'.mem = writeBytes d.mem (regBits d (offStopbase p) 7 45 * 128 + 128 * u) (leBytes (1 + st * 2 ^ 8 + u * 2 ^ 16) 8 ++
          leBytes q.haltSeq 8 ++ leBytes at_ 8 ++ leBytes own 8 ++ stopPayload d p u) ∧ (stopPayload d p u).length = 96 ∧
        regBits d' (offHaltst p) 0 16 = regBits d (offHaltst p) 0 16 - 1 ∧
        (regBits d (offHaltst p) 0 16 ≤ 1 → regBits d' (offHaltst p) 62 1 = 1)) ∧
    (∀ idx a, d.links.aborts[idx]? = some a →
      let chan := 32 * a.leaf + a.part
      let rest := d.links.aborts.eraseIdx idx
      let more := d.ops.any (fun q => channelOf q.2.core q.2.part == chan && q.2.accs.any (creditOut q.2)) || (tget d.links.flight chan).isSome ||
        rest.any (fun b => 32 * b.leaf + b.part == chan)
      Becomes s (.abortFlitReceive idx) { d with links := { d.links with
        aborts := rest, credit := if more = true then tput d.links.credit chan d.cyc else tdel d.links.credit chan } }) ∧
    (∀ u p t, tget d.progress u = some t → wdp ≠ 0 → t + wdp ≤ d.cyc → octOf d p (unitOctant u) = true → unitRuns d p u = true →
      Becomes s (.engineWatchdog u p) (posts { d with progress := tput d.progress u d.cyc } p u)) ∧
    (∀ leaf chan t, tget d.links.credit (32 * leaf + chan) = some t → t + 65536 ≤ d.cyc → chan < 16 → unitsOf d (chan % 8) ≠ [] →
      ∃ u ∈ unitsOf d (chan % 8), Becomes s (.creditWatchdog leaf chan)
        (posts { d with links := { d.links with credit := tdel d.links.credit (32 * leaf + chan) } } (chan % 8) u)) ∧
    (∀ u p, unitPart d u = some p → stopLate d p u = true →
      ∃ d' q', Becomes s (.stopWatchdog u) d' ∧ tget d'.parts p = some q' ∧ u ∈ q'.failed ∧ u ∈ q'.written ∧
        regBits d' (offHaltst p) 0 16 = regBits d (offHaltst p) 0 16 - 1 ∧ d'.mem = d.mem ∧
        d'.tests = d.tests ++ [{ queue := p, unit := u, struct_ := 0x0F, corrected := false, loc := 0, late := true }])

/-- 14 R401 to R403, R417 to R425: a corrected error changes no value and raises an event of KIND 0 with a self-test; a parity error drops its
entry; an uncorrectable one is a halting cause 0x04 of its partition, or KIND 6 outside any; a test that passes raises KIND 1 and counts
in TRANS; a link lane is retrained, and counted or withdrawn. The cause byte of the events that halt nothing (KIND 6 with cause 0x04, KIND 0 and 1 with cause 0) and the value kept where an error is uncorrectable are the model's reading (logs 59, 37). -/
def Obligations.ErrorEvents : Prop :=
  ∀ s : State,
    let d := s.dev
    let post := fun (x : Dev) (q unit kind cause : Nat) (w : DWord) => { x with events := tput x.events q (tgetD x.events q [] ++
      [{ held := false, unit := unit, kind := kind, cause := cause, detail := w, cyc := x.cyc }]) }
    (∀ u loc chan, d.pow.on = true → storageAt u loc = true →
      let q := errorQueue d u loc chan
      Becomes s (.correctedError u ⟨loc, chan⟩) (startTest (post d q u 0 0 loc) q u loc true)) ∧
    (∀ u c index, d.pow.on = true → parityAt u c = true → index < 2 ^ 32 →
      Becomes s (.parityError u c index) (post (dropEntry d u c index) ((unitPart d u).getD 8) u 0 0 (BitVec.ofNat 64 (2 ^ 63 + c * 2 ^ 32 + index)))) ∧
    (∀ u loc chan, d.pow.on = true → (storageAt u loc || residueAt u loc) = true →
      let q := errorQueue d u loc chan
      (q < 8 → Becomes s (.uncorrectableError u ⟨loc, chan⟩) (startTest (holdBad (post d q u 3 4 loc) u loc) q u loc false)) ∧
      (8 ≤ q → Becomes s (.uncorrectableError u ⟨loc, chan⟩) (startTest (post d 8 u 6 4 loc) q u loc false))) ∧
    (∀ idx t, d.tests[idx]? = some t → testReady d t = true →
      let d1 := { d with tests := d.tests.eraseIdx idx }
      (t.late = false → ∃ lo, lo ∈ [0, 16, 32, 48] ∧ (t.struct_ = 0xFF → isDram (t.loc.toNat % 2 ^ 52) = false → lo = 16) ∧
        (t.struct_ ≠ 0xFF → t.struct_ = 0x0E ∨ 1048 ≤ t.unit → lo = 48) ∧
        Becomes s (.structureSelfTestDone idx true) (countTrans (post d1 t.queue t.unit 1 0 t.loc) lo)) ∧
      (∃ up, (t.late = true → Becomes s (.structureSelfTestDone idx true) (testFails d1 t up)) ∧
        Becomes s (.structureSelfTestDone idx false) (testFails d1 t up))) ∧
    (∀ u lane, 2 ≤ d.pow.stage → laneWorks d u lane = true → (u, lane) ∉ d.links.retrain →
      Becomes s (.linkCrcError u lane) { d with links := { d.links with retrain := d.links.retrain ++ [(u, lane)] } } ∨
      Becomes s (.linkCrcError u lane) d) ∧
    (∀ u lane, (u, lane) ∈ d.links.retrain →
      let d1 := { d with links := { d.links with retrain := d.links.retrain.filter (fun x => x != (u, lane)) } }
      Becomes s (.retrainDone u lane true) (countTrans (post d1 8 u 1 0 (BitVec.ofNat 64 (3 * 2 ^ 62 + lane))) 48) ∧
      Becomes s (.retrainDone u lane false) (loseLane d1 u lane)) ∧
    (∀ lo, lo ∈ [0, 16, 32, 48] → regBits (countTrans d lo) offTrans lo 16 = lesser (regBits d offTrans lo 16 + 1) 0xFFFF)

/-- 01 R31 to R34, 11 R378: a command of OCTCMD before step 2 of bring-up is complete changes nothing and answers STATUS 1, whatever its OP
(the model's reading, log 40); an assignment sets ASG and
PNUM of its octants and creates the partition; a release gives up ASG and sets CLR in the same access, and halts a partition that is
not idle; the clearing ends with zeros in the octant's memory and CLR = 0. The events that wait at the partition's arbiter are accepted before the clearing, the model's reading (log 42). -/
def Obligations.AssignmentAndRelease : Prop :=
  ∀ (s : State) (v : Word), s.dev.pow.on = true →
    let d := s.dev
    let op := v.toNat / 2 ^ 12 % 4
    let pn := v.toNat / 2 ^ 8 % 8
    let os := (List.range 8).filter (fun o => v.getLsbD o)
    let reads := fun (x : Dev) (st : Nat) => regGet x offOctcmd = BitVec.ofNat 64 (st * 2 ^ 16 + op * 2 ^ 12 + pn * 2 ^ 8 + v.toNat % 256)
    (op = 0 ∨ op = 3 → ∃ d', Becomes s (.octcmdNone v) d' ∧ d' = { d with reg := d'.reg } ∧
      reads d' (if d.pow.stage < 2 then 1 else if op = 3 then 3 else 0)) ∧
    (op = 1 → ∃ d', Becomes s (.octcmdAssign v) d' ∧
      (d.pow.stage < 2 → d' = { d with reg := d'.reg } ∧ reads d' 1) ∧
      (2 ≤ d.pow.stage → os = [] → d' = { d with reg := d'.reg } ∧ reads d' 3) ∧
      (2 ≤ d.pow.stage → os ≠ [] → (∃ o ∈ os, octAsg d o = true ∨ octClr d o = true) → d' = { d with reg := d'.reg } ∧ reads d' 1) ∧
      (2 ≤ d.pow.stage → os ≠ [] → (∀ o ∈ os, octAsg d o = false ∧ octClr d o = false) → assigned d pn = true ∨ releasing d pn = true →
        d' = { d with reg := d'.reg } ∧ reads d' 2) ∧
      (2 ≤ d.pow.stage → os ≠ [] → (∀ o ∈ os, octAsg d o = false ∧ octClr d o = false) → assigned d pn = false → releasing d pn = false →
        reads d' 0 ∧ (∀ o, o < 8 → octAsg d' o = (octAsg d o || os.contains o)) ∧ (∀ o ∈ os, octPn d' o = pn) ∧
        (∃ q, tget d'.parts pn = some q ∧ q.octs = os ∧ q.queues = [] ∧ q.ptr = 0) ∧
        (∀ i, i < 64 → regGet d' (offQptr pn i) = 0#64) ∧ regGet d' (offSvcptr pn) = 0#64 ∧ d'.groups = d.groups)) ∧
    (op = 2 → ∃ d', Becomes s (.octcmdRelease v) d' ∧
      (d.pow.stage < 2 → d' = { d with reg := d'.reg } ∧ reads d' 1) ∧
      (2 ≤ d.pow.stage → assigned d pn = false → d' = { d with reg := d'.reg } ∧ reads d' 2) ∧
      (2 ≤ d.pow.stage → assigned d pn = true → reads d' 0 ∧
        (∀ o, o < 8 → octAsg d o = true → octPn d o = pn → octAsg d' o = false ∧ octPn d' o = 0 ∧ octClr d' o = true) ∧ d'.mem = d.mem)) ∧
    (∀ p q, tget d.parts p = some q → clearReady d p q = true →
      Becomes s (.releaseClear p) (applyLater (modPart (clearPart (acceptAll d p) p) p (fun q => clearedPart q d.cyc)) p)) ∧
    (∀ o p c, clearingPart d o = some (p, c) → octClr d o = true → o ∉ d.links.octLost → o < 8 → c + 50331648 ≤ d.cyc →
      ∃ d', Becomes s (.octantClearDone o) d' ∧ octClr d' o = false ∧
        ∀ x, readByte d'.mem x = if (0x480000000 * o ≤ x ∧ x < 0x480000000 * (o + 1)) ∨
          (0x4000000000 + 0x4000000 * o ≤ x ∧ x < 0x4000000000 + 0x4000000 * (o + 1)) then 0#8 else readByte d.mem x)

/-! ## The management block, power and the clock (01 R31, 03 R80, R84; 07 R258, R262; 11 R367 to R378, R487; 14; 17 R476, R477) -/

/-- 03 R80, R84, 07 R258, 11 R367, R370, R376, R487, 14 R408, R426, R427: what a write of the management block does. DSTORE and DOMID take
a value only where their rules allow one; TLBINV removes its partition's entries of the range and the walkers' copies on a walk to it, and stays BUSY until every access that
used one is complete; TAIL never moves back; a reply goes to s0 of the group that waits; HREQ halts its partition; GO starts a quote
or sets ERR; a write of other registers sets their RW fields, by half for 4 bytes. That the attestation key has 2^20 leaves is the model's inference (log 9). -/
def Obligations.ManagementWrites : Prop :=
  ∀ s : State, s.dev.pow.on = true →
    let d := s.dev
    (∀ (o : Nat) (v : DWord), o < 8 → ∃ d', Becomes s (.dstoreWrite o v) d' ∧ SetsReg d d' (offDstore o)
      (if octAsg d o = false ∧ octClr d o = false ∧ v.toNat % 64 ≤ 32 then BitVec.ofNat 64 (v.toNat % 64) else regGet d (offDstore o))) ∧
    (∀ v : DWord, (regBits d offTlbinv 63 1 = 1 → Becomes s (.tlbinvWrite v) d) ∧
      (regBits d offTlbinv 63 1 ≠ 1 →
        let pn := bits v.toNat 56 3
        let k := invBits (bits v.toNat 0 2)
        let va := if k = 56 then 0 else bits v.toNat 16 40 * 65536
        ∃ d', Becomes s (.tlbinvWrite v) d' ∧
          d' = { d with reg := d'.reg, inval := d'.inval, tlb := d'.tlb, copies := d'.copies, grids := d'.grids, cores := d'.cores, parts := d'.parts } ∧
          regBits d' offTlbinv 63 1 = 1 ∧ regBits d' offTlbinv 56 3 = pn ∧
          d'.tlb = d.tlb.filter (fun t => !(t.part == pn && stretchesMeet t.va (pageBits t.lvl) va k)) ∧
          d'.copies = d.copies.filter (fun t => !(t.part == pn && stretchesMeet t.va (pageBits t.lvl) va k)) ∧
          ∀ id, id ∈ d'.inval ↔ ∃ o, (id, o) ∈ d.ops ∧ o.part = pn ∧ ∃ a ∈ o.accs, stillGoes d o a = true ∧ accMeets a va k = true)) ∧
    (regBits d offTlbinv 63 1 = 1 → (∀ id ∈ d.inval, ∀ o, tget d.ops id = some o → ∀ a ∈ o.accs, stillGoes d o a = false) →
      ∃ d', Becomes s .tlbinvDone d' ∧ d'.inval = [] ∧ SetsField d { d' with inval := d.inval } offTlbinv 63 1 0) ∧
    (∀ (p q : Nat) (v : Byte), p < 8 → q < 64 →
      let head := regBits d (offQptr p q) 16 8
      let ahead := fun t => (t + 256 - head) % 256
      (ahead v.toNat < ahead (regBits d (offQptr p q) 0 8) → Becomes s (.qptrTailWrite p q v) d) ∧
      (ahead (regBits d (offQptr p q) 0 8) ≤ ahead v.toNat →
        ∃ d', Becomes s (.qptrTailWrite p q v) d' ∧ SetsField d d' (offQptr p q) 0 8 v.toNat)) ∧
    (∀ (p : Nat) (v : Byte) (gid : Nat) (g : Group), p < 8 → svcGroup d p v.toNat = some (gid, g) → tget d.groups gid = some g →
      let x := BitVec.ofNat 64 (readNat d.bar2 (0x200000 * p + 0x100000 + 64 * v.toNat + 48) 8)
      (halted d p = true → Becomes s (.svcrepWrite p v) d) ∧
      (halted d p = false → ∃ d' g', Becomes s (.svcrepWrite p v) d' ∧ d'.groups = tmod d.groups gid (fun _ => g') ∧
        g' = { g with s := g'.s, bound := { g.bound with svc := g.bound.svc.drop 1, svcSlot := none, empty := g.place == .evicted } } ∧
        (∀ n, readS g' n = if n = 0 then x else readS g n) ∧ d'.reg = d.reg ∧
        (g.place ≠ .evicted → (tgetD d'.cores g.core default).dc = [] ∧ d'.mem = d.mem) ∧
        (g.place = .evicted → d'.mem = writeBytes d.mem (imageAt d (teamPart d g.tid) g + 128) (leBytes x.toNat 8)))) ∧
    (∀ (p : Nat) (v : Byte), p < 8 → ∃ d', Becomes s (.svcptrHheadWrite p v) d' ∧ SetsField d d' (offSvcptr p) 0 8 v.toNat) ∧
    (∀ v : DWord, ∃ d', Becomes s (.domidWrite v) d' ∧ SetsReg d d' offDomid
      (if regBits d offDomid 10 1 = 1 ∧ v.toNat % 512 ≠ regBits d offDomid 0 9 then regGet d offDomid
       else v &&& 0x5FF#64)) ∧
    (∀ p : Nat, p < 8 → ∃ d', Becomes s (.hreqWrite p) d' ∧ d'.mem = d.mem ∧ d'.groups = d.groups ∧
      (assigned d p = true → halted d p = false → tgetD d'.msix (2 * p + 1) 0 = tgetD d.msix (2 * p + 1) 0 + 1 ∧
        regGet d' (offHaltst p) = BitVec.ofNat 64 (2 ^ 63 + 0x0C * 2 ^ 48 + 1067 * 2 ^ 32 + (unitsOf d p).length)) ∧
      (assigned d p = false ∨ halted d p = true → d' = d)) ∧
    (∀ v : DWord, v.getLsbD 3 = true →
      let pn := v.toNat % 8
      (regBits d offAttcmd 4 1 = 1 → Becomes s (.attcmdGo v) d) ∧
      (regBits d offAttcmd 4 1 ≠ 1 → ∃ d', Becomes s (.attcmdGo v) d' ∧ d' = { d with reg := d'.reg, pow := d'.pow } ∧ regBits d' offAttcmd 0 3 = pn ∧
        (assigned d pn = false ∨ 1048576 ≤ d.pow.leaf → regBits d' offAttcmd 5 1 = 1 ∧ d'.pow = d.pow) ∧
        (assigned d pn = true → d.pow.leaf < 1048576 → regBits d' offAttcmd 4 1 = 1 ∧ regBits d' offAttcmd 5 1 = 0 ∧
          d'.pow = { d.pow with quote := some (pn, nonceBytes d) }))) ∧
    (∀ pn nonce, d.pow.quote = some (pn, nonce) → ∃ d', Becomes s .quoteComplete d' ∧ d'.mem = d.mem ∧ d'.pow.quote = none ∧
      regBits d' offAttcmd 4 1 = 0 ∧ (regBits d' offAttcmd 5 1 ≠ 0 → d'.host = d.host ∧ d'.accepted = d.accepted) ∧
      (regBits d' offAttcmd 5 1 = 0 → d'.pow.leaf = d.pow.leaf + 1 ∧
        let quote := quoteBytes d pn d.pow.leaf nonce
        (hostOpen d = true → d'.accepted = [] ∧
          d'.host = writeBytes (d.accepted.foldl (fun m x => writeCells m x.1 x.2) d.host) (regGet d offAttdst).toNat quote) ∧
        (hostOpen d = false → d'.host = d.host ∧ d'.accepted = d.accepted ++ [((regGet d offAttdst).toNat, cellsOf quote)]))) ∧
    (∀ (reg : Nat) (v m : DWord), reg % 8 = 0 → rwMask reg = some m → m ≠ 0#64 → (∀ p, p < 8 → reg ≠ offGtbase p ∧ reg ≠ offFltq p + 8 ∧ reg ≠ offCxbase p) →
      let merge := fun (m : DWord) => (regGet d reg &&& ~~~m) ||| (v &&& m)
      (∃ d', Becomes s (.registerWrite reg v true) d' ∧ SetsReg d d' reg (merge m)) ∧
      (∃ d', Becomes s (.registerWrite reg v false) d' ∧ SetsReg d d' reg (merge (m &&& 0xFFFFFFFF#64))) ∧
      (∃ d', Becomes s (.registerWrite (reg + 4) (v >>> 32) false) d' ∧ SetsReg d d' reg (merge (m &&& 0xFFFFFFFF00000000#64)))) ∧
    (∀ (o : Nat) (v : DWord), o < 8 → ∃ d', Becomes s (.registerWrite (offCxbase o) v true) d' ∧ d' = { d with reg := d'.reg, cx := d'.cx } ∧
      SetsReg d { d' with cx := d.cx } (offCxbase o) ((regGet d (offCxbase o) &&& 0x3E#64) ||| (v &&& 0xFFFFFFFFFFFFFFC1#64)) ∧
      (v.getLsbD 0 = false ∨ cxRing d' o ≠ cxRing d o → cxOf d' o = { cxOf d o with tails := [] }) ∧
      (v.getLsbD 0 = true → cxRing d' o = cxRing d o → d'.cx = d.cx)) ∧
    (∀ (o p q : Nat) (v : DWord), o < 8 → p < 8 → q < 64 →
      exec (.registerWrite (offDstore o) v true) s = exec (.dstoreWrite o v) s ∧
      exec (.registerWrite offTlbinv v true) s = exec (.tlbinvWrite v) s ∧
      exec (.registerWrite offDomid v true) s = exec (.domidWrite v) s ∧
      exec (.registerWrite (offQptr p q) v true) s = exec (.qptrTailWrite p q (v.setWidth 8)) s ∧
      exec (.registerWrite (offSvcrep p) v true) s = exec (.svcrepWrite p (v.setWidth 8)) s ∧
      (v.getLsbD 61 = true → exec (.registerWrite (offHaltst p) v true) s = exec (.hreqWrite p) s) ∧
      exec (.registerWrite (offFltq o + 8) v true) s =
        exec (.fltqHheadWrite o (v.setWidth 11)) { s with dev := writePlain d (offFltq o + 8) v })

/-- 11 R487, 14 R413, R414, R423, 15 R437, 17 R470: a read of MISS, TRANS, REFUSE or NTCLOST's count returns the register and clears
what it counts; a read of DBGDATA returns the 8 bytes at DBGADDR where they lie in the octants of a halted partition, else 0; a read
where no register lies returns 0, and a write there is ignored. -/
def Obligations.ManagementReads : Prop :=
  ∀ s : State, s.dev.pow.on = true →
    let d := s.dev
    let reads := fun (i : Instr) (off lo len : Nat) =>
      ∃ d', Becomes s i d' ∧ d'.readOut = regGet d off ∧ SetsField d { d' with readOut := d.readOut } off lo len 0
    (∀ q, q < 9 → reads (.evqMissRead q) (offEvq q + 8) 32 8) ∧
    (∀ o, o < 8 → reads (.fltqRefuseRead o) (offFltq o + 8) 32 16) ∧
    (∀ p, p < 8 → reads (.ntclostRead p) (offNtclost p) 48 16) ∧
    (∀ h : BitVec 2, ∃ d', Becomes s (.transRead h) d' ∧
      SetsReg d { d' with readOut := d.readOut } offTrans (regGet d offTrans &&&
        ((if h.getLsbD 0 = true then 0#64 else 0xFFFFFFFF#64) ||| (if h.getLsbD 1 = true then 0#64 else 0xFFFFFFFF00000000#64))) ∧
      (h = 3#2 → d'.readOut = regGet d offTrans) ∧ (h = 1#2 → d'.readOut = regGet d offTrans &&& 0xFFFFFFFF#64) ∧
      (h = 2#2 → d'.readOut = regGet d offTrans >>> 32) ∧ (h = 0#2 → d'.readOut = d.readOut)) ∧
    (let a := regBits d offDbgaddr 3 49 * 8
     ((∃ p, p < 8 ∧ halted d p = true ∧ inPart d p a = true) →
       (badWord d a = false → Becomes s .dbgdataRead { d with readOut := BitVec.ofNat 64 (readNat d.mem a 8) }) ∧
       (badWord d a = true → ∃ x, Becomes s .dbgdataRead { d with readOut := x })) ∧
     ((∀ p, p < 8 → halted d p = true → inPart d p a = false) → Becomes s .dbgdataRead { d with readOut := 0 })) ∧
    (∀ off x, halfHeld off = false →
      Becomes s (.unmappedOffsetAccess off false x) { d with readOut := 0 } ∧ Becomes s (.unmappedOffsetAccess off true x) d)

/-- 07 R262, 11 R375, R377, R378, 14 R421, R426, 17 R476, R477: power-on starts the first image that verifies, or sets SIGERR; bring-up's step
2 assigns no octant and keeps CLR of the withdrawn ones; a loss of power leaves only the sideband flash, with its trip bit; the sensors set
and clear OVC, HOT and THR; a cycle adds 1 to the cycle count, and to GCYC of each group that holds a residency slot. -/
def Obligations.PowerEvents : Prop :=
  ∀ s : State,
    let d := s.dev
    let field := fun (x : Dev) (i : Nat) => regBits x offPwrst i 1
    let image := if romVerifies d.pow.flashA = true then d.pow.flashA else d.pow.flashB
    (d.pow.on = false →
      (romVerifies d.pow.flashA = true ∨ romVerifies d.pow.flashB = true → ∃ d', Becomes s .powerOn d' ∧
        d'.pow = { d.pow with on := true, stage := 1, fwhash := fwHash image, trip := 0 } ∧ d'.mem = d.mem ∧ d'.groups = d.groups) ∧
      (romVerifies d.pow.flashA = false → romVerifies d.pow.flashB = false → ∃ d', Becomes s .powerOn d' ∧
        d' = { d with reg := d'.reg, pow := { d.pow with on := true, stage := 0 } } ∧ regBits d' offBootst 2 1 = 1)) ∧
    (d.pow.on = true → d.pow.stage = 1 → (∀ o ∈ d.links.octLost, o < 8) → ∃ d', Becomes s .firmwareBringup d' ∧
      d' = { d with reg := d'.reg, pow := { d.pow with stage := 2 } } ∧
      ∀ o, o < 8 → octAsg d' o = false ∧ octPn d' o = 0 ∧ octClr d' o = d.links.octLost.contains o) ∧
    (∀ why (x : BitVec 16), d.pow.on = true → why < 3 →
      let holds := (why = 0 ∧ 2400 < x.toNat) ∨ (why = 1 ∧ regBits d offPwrbud 8 8 + 20 ≤ x.toNat) ∨ (why = 2 ∧ (x.toNat < 40 ∨ 60 < x.toNat))
      let since := (tget d.pow.since why).getD d.cyc
      let wait := if why = 0 then 12500 else if why = 1 then 0 else 1250000
      (¬ holds → Becomes s (.powerTrip ⟨why, x⟩) { d with pow := { d.pow with since := tdel d.pow.since why } }) ∧
      (holds → since + wait ≤ d.cyc →
        exec (.powerTrip ⟨why, x⟩) s = .next { s with cur := Packet.none, dev := unpowered d (d.pow.trip ||| BitVec.ofNat 3 (2 ^ why)) }) ∧
      (holds → d.cyc < since + wait → Becomes s (.powerTrip ⟨why, x⟩) { d with pow := { d.pow with since := tput d.pow.since why since } })) ∧
    exec .supplyRemoved s = .next { s with cur := Packet.none, dev := unpowered d d.pow.trip } ∧
    (∀ t, (unpowered d t).mem = [] ∧ (unpowered d t).groups = [] ∧ (unpowered d t).parts = [] ∧ (unpowered d t).reg = [] ∧ (unpowered d t).pow.on = false ∧
      (unpowered d t).pow.flashA = d.pow.flashA ∧ (unpowered d t).pow.flashB = d.pow.flashB ∧ (unpowered d t).pow.leaf = d.pow.leaf ∧
      (unpowered d t).pow.trip = t ∧ (unpowered d t).host = d.host) ∧
    (∀ x : BitVec 16, d.pow.on = true →
      (2000 < x.toNat → ∃ d', Becomes s (.overcurrentOn x) d' ∧ field d' 0 = 1 ∧ field d' 1 = 1 ∧ regBits d' offPwrst 16 16 = x.toNat ∧ d'.mem = d.mem) ∧
      (x.toNat ≤ 2000 →
        let since := d.pow.below.getD d.cyc
        let ends := x.toNat < 1792 ∧ since + 1250000 ≤ d.cyc
        ∃ d', Becomes s (.overcurrentOff x) d' ∧ regBits d' offPwrst 16 16 = x.toNat ∧ d'.mem = d.mem ∧
          d'.pow.below = (if x.toNat < 1792 then some since else none) ∧
          (ends → field d' 0 = 0 ∧ (field d' 1 = 1 ↔ d.pow.heat = true)) ∧ (¬ ends → field d' 0 = field d 0 ∧ field d' 1 = field d 1))) ∧
    (∀ x : Byte, d.pow.on = true →
      (regBits d offPwrbud 8 8 ≤ x.toNat → ∃ d', Becomes s (.dieHotOn x) d' ∧ field d' 2 = 1 ∧ regBits d' offPwrst 32 8 = x.toNat ∧ d'.mem = d.mem) ∧
      (regBits d offPwrbud 8 8 + 5 ≤ x.toNat → ∃ d', Becomes s (.thermalThrottleOn x) d' ∧ field d' 2 = 1 ∧ field d' 1 = 1 ∧ d'.mem = d.mem) ∧
      (x.toNat < regBits d offPwrbud 8 8 → ∃ d', Becomes s (.dieHotOff x) d' ∧ field d' 2 = 0 ∧ (field d' 1 = 1 ↔ field d 0 = 1) ∧ d'.mem = d.mem)) ∧
    (d.pow.on = true → ∃ d', Becomes s .tokenCycle d' ∧ d'.cyc = d.cyc + 1) ∧
    (d.pow.on = true → (∀ p, p < 8 → halted d p = true → d.cyc + 1 ≠ ((tget d.parts p).map (fun q => q.haltAt)).getD 0 + 2500) →
      ∃ d', Becomes s .tokenCycle d' ∧ d'.mem = d.mem ∧ d'.reg = d.reg ∧ d'.teams = d.teams ∧
      ∀ gid g, tget d.groups gid = some g → ∃ g', tget d'.groups gid = some g' ∧
        g' = { g with tok := g'.tok, gcyc := if holdsSlot g = true then g.gcyc + 1 else g.gcyc })

/-- 00 R10, 02 R37, R47, R66, 03 R80 to R91, R99, 06, 07 R231 to R262, 08 R270 to R309, 09 R320 to R335, 10 R336 to R352, 11 R361 to R378, 14 R401 to
R428, 15 R433 to R450, 16, 17 R462 to R477: each event that the model's instructions name completes where its condition holds, and answers a next
state with its own effect: implicitReturn, timerTrap, groupPark, groupRecreate, svcRecordWrite, teamRetire, groupEvict, groupReturn,
teamSwap, teamReturn, instructionFetchFault, illegalEncoding, packetReissue, sideLogReplay, walkSchedule, reportBackoffExpiry;
loadComplete, storeApplied, rmwApplied, remoteAccess, dcacheLineEvict, llcSuperblockEvict; racqGrant, rpopGrant, feederSlotCommit,
drainSlot, noticeDeliver, noticePull, noticeAck, noticeLost; engineCommandComplete, dscLookupResume, matrixCommandStart, matrixPass;
galleyReserveResume, galleyFlush, galleyBatchLaunch, galleyStall, tdSelect, launchRecordAccept, descriptorRead, graphReplay,
graphNodeRetire, graphStall; drawRaster, setupSlotResume, drawOpen, drawClose, drawRelease, drawRetire, cleClassifyTile;
cxCommandStart, cxDigestReceive, cxCommandComplete, cxPeerTimeout; engineWatchdog, creditWatchdog, stopWatchdog, eventAccept, unitStop,
abortFlitReceive, stopRecordWrite, correctedError, parityError, uncorrectableError, structureSelfTestDone, linkCrcError, retrainDone;
every write and read of the management block; and power, sensors and the clock. -/
def Obligations.EveryEventCompletes : Prop :=
  ∀ s : State,
    let d := s.dev
    -- groups and teams
    (∀ gid g, tget d.groups gid = some g → g.bound.dead = false →
      let p := teamPart d g.tid
      (onCore g = true → implicitDue g = true → coreRuns d p g.core = true →
        exec (.implicitReturn gid) s = .next { s with dev := { d with groups := tmod d.groups gid (fun g => { g with bound := { g.bound with slide := some .ret } }) } }) ∧
      (g.bound.timer = true → onCore g = true → g.bound.slide = none → implicitDue g = false → boundTrap g = none → xrndOpen d gid = false →
        groupWaits d gid = false → halted d p = false →
        exec (.timerTrap gid) s = .next { s with dev := takeTrap { d with groups := tmod d.groups gid disarm } gid (timerReq g) s.tick }) ∧
      (∀ k, g.place = .parking → countsZero g = true → coreRuns d p g.core = true → teamTask d g.tid = some k →
        ∃ d' g', exec (.groupPark gid) s = .next { s with dev := d' } ∧ tget d'.groups gid = some g' ∧ g' = { g with place := .parked, v := [], s := [], k := [] } ∧
          d' = { d with teams := d'.teams, groups := d'.groups }) ∧
      (∀ t k, g.place = .parked → parkOver d g = true → slotFree d g = true → coreRuns d p g.core = true → tget d.teams g.tid = some t →
        recreateOn d g.tid = true → teamTask d g.tid = some k →
        let bs := readBytes t.spad (k.phoff + g.gintm * phaseBytes k) (phaseBytes k)
        at_ bs 0 1 = 1 → bits (at_ bs 0 8) 8 7 = g.width →
        ∃ d' g', exec (.groupRecreate gid) s = .next { s with dev := d' } ∧ tget d'.groups gid = some g' ∧ g'.place = .resident ∧ g'.depth = 0) ∧
      (∀ code rest, g.bound.svc = code :: rest → g.bound.svcSlot = none → countsZero g = true → coreRuns d p g.core = true →
        g.place = .resident ∨ g.place = .evicting → (regBits d (offSvcptr p) 16 8 + 1) % 256 ≠ regBits d (offSvcptr p) 0 8 →
        releaseOpen d = true → ∃ d', exec (.svcRecordWrite gid) s = .next { s with dev := d' } ∧ regBits d' (offSvcptr p) 16 8 = (regBits d (offSvcptr p) 16 8 + 1) % 256 ∧
          d'.groups = tmod d.groups gid (fun g => { g with bound := { g.bound with svcSlot := some (regBits d (offSvcptr p) 16 8) } }))) ∧
    (∀ gid g, tget d.groups gid = some g →
      (evictReady d gid g = true → saveOk d (teamPart d g.tid) = true →
        ∃ d', exec (.groupEvict gid) s = .next { s with dev := d' } ∧ d'.groups = tmod d.groups gid (fun g => { g with place := .evicted }) ∧
          d'.mem = writeBytes d.mem (imageAt d (teamPart d g.tid) g) (groupImage g)) ∧
      (g.place = .evicted → firstLeft d (teamPart d g.tid) gid g.core = true → slotFree d g = true →
        (residents d g.core).any (fun x => x.rslot == g.rslot) = false → coreRuns d (teamPart d g.tid) g.core = true →
        badRun d (imageAt d (teamPart d g.tid) g) (imageBytes g) = false →
        ∃ d' g', exec (.groupReturn gid) s = .next { s with dev := d' } ∧ tget d'.groups gid = some g' ∧ g'.place = .resident ∧ g'.rslot = g.rslot ∧ d'.mem = d.mem) ∧
      (reissueReady d gid g = true → exec (.packetReissue gid) s = .next { s with
        agenda := s.agenda ++ [.group gid]
        dev := { d with groups := tmod d.groups gid (fun g => { g with bound := { g.bound with fault := false } }) } }) ∧
      (∀ pc va lvl e, minPc g = some pc → baseReady d gid g = true → yieldOver d g s.tick = true → fetchPacket d g pc s.tick = .fault va lvl e →
        ∃ d', exec (.instructionFetchFault gid) s = .next { s with dev := d' } ∧ groupWaits d' gid = true ∧ d'.mem = d.mem) ∧
      (∀ pc ws fills ic slot reason, minPc g = some pc → baseReady d gid g = true → yieldOver d g s.tick = true →
        portChoice d g.core (g.rslot % 2) s.tick = some gid →
        fetchPacket d g pc s.tick = .words ws fills ic → stageD g ws = some (slot, reason) → packetReady d gid g pc (slotsOf ws) = true →
        ∃ d', exec (.illegalEncoding gid) s = .next { s with dev := d' } ∧
          d'.groups = tmod d.groups gid (fun g => { g with bound := { g.bound with dead := true } }) ∧
          d'.events = tput d.events (teamPart d g.tid) (tgetD d.events (teamPart d g.tid) [] ++
            [{ held := false, unit := unitCore g.core, kind := 3, cause := causeOf reason, detail := fdet g.rslot reason 0 slot pc, cyc := d.cyc
               grp := some (g.core, grpid g) }]))) ∧
    (∀ tid t, tget d.teams tid = some t →
      (teamEnds d tid t = true →
        ∃ d1, exec (.teamRetire tid) s = .next { s with dev := completeGrids d1 t.part s.tick } ∧
          tget d1.teams tid = some { t with st := .retired, am := [], rings := [], bars := [] } ∧ d1.mem = d.mem ∧ d1.groups = d.groups ∧
          d1.grids = tmod d.grids t.grid (fun g => { g with live := g.live - 1 })) ∧
      (t.st = .marked → teamQuiet d tid t = true → phaseParked d t = true → coreRuns d t.part t.core = true → saveOk d t.part = true →
        ∃ d', exec (.teamSwap tid) s = .next { s with dev := d' } ∧ tget d'.teams tid = some { t with st := .swapped, spad := [], am := [] } ∧ d'.groups = d.groups) ∧
      (t.st = .swapped → firstLeft d t.part tid t.core = true → teamRoom d t = true → coreRuns d t.part t.core = true →
        [(teamImageAt d t, 0x1000), (teamImageAt d t + 0x1000, allotSpad (taskOf d t)), (teamImageAt d t + 0x81000, allotAm (taskOf d t))].all
          (fun x => !badRun d x.1 x.2) = true →
        ∃ d' t', exec (.teamReturn tid) s = .next { s with dev := d' } ∧ tget d'.teams tid = some t' ∧ t' = { t with st := .live, spad := t'.spad, am := t'.am } ∧
          d'.mem = d.mem)) ∧
    -- reports and the side log
    (∀ core slot id lane o ts fills, tget (tgetD d.cores core default).slog slot = some (id, lane) → tget d.ops id = some o → o.wait = false →
      waiting d (.logged id lane) = false → logParts o lane ≠ [] → logBehind d core id lane o = false → unitRuns d o.part (unitCore core) = true →
      laneXl d o.part o.tid s.tick (BitVec.ofNat 64 (((logParts o lane).head?.map (fun a => a.va)).getD 0)) 1 (logAcc o.word)
        (match rmwForm o.word with
          | some (.cas _) => true
          | _ => false) (logVas o (logParts o lane)) = (.ok ts, fills) → fills.any (badTouch s.dev) = false →
      ∃ d', exec (.sideLogReplay core slot) s = .next { s with dev := d' } ∧ d'.mem = d.mem ∧ d'.ops = tmod d.ops id (fun q => { q with
        accs := q.accs.map (fun a => if (a.lane == lane && a.tgt.isNone && !a.done) = true then logTarget q (logParts o lane) ts a else a) })) ∧
    (∀ oct w, walkerRuns d oct = true → walkPick d oct = some w → (∀ id ∈ walkBatch d oct w, ∀ r, tget d.reports id = some r → ∀ e lvl, walk d r.part r.va ≠ .bad e lvl) →
      exec (.walkSchedule oct) s = .next { s with dev := (walkBatch d oct w).foldl walkReport d }) ∧
    (∀ id till delay r, tget d.reports id = some r → r.st = .backoff till delay → till ≤ d.cyc → unitRuns d r.part r.unit = true →
      (∀ e lvl, walk d r.part r.va ≠ .bad e lvl) → (walkTouches d r.part r.oct r.va).any (badTouch d) = false →
      ∃ d', exec (.reportBackoffExpiry id) s = .next { s with dev := d' } ∧ tget d'.reports id = none) ∧
    -- accesses at their homes
    (∀ id j o a, tget d.ops id = some o → partOf o j = some a → unitRuns d o.part (unitCore o.core) = true →
      (∀ bs d1, loadOpen d id o a = true → loadRead d id o a = some (bs, d1) →
        ∃ d', exec (.loadComplete id j) s = .next { s with dev := d' } ∧ d'.mem = d.mem ∧ d' =
          finishMem (markDone d1 id j (overlay d o a (earlier d id o) bs)) id) ∧
      (∀ t d1, a.tgt = some t → storeOpen d id o a = true → storeWrite (sysRelease d o.word) o a t = some d1 →
        exec (.storeApplied id j) s = .next { s with dev := finishMem (markDone (cacheUpdate d1 o.core t a.data) id j []) id }) ∧
      (∀ f t d1 old, a.tgt = some t → rmwForm o.word = some f → rmwOpen d id o a = true →
        homeRmw (rmwTouch d o a) o.part f t a.tgt2 (laneIn o a.lane) = some (d1, old) →
        exec (.rmwApplied id j) s = .next { s with
          dev := finishMem (markDone ((accRanges a).foldl (fun d x => dcDrop d o.core x.1 x.2) (markRmw d1 o a f old)) id j old) id })) ∧
    (∀ r n, regBits d offDomid 10 1 = 1 → (List.range 18).all (fun k => linkDown d (unitPort k) || linkBusy d (unitPort k)) = false →
      remoteHeld d r = false → remoteAllowed d r = true → r.act = .read n →
      ∃ d', exec (.remoteAccess r) s = .next { s with dev := d' } ∧ d'.reply = some (readBytes d.mem r.pa n) ∧ d'.mem = d.mem) ∧
    (∀ core line, ∃ d', exec (.dcacheLineEvict core line) s = .next { s with dev := d' } ∧ d' = { d with cores := d'.cores } ∧
      tget (tgetD d'.cores core default).dc line = none) ∧
    (∀ sb, evictable d sb = true → exec (.llcSuperblockEvict sb) s = .next { s with dev := { d with llc := tdel d.llc sb } }) ∧
    -- rings and notices
    (∀ id o d1, tget d.ops id = some o → isRacq o.word = true → tryRacq d id o = some d1 → exec (.racqGrant id) s = .next { s with dev := d1 }) ∧
    (∀ id o d1, tget d.ops id = some o → isRpop o.word = true → tryRpop d id o = some d1 → exec (.rpopGrant id) s = .next { s with dev := d1 }) ∧
    (∀ tid n t r i r1, tget d.teams tid = some t → ringOf d tid n = some r → feedReady d tid n t r = true →
      (fillSlot r = some (i, r1) → r.cfg.prod = 0 → patLen r.cfg ≤ r.fed → r.cfg.feos = true → r.feosDone = false →
        (∃ gid ∈ t.gids, (tget d.groups gid).isSome = true) →
        exec (.feederSlotCommit tid n) s = .next { s with dev := { d with
          teams := tmod d.teams tid (fun t => { t with rings := tmod t.rings n (fun _ => { ringCommit r1 i true false none with feosDone := true }) })
          progress := tdel d.progress (unitFeed t.core) } }) ∧
      (drainPick r = some (i, r1) → r.cfg.cons = 1 → (r1.slots.getD i default).eos = true → (r1.slots.getD i default).rcom = none →
        exec (.drainSlot tid n) s = .next { s with dev := { d with
          teams := tmod d.teams tid (fun t => { t with rings := tmod t.rings n (fun _ => ringRelease r1 i) })
          progress := tdel d.progress (unitFeed t.core) } }) ∧
      (∀ x rest, r.notices = x :: rest → x.len = 0 →
        exec (.noticePull tid n) s = .next { s with dev := { d with
          teams := tmod d.teams tid (fun t => { t with rings := tmod t.rings n (fun r => { r with notices := r.notices.drop 1 }) })
          acks := tput d.acks d.fresh (x.part, x.tid, x.bar, 0), fresh := d.fresh + 1 } })) ∧
    (∀ id cl o t i, ntcOpen d id = some (o, t) → o.prog ≠ 0 → ntcBit o (blockOf o) cl = some i →
      (∀ rtid u r, receiver d t cl (blkMemb (blockOf o)) = .team rtid u → tget u.rings (blkRing (blockOf o)) = some r → r.cfg.prod = 2 → r.notices.length < 16 →
        ∃ d1, exec (.noticeDeliver id cl) s = .next { s with dev := ntcTaken d1 id i (blockOf o) } ∧ d1 = { d with teams := d1.teams, net := d1.net } ∧
          d1.teams = tmod d.teams rtid (fun t => { t with rings := tmod t.rings (blkRing (blockOf o)) (fun r => { r with notices := r.notices ++
            [{ saddr := BitVec.ofNat 64 (blockOf o).saddr, len := (blockOf o).len, pulled := 0, part := o.part, tid := o.tid, bar := o.d.toNat, op := id,
               fdet := fdet o.rslot 0 0 o.slot o.pcx }] }) })) ∧
      (receiver d t cl (blkMemb (blockOf o)) = .gone →
        ∃ d1, exec (.noticeLost id cl) s = .next { s with dev := ntcTaken d1 id i (blockOf o) } ∧
          d1 = { d with reg := d1.reg, acks := tput d.acks d.fresh (o.part, o.tid, o.d.toNat, (blockOf o).len), fresh := d.fresh + 1 })) ∧
    (∀ ack p tid bar n, tget d.acks ack = some (p, tid, bar, n) →
      exec (.noticeAck ack) s = .next { s with dev := { d with
        acks := tdel d.acks ack
        teams := tmod d.teams tid (fun t => { t with bars := tmod t.bars bar (fun b => barCheck { b with pend := b.pend - BitVec.ofNat 64 n }) }) } }) ∧
    -- engines
    (∀ id o m x y g, tget d.ops id = some o → o.word = .aczr m x y → engineOpen d id o = true → o.gather = false → o.d = 0 →
      tget d.groups o.gid = some g → g.place ≠ .evicted →
      ∃ d', exec (.engineCommandComplete id) s = .next { s with dev := d' } ∧ tget d'.ops id = none ∧
        tget d'.groups o.gid = some { g with cnt := cntMod g.cnt o.stream (· - 1) } ∧ d'.mem = d.mem ∧ d'.teams = d.teams) ∧
    (∀ id o m x y bs d1 pa nc d2, tget d.ops id = some o → o.word = .dsc m x y → engineOpen d id o = true → o.applied = true →
      readDesc d id o 32 dscOk s.tick = .ok (bs, d1) → xlUnit d1 o.part (.team o.tid) (parseDsc bs).sbase .read s.tick = .ok (.dev pa nc, d2) →
      let d3 := dscLanes id (parseDsc bs) s.tick (lanesOf o.act) [] { d2 with ops := tmod d2.ops id (fun o => { o with applied := true }) }
      ∀ q, tget d3.ops id = some q →
        exec (.dscLookupResume id) s = .next { s with dev := if dscAll q = true then dscFinish d3 id q x else d3 }) ∧
    (∀ core c o, mxHead d core = some (c, o) → mxRuns d core c o = true →
      (∀ bs d1, c.started = false → opReady d o = true → unitRead d o.part (.team o.tid) o.a.toNat 64 s.tick = .ok (bs, d1) →
        let x := parseMx (mxKind o.word) bs
        mxReason d1 o.tid x = none → x.start < x.total →
        ∃ d', exec (.matrixCommandStart core) s = .next { s with dev := d' } ∧ d' = stepped (modCore d1 core (fun k => match k.mq with
          | [] => k
          | c :: t => { k with mq := { c with started := true, rprog := x.start, blk := bs } :: t })) (unitMx core)) ∧
      (c.started = true → c.tok = true → exec (.matrixPass core) s = .next { s with dev := stepped (mxPass d core c o s.tick) (unitMx core) })) ∧
    -- galleys, queues and graphs
    (∀ p, halted d p = false →
      (∀ gal id w, (galley d p gal).quad = none → waitingRbin d p gal = none → waitingTile d p gal = none → waitingDraw d p gal = some (id, w) → rasterOpen d id w = true →
        exec (.galleyReserveResume p gal) s = .next { s with dev := rasterStep d id w s.tick }) ∧
      (∀ gal y d1, (galley d p gal).ready ≠ [] → (galley d p gal).bad = false → waiting d (.galley p gal) = false → galDesc d p gal s.tick = .ok (y, d1) →
        (galley d p gal).lastCommit + y.flush ≤ d.cyc →
        exec (.galleyFlush p gal) s = .next { s with dev := { d1 with parts := tmod d1.parts p (fun q =>
          { q with galleys := tput q.galleys gal (closeBatch (galley d1 p gal)) }) } }) ∧
      (∀ gal y k arg exts place d1, firstLaunch d p s.tick = some (.go gal y k arg exts place d1) →
        exec (.galleyBatchLaunch p) s = .next { s with dev := launchBatches d1 p gal y k arg exts place s.tick }) ∧
      (∀ gal t, (galley d p gal).waitSince = some t → regBits d offWdcfg 0 32 ≠ 0 → t + regBits d offWdcfg 0 32 ≤ d.cyc →
        (galley d p gal).lastFree + regBits d offWdcfg 0 32 ≤ d.cyc →
        ∃ d', exec (.galleyStall p gal) s = .next { s with dev := d' } ∧ (galley d' p gal).waitSince = none ∧
          ∃ e, tgetD d'.events p [] = tgetD d.events p [] ++ [e] ∧ e.kind = 3 ∧ e.detail = BitVec.ofNat 64 (0x0C * 2 ^ 56 + galAddr d p gal % 2 ^ 56)) ∧
      (∀ d2, assigned d p = true → unitRuns d p (unitOct (servingOct d p) 0) = true →
        let d1 := enqueueWaiting (completeGrids d p s.tick) p s.tick
        firstLaunch d1 p s.tick = none → (turns d1 p).findSome? (tryHead d1 p s.tick) = some d2 → exec (.tdSelect p) s = .next { s with dev := d2 }) ∧
      (∀ q, assigned d p = true → q < 64 → (tget d.parts p).isSome = true → regBits d (offQptr p q) 16 8 ≠ regBits d (offQptr p q) 0 8 → (queueOf d p q).length < 256 →
        ∃ d', exec (.launchRecordAccept p q) s = .next { s with dev := d' } ∧ regBits d' (offQptr p q) 16 8 = (regBits d (offQptr p q) 16 8 + 1) % 256 ∧
          (queueOf d' p q).length = (queueOf d p q).length + 1) ∧
      (∀ q r t h d1, queueOf d p q = r :: t → r.st = .unread → waiting d (.head p q) = false → readHead d p r s.tick = .ok (h, d1) →
        exec (.descriptorRead p q) s = .next { s with dev := { d1 with parts := tmod d1.parts p (fun x => { x with queues := tput x.queues q ({ r with st := h } :: t) }) } }) ∧
      (∀ q r hdr d1, firstLaunch d p s.tick = none → (turns d p).find? (fun h => (tryHead d p s.tick h).isSome) = some (q, r) → replayReady d p q r = true →
        r.st = .replay hdr → replay { d with parts := tmod d.parts p (fun x => { x with queues := tput x.queues q ((queueOf d p q).drop 1) }) } p hdr r s.tick = (d1, none) →
        exec (.graphReplay p q) s = .next { s with dev := d1 }) ∧
      (∀ run g, (tget d.parts p).bind (fun x => tget x.runs run) = some g → g.dead = false → waiting d (.graph p run) = false →
        (g.retired = [] → g.left = 0 → g.compl = 0 → releaseOpen d = true →
          exec (.graphNodeRetire p run) s = .next { s with dev := { landHost d with parts := tmod d.parts p (fun x => { x with runs := tdel x.runs run }) } }) ∧
        (∀ i rest n d1 d2, g.retired = i :: rest → g.left ≠ 1 → readNode d p g.nodes i s.tick = .ok (n, d1) → readSuccs d1 p n s.tick = .ok ([], d2) →
          exec (.graphNodeRetire p run) s = .next { s with dev := { d2 with parts := tmod d2.parts p (fun x =>
            { x with runs := tmod x.runs run (fun r => { r with left := r.left - 1, retired := r.retired.drop 1 }) }) } })) ∧
      (∀ run g t, (tget d.parts p).bind (fun x => tget x.runs run) = some g → g.stall = some t → regBits d offWdcfg 0 32 ≠ 0 →
        t + regBits d offWdcfg 0 32 ≤ d.cyc → runStalled d p run g = true →
        ∃ d', exec (.graphStall p run) s = .next { s with dev := d' } ∧ d'.mem = d.mem ∧
          ∃ e, tgetD d'.events p [] = tgetD d.events p [] ++ [e] ∧ e.kind = 3 ∧ e.detail = BitVec.ofNat 64 (0x0A * 2 ^ 56 + g.hdr % 2 ^ 56))) ∧
    -- draws
    (∀ id w, tget d.draws id = some w →
      (rasterOpen d id w = true → w.slotWait = false → w.full = false → w.setup = [] → w.blocks = [] → w.d.nlist ≤ w.li →
        exec (.drawRaster id) s = .next { s with dev := { d with draws := tmod d.draws id (fun _ => { w with took := true }), progress := tdel d.progress (rasterUnit w) } }) ∧
      (∀ d1, rasterOpen d id w = true → w.slotWait = true → slotFreed d w = true →
        unitWriteWhole d w.part (.octant w.oct) .leave (w.d.subase + 64 * w.slot) w.setup s.tick = .ok d1 →
        exec (.setupSlotResume id) s = .next { s with dev := { d1 with
          draws := tmod d1.draws id (fun _ => { w with setup := [], slotWait := false, slots := tdel w.slots w.slot }), progress := tdel d1.progress (rasterUnit w) } }) ∧
      (∀ tiles d1, setPas d w.part w.d s.tick = .ok (tiles, d1) →
        (drawOpenFor d id 1 w = true → d1.tiles.any (fun t => tiles.any (fun pas => pas.any (fun a => tileMeets (stretch w.d) a t.2))) = false →
          dirRoom d1 (tiles.map tileKey) = true →
          exec (.drawOpen id) s = .next { s with dev := drawTook (openTiles d1 w.part w.d tiles) id (tiles.map tileKey) }) ∧
        (drawOpenFor d id 2 w = true → rasterAhead d w = false → allIn d1 (tiles.map tileKey) .opened = true →
          ∃ d', exec (.drawClose id) s = .next { s with dev := d' } ∧ d' = { d1 with tiles := d'.tiles, draws := d'.draws } ∧
            d'.draws = tmod d1.draws id (fun w => { w with took := true, keys := tiles.map tileKey, set := tiles.map tileKey }))) ∧
      (∀ tiles d1, setPas (retireMaterial d w.part s.tick) w.part w.d s.tick = .ok (tiles, d1) → drawOpenFor d id 3 w = true → allIn d1 (tiles.map tileKey) .shaded = true →
        ∃ d', exec (.drawRelease id) s = .next { s with dev := d' } ∧ d'.tiles = d1.tiles.filter (fun t => !(tiles.map tileKey).contains t.1)) ∧
      (drawDone d w = true → halted d w.part = false → waiting d (.draw id) = false → w.d.stat = 0 → w.compl = 0 → w.node = none →
        exec (.drawRetire id) s = .next { s with dev := { d with draws := tdel d.draws id } }) ∧
      (∀ oct key t, cleTile d w oct = some (key, t) → cleOpen d id oct w = true → t.full = none → t.dead = false → 4 ≤ t.samples.length → t.todo = [] →
        t.scan + 1 < 256 * w.d.spp →
        exec (.cleClassifyTile id oct) s = .next { s with dev := { d with
          tiles := tmod d.tiles key (fun _ => { t with scan := t.scan + 1, samples := [], todo := [], gal := none, full := none })
          progress := tdel d.progress (unitOct oct 1) } })) ∧
    -- collectives
    (∀ oct, (regBits d (offCxbase oct) 0 1 = 1 → cxRuns d oct = true → (cxOf d oct).st = .idle →
        exec (.cxCommandStart oct) s = .next { s with dev := stepped (cxStart d oct s.tick) (unitOct oct 2) }) ∧
      (∀ g : Digest, octAsg d oct = true → halted d (octPn d oct) = false → regBits d offDomid 10 1 = 1 → g.scope ≠ 0#16 →
        g.scope.toNat = regBits d (offPnet (octPn d oct)) 32 16 → rankDev (g.rlist.getD g.rank 0) ≠ regBits d offDomid 0 9 → portOpen d = true →
        (cxOf d oct).own = none → exec (.cxDigestReceive oct g) s = .next { s with dev := { d with cx := tput d.cx oct { cxOf d oct with digests := (cxOf d oct).digests ++ [g] } } }) ∧
      (cxRuns d oct = true → (cxOf d oct).st = .written → exec (.cxCommandComplete oct) s = .next { s with dev := stepped (cxEnd d oct s.tick) (unitOct oct 2) }) ∧
      (∀ t o, cxRuns d oct = true → (cxOf d oct).st = .waiting t → (cxOf d oct).own = some o → cxMoves (cxOf d oct) o = false → regBits d offWdcfg 0 32 ≠ 0 →
        t + regBits d offWdcfg 0 32 ≤ d.cyc →
        ∃ d', exec (.cxPeerTimeout oct) s = .next { s with dev := d' } ∧ (cxOf d' oct).dead = true ∧
          ∃ e, tgetD d'.events (octPn d oct) [] = tgetD d.events (octPn d oct) [] ++ [e] ∧ e.kind = 3 ∧ e.cause = 5)) ∧
    -- watchdogs, stops and errors
    (∀ u p t, tget d.progress u = some t → regBits d offWdcfg 0 32 ≠ 0 → t + regBits d offWdcfg 0 32 ≤ d.cyc → octOf d p (unitOctant u) = true → unitRuns d p u = true →
      ∃ d' e, exec (.engineWatchdog u p) s = .next { s with dev := d' } ∧ tgetD d'.events p [] = tgetD d.events p [] ++ [e] ∧ e.kind = 3 ∧ e.cause = 5 ∧ e.unit = u) ∧
    (∀ leaf chan t, tget d.links.credit (32 * leaf + chan) = some t → t + 65536 ≤ d.cyc → chan < 16 → unitsOf d (chan % 8) ≠ [] →
      ∃ d' e, exec (.creditWatchdog leaf chan) s = .next { s with dev := d' } ∧
        tgetD d'.events (chan % 8) [] = tgetD d.events (chan % 8) [] ++ [e] ∧ e.kind = 3 ∧ e.cause = 5) ∧
    (∀ u p, unitPart d u = some p → stopLate d p u = true →
      ∃ d' q', exec (.stopWatchdog u) s = .next { s with dev := d' } ∧ tget d'.parts p = some q' ∧ u ∈ q'.failed ∧ u ∈ q'.written) ∧
    (∀ q idx e, q ≤ 8 → eventNext d q idx = some e →
      ∃ d', exec (.eventAccept q idx) s = .next { s with dev := d' } ∧ tgetD d'.seqs q 0 = tgetD d.seqs q 0 + 1 ∧ tgetD d'.events q [] = (tgetD d.events q []).eraseIdx idx) ∧
    (∀ u p q, unitPart d u = some p → halted d p = true → tget d.parts p = some q → stopArea d p = true →
      (tget q.stopped u = none → ∃ d', exec (.unitStop u) s = .next { s with dev := d' } ∧
        (tget d'.parts p).bind (fun q => tget q.stopped u) = some (lesser d.cyc (q.haltAt + stopBound u))) ∧
      (∀ t, tget q.stopped u = some t → u ∉ q.written → d.cyc < q.haltAt + 12500 → ∃ d', exec (.stopRecordWrite u) s = .next { s with dev := d' } ∧
        d'.mem = writeBytes d.mem (regBits d (offStopbase p) 7 45 * 128 + 128 * u) (stopRecord d p u q))) ∧
    (∀ idx a, d.links.aborts[idx]? = some a → ∃ d', exec (.abortFlitReceive idx) s = .next { s with dev := d' } ∧ d'.links.aborts = d.links.aborts.eraseIdx idx ∧
      d' = { d with links := d'.links }) ∧
    (∀ u loc chan, d.pow.on = true →
      (storageAt u loc = true → ∃ d' e, exec (.correctedError u ⟨loc, chan⟩) s = .next { s with dev := d' } ∧ d'.mem = d.mem ∧ e.kind = 0 ∧ e.unit = u ∧ e.detail = loc ∧
        tgetD d'.events (errorQueue d u loc chan) [] = tgetD d.events (errorQueue d u loc chan) [] ++ [e]) ∧
      ((storageAt u loc || residueAt u loc) = true → errorQueue d u loc chan < 8 →
        ∃ d' e, exec (.uncorrectableError u ⟨loc, chan⟩) s = .next { s with dev := d' } ∧ d'.mem = d.mem ∧ e.kind = 3 ∧ e.cause = 4 ∧ e.unit = u ∧ e.detail = loc ∧
        tgetD d'.events (errorQueue d u loc chan) [] = tgetD d.events (errorQueue d u loc chan) [] ++ [e])) ∧
    (∀ u c index, d.pow.on = true → parityAt u c = true → index < 2 ^ 32 →
      ∃ d' e, exec (.parityError u c index) s = .next { s with dev := d' } ∧ d'.mem = d.mem ∧ e.kind = 0 ∧ e.unit = u ∧
        tgetD d'.events ((unitPart d u).getD 8) [] = tgetD d.events ((unitPart d u).getD 8) [] ++ [e]) ∧
    (∀ idx t, d.tests[idx]? = some t → testReady d t = true → t.late = false →
      ∃ d' e, exec (.structureSelfTestDone idx true) s = .next { s with dev := d' } ∧ d'.tests = d.tests.eraseIdx idx ∧ e.kind = 1 ∧ e.unit = t.unit ∧
        tgetD d'.events t.queue [] = tgetD d.events t.queue [] ++ [e]) ∧
    (∀ u lane, 2 ≤ d.pow.stage → laneWorks d u lane = true → (u, lane) ∉ d.links.retrain →
      ∃ d', exec (.linkCrcError u lane) s = .next { s with dev := d' } ∧ (d' = d ∨ d'.links.retrain = d.links.retrain ++ [(u, lane)])) ∧
    (∀ u lane, (u, lane) ∈ d.links.retrain →
      ∃ d', exec (.retrainDone u lane true) s = .next { s with dev := d' } ∧ d'.links.retrain = d.links.retrain.filter (fun x => x != (u, lane)) ∧
        d'.links.lost = d.links.lost) ∧
    -- the management block
    (d.pow.on = true →
      (∀ v : Word, (v.toNat / 2 ^ 12 % 4 = 0 → 2 ≤ d.pow.stage → ∃ d', exec (.octcmdNone v) s = .next { s with dev := d' } ∧ regBits d' offOctcmd 16 2 = 0) ∧
        (v.toNat / 2 ^ 12 % 4 = 1 → 2 ≤ d.pow.stage → v.toNat % 256 ≠ 0 → (∀ o, o < 8 → v.getLsbD o = true → octAsg d o = false ∧ octClr d o = false) →
          assigned d (v.toNat / 2 ^ 8 % 8) = false → releasing d (v.toNat / 2 ^ 8 % 8) = false →
          ∃ d', exec (.octcmdAssign v) s = .next { s with dev := d' } ∧ ∀ o, o < 8 → v.getLsbD o = true → octAsg d' o = true) ∧
        (v.toNat / 2 ^ 12 % 4 = 2 → 2 ≤ d.pow.stage → assigned d (v.toNat / 2 ^ 8 % 8) = true →
          ∃ d', exec (.octcmdRelease v) s = .next { s with dev := d' } ∧
            ∀ o, o < 8 → octAsg d o = true → octPn d o = v.toNat / 2 ^ 8 % 8 → octAsg d' o = false ∧ octClr d' o = true)) ∧
      (∀ o (v : DWord), o < 8 → octAsg d o = false → octClr d o = false → v.toNat % 64 ≤ 32 →
        ∃ d', exec (.dstoreWrite o v) s = .next { s with dev := d' } ∧ regGet d' (offDstore o) = BitVec.ofNat 64 (v.toNat % 64)) ∧
      (∀ v : DWord, regBits d offTlbinv 63 1 ≠ 1 → ∃ d', exec (.tlbinvWrite v) s = .next { s with dev := d' } ∧ regBits d' offTlbinv 63 1 = 1 ∧ d'.mem = d.mem) ∧
      (∀ p q (v : Byte), p < 8 → q < 64 →
        (regBits d (offQptr p q) 0 8 + 256 - regBits d (offQptr p q) 16 8) % 256 ≤ (v.toNat + 256 - regBits d (offQptr p q) 16 8) % 256 →
        ∃ d', exec (.qptrTailWrite p q v) s = .next { s with dev := d' } ∧ regBits d' (offQptr p q) 0 8 = v.toNat) ∧
      (∀ p (v : Byte) gid g, p < 8 → svcGroup d p v.toNat = some (gid, g) → tget d.groups gid = some g → halted d p = false →
        ∃ d' g', exec (.svcrepWrite p v) s = .next { s with dev := d' } ∧ tget d'.groups gid = some g' ∧ g'.bound.svcSlot = none ∧
          readS g' 0 = BitVec.ofNat 64 (readNat d.bar2 (svcAt p v.toNat + 48) 8)) ∧
      (∀ p (v : Byte), p < 8 → ∃ d', exec (.svcptrHheadWrite p v) s = .next { s with dev := d' } ∧ regBits d' (offSvcptr p) 0 8 = v.toNat) ∧
      (∀ v : DWord, regBits d offDomid 10 1 = 0 → ∃ d', exec (.domidWrite v) s = .next { s with dev := d' } ∧ regGet d' offDomid = v &&& 0x5FF#64) ∧
      (∀ v : DWord, v.getLsbD 3 = true → regBits d offAttcmd 4 1 ≠ 1 → assigned d (v.toNat % 8) = true → d.pow.leaf < 1048576 →
        ∃ d', exec (.attcmdGo v) s = .next { s with dev := d' } ∧ regBits d' offAttcmd 4 1 = 1 ∧ d'.pow.quote = some (v.toNat % 8, nonceBytes d)) ∧
      (∀ p, p < 8 → assigned d p = true → halted d p = false → ∃ d', exec (.hreqWrite p) s = .next { s with dev := d' } ∧ regBits d' (offHaltst p) 63 1 = 1) ∧
      (∀ oct (v : BitVec 11), oct < 8 → walkerRuns d oct = false → ∃ d', exec (.fltqHheadWrite oct v) s = .next { s with dev := d' } ∧
        regBits d' (offFltq oct + 8) 0 11 = v.toNat) ∧
      (∀ v : DWord, ∃ d', exec (.registerWrite offWdcfg v true) s = .next { s with dev := d' } ∧ regBits d' offWdcfg 0 32 = v.toNat % 2 ^ 32) ∧
      (∀ off x, halfHeld off = false → exec (.unmappedOffsetAccess off false x) s = .next { s with dev := { d with readOut := 0 } }) ∧
      (∀ q, q < 9 → ∃ d', exec (.evqMissRead q) s = .next { s with dev := d' } ∧ d'.readOut = regGet d (offEvq q + 8) ∧ regBits d' (offEvq q + 8) 32 8 = 0) ∧
      (∃ d', exec (.transRead 3#2) s = .next { s with dev := d' } ∧ d'.readOut = regGet d offTrans ∧ regGet d' offTrans = 0) ∧
      (∀ o, o < 8 → ∃ d', exec (.fltqRefuseRead o) s = .next { s with dev := d' } ∧ d'.readOut = regGet d (offFltq o + 8) ∧ regBits d' (offFltq o + 8) 32 16 = 0) ∧
      (∀ p, p < 8 → ∃ d', exec (.ntclostRead p) s = .next { s with dev := d' } ∧ d'.readOut = regGet d (offNtclost p) ∧ regBits d' (offNtclost p) 48 16 = 0) ∧
      (∃ x, exec .dbgdataRead s = .next { s with dev := { d with readOut := x } } ∧
        ((∀ p, p < 8 → halted d p = false) → x = 0))) ∧
    (regBits d offTlbinv 63 1 = 1 → d.inval = [] → ∃ d', exec .tlbinvDone s = .next { s with dev := d' } ∧ regBits d' offTlbinv 63 1 = 0) ∧
    (∀ x, d.pow.quote = some x → ∃ d', exec .quoteComplete s = .next { s with dev := d' } ∧ d'.pow.quote = none ∧ regBits d' offAttcmd 4 1 = 0) ∧
    (∀ p q, tget d.parts p = some q → clearReady d p q = true →
      exec (.releaseClear p) s = .next { s with dev := applyLater (modPart (clearPart (acceptAll d p) p) p (fun q => clearedPart q d.cyc)) p }) ∧
    (∀ o p c, clearingPart d o = some (p, c) → octClr d o = true → o ∉ d.links.octLost → o < 8 → c + 50331648 ≤ d.cyc →
      ∃ d', exec (.octantClearDone o) s = .next { s with dev := d' } ∧ octClr d' o = false) ∧
    -- power, sensors and the clock
    (d.pow.on = false → romVerifies d.pow.flashA = true →
      ∃ d', exec .powerOn s = .next { s with dev := d' } ∧ d'.pow.on = true ∧ d'.pow.stage = 1 ∧ d'.pow.fwhash = fwHash d.pow.flashA) ∧
    (d.pow.on = true → d.pow.stage = 1 → (∀ o ∈ d.links.octLost, o < 8) →
      ∃ d', exec .firmwareBringup s = .next { s with dev := d' } ∧ d'.pow.stage = 2 ∧ ∀ o, o < 8 → octAsg d' o = false) ∧
    (∀ x : BitVec 16, d.pow.on = true →
      (regBits d offPwrbud 8 8 + 20 ≤ x.toNat → (tget d.pow.since 1).getD d.cyc ≤ d.cyc →
        exec (.powerTrip ⟨1, x⟩) s = .next { s with cur := Packet.none, dev := unpowered d (d.pow.trip ||| 2#3) }) ∧
      (2000 < x.toNat → ∃ d', exec (.overcurrentOn x) s = .next { s with dev := d' } ∧ regBits d' offPwrst 0 1 = 1) ∧
      (∀ t, x.toNat < 1792 → d.pow.below = some t → t + 1250000 ≤ d.cyc → ∃ d', exec (.overcurrentOff x) s = .next { s with dev := d' } ∧ regBits d' offPwrst 0 1 = 0)) ∧
    (∀ x : Byte, d.pow.on = true →
      (regBits d offPwrbud 8 8 ≤ x.toNat → ∃ d', exec (.dieHotOn x) s = .next { s with dev := d' } ∧ regBits d' offPwrst 2 1 = 1) ∧
      (regBits d offPwrbud 8 8 + 5 ≤ x.toNat → ∃ d', exec (.thermalThrottleOn x) s = .next { s with dev := d' } ∧ regBits d' offPwrst 1 1 = 1) ∧
      (x.toNat < regBits d offPwrbud 8 8 → ∃ d', exec (.dieHotOff x) s = .next { s with dev := d' } ∧ regBits d' offPwrst 2 1 = 0)) ∧
    exec .supplyRemoved s = .next { s with cur := Packet.none, dev := unpowered d d.pow.trip } ∧
    (d.pow.on = true → ∃ d', exec .tokenCycle s = .next { s with dev := d' } ∧ d'.cyc = d.cyc + 1)

end
end

