-- ==== Sys2Proof/Laws/Encoding.lean ====
section
/-! SUPPORT. Reading the fields of a packed word back, one lemma for each field of each format, and reading an operand code
back. -/

namespace Sys2Proof

theorem extract_low {m n : Nat} (x : BitVec m) (y : BitVec n) (s len : Nat) (h : s + len ≤ n) :
    (x ++ y).extractLsb' s len = y.extractLsb' s len := by
  ext i hi
  simp only [BitVec.getElem_extractLsb', BitVec.getLsbD_append]
  rw [if_pos (by omega)]

theorem extract_high {m n : Nat} (x : BitVec m) (y : BitVec n) (s len : Nat) (h : n ≤ s) :
    (x ++ y).extractLsb' s len = x.extractLsb' (s - n) len := by
  ext i hi
  simp only [BitVec.getElem_extractLsb', BitVec.getLsbD_append]
  rw [if_neg (by omega)]
  congr 1
  omega

theorem extract_all {n : Nat} (x : BitVec n) : x.extractLsb' 0 n = x := by
  ext i hi
  simp

theorem ofBool_beq (c : Bool) : (BitVec.ofBool c == 1#1) = c := by cases c <;> rfl

@[simp] theorem fldC_packA (c : Bool) (op : BitVec 6) (w : Bool) (d : BitVec 6) (a : BitVec 6) (b : BitVec 6) (f : BitVec 6) : fldC (packA c op w d a b f) = c :=
  (congrArg (· == 1#1) ((extract_high (m := 26) (n := 6) _ _ 31 1 (by decide)).trans ((extract_high (m := 20) (n := 6) _ _ 25 1 (by decide)).trans ((extract_high (m := 14) (n := 6) _ _ 19 1 (by decide)).trans ((extract_high (m := 8) (n := 6) _ _ 13 1 (by decide)).trans ((extract_high (m := 7) (n := 1) _ _ 7 1 (by decide)).trans ((extract_high (m := 1) (n := 6) _ _ 6 1 (by decide)).trans (extract_all _)))))))).trans (ofBool_beq _)
@[simp] theorem fldOp_packA (c : Bool) (op : BitVec 6) (w : Bool) (d : BitVec 6) (a : BitVec 6) (b : BitVec 6) (f : BitVec 6) : fldOp (packA c op w d a b f) = op :=
  ((extract_high (m := 26) (n := 6) _ _ 25 6 (by decide)).trans ((extract_high (m := 20) (n := 6) _ _ 19 6 (by decide)).trans ((extract_high (m := 14) (n := 6) _ _ 13 6 (by decide)).trans ((extract_high (m := 8) (n := 6) _ _ 7 6 (by decide)).trans ((extract_high (m := 7) (n := 1) _ _ 1 6 (by decide)).trans ((extract_low (m := 1) (n := 6) _ _ 0 6 (by decide)).trans (extract_all _)))))))
@[simp] theorem fldW_packA (c : Bool) (op : BitVec 6) (w : Bool) (d : BitVec 6) (a : BitVec 6) (b : BitVec 6) (f : BitVec 6) : fldW (packA c op w d a b f) = w :=
  (congrArg (· == 1#1) ((extract_high (m := 26) (n := 6) _ _ 24 1 (by decide)).trans ((extract_high (m := 20) (n := 6) _ _ 18 1 (by decide)).trans ((extract_high (m := 14) (n := 6) _ _ 12 1 (by decide)).trans ((extract_high (m := 8) (n := 6) _ _ 6 1 (by decide)).trans ((extract_low (m := 7) (n := 1) _ _ 0 1 (by decide)).trans (extract_all _))))))).trans (ofBool_beq _)
@[simp] theorem fldD_packA (c : Bool) (op : BitVec 6) (w : Bool) (d : BitVec 6) (a : BitVec 6) (b : BitVec 6) (f : BitVec 6) : fldD (packA c op w d a b f) = d :=
  ((extract_high (m := 26) (n := 6) _ _ 18 6 (by decide)).trans ((extract_high (m := 20) (n := 6) _ _ 12 6 (by decide)).trans ((extract_high (m := 14) (n := 6) _ _ 6 6 (by decide)).trans ((extract_low (m := 8) (n := 6) _ _ 0 6 (by decide)).trans (extract_all _)))))
@[simp] theorem fldA_packA (c : Bool) (op : BitVec 6) (w : Bool) (d : BitVec 6) (a : BitVec 6) (b : BitVec 6) (f : BitVec 6) : fldA (packA c op w d a b f) = a :=
  ((extract_high (m := 26) (n := 6) _ _ 12 6 (by decide)).trans ((extract_high (m := 20) (n := 6) _ _ 6 6 (by decide)).trans ((extract_low (m := 14) (n := 6) _ _ 0 6 (by decide)).trans (extract_all _))))
@[simp] theorem fldB_packA (c : Bool) (op : BitVec 6) (w : Bool) (d : BitVec 6) (a : BitVec 6) (b : BitVec 6) (f : BitVec 6) : fldB (packA c op w d a b f) = b :=
  ((extract_high (m := 26) (n := 6) _ _ 6 6 (by decide)).trans ((extract_low (m := 20) (n := 6) _ _ 0 6 (by decide)).trans (extract_all _)))
@[simp] theorem fldF_packA (c : Bool) (op : BitVec 6) (w : Bool) (d : BitVec 6) (a : BitVec 6) (b : BitVec 6) (f : BitVec 6) : fldF (packA c op w d a b f) = f :=
  ((extract_low (m := 26) (n := 6) _ _ 0 6 (by decide)).trans (extract_all _))
@[simp] theorem fldC_packI (c : Bool) (op : BitVec 6) (w : Bool) (d : BitVec 6) (a : BitVec 6) (imm : BitVec 12) : fldC (packI c op w d a imm) = c :=
  (congrArg (· == 1#1) ((extract_high (m := 20) (n := 12) _ _ 31 1 (by decide)).trans ((extract_high (m := 14) (n := 6) _ _ 19 1 (by decide)).trans ((extract_high (m := 8) (n := 6) _ _ 13 1 (by decide)).trans ((extract_high (m := 7) (n := 1) _ _ 7 1 (by decide)).trans ((extract_high (m := 1) (n := 6) _ _ 6 1 (by decide)).trans (extract_all _))))))).trans (ofBool_beq _)
@[simp] theorem fldOp_packI (c : Bool) (op : BitVec 6) (w : Bool) (d : BitVec 6) (a : BitVec 6) (imm : BitVec 12) : fldOp (packI c op w d a imm) = op :=
  ((extract_high (m := 20) (n := 12) _ _ 25 6 (by decide)).trans ((extract_high (m := 14) (n := 6) _ _ 13 6 (by decide)).trans ((extract_high (m := 8) (n := 6) _ _ 7 6 (by decide)).trans ((extract_high (m := 7) (n := 1) _ _ 1 6 (by decide)).trans ((extract_low (m := 1) (n := 6) _ _ 0 6 (by decide)).trans (extract_all _))))))
@[simp] theorem fldW_packI (c : Bool) (op : BitVec 6) (w : Bool) (d : BitVec 6) (a : BitVec 6) (imm : BitVec 12) : fldW (packI c op w d a imm) = w :=
  (congrArg (· == 1#1) ((extract_high (m := 20) (n := 12) _ _ 24 1 (by decide)).trans ((extract_high (m := 14) (n := 6) _ _ 12 1 (by decide)).trans ((extract_high (m := 8) (n := 6) _ _ 6 1 (by decide)).trans ((extract_low (m := 7) (n := 1) _ _ 0 1 (by decide)).trans (extract_all _)))))).trans (ofBool_beq _)
@[simp] theorem fldD_packI (c : Bool) (op : BitVec 6) (w : Bool) (d : BitVec 6) (a : BitVec 6) (imm : BitVec 12) : fldD (packI c op w d a imm) = d :=
  ((extract_high (m := 20) (n := 12) _ _ 18 6 (by decide)).trans ((extract_high (m := 14) (n := 6) _ _ 6 6 (by decide)).trans ((extract_low (m := 8) (n := 6) _ _ 0 6 (by decide)).trans (extract_all _))))
@[simp] theorem fldA_packI (c : Bool) (op : BitVec 6) (w : Bool) (d : BitVec 6) (a : BitVec 6) (imm : BitVec 12) : fldA (packI c op w d a imm) = a :=
  ((extract_high (m := 20) (n := 12) _ _ 12 6 (by decide)).trans ((extract_low (m := 14) (n := 6) _ _ 0 6 (by decide)).trans (extract_all _)))
@[simp] theorem fldI12_packI (c : Bool) (op : BitVec 6) (w : Bool) (d : BitVec 6) (a : BitVec 6) (imm : BitVec 12) : fldI12 (packI c op w d a imm) = imm :=
  ((extract_low (m := 20) (n := 12) _ _ 0 12 (by decide)).trans (extract_all _))
@[simp] theorem fldC_packU (c : Bool) (op : BitVec 6) (d : BitVec 6) (imm : BitVec 19) : fldC (packU c op d imm) = c :=
  (congrArg (· == 1#1) ((extract_high (m := 13) (n := 19) _ _ 31 1 (by decide)).trans ((extract_high (m := 7) (n := 6) _ _ 12 1 (by decide)).trans ((extract_high (m := 1) (n := 6) _ _ 6 1 (by decide)).trans (extract_all _))))).trans (ofBool_beq _)
@[simp] theorem fldOp_packU (c : Bool) (op : BitVec 6) (d : BitVec 6) (imm : BitVec 19) : fldOp (packU c op d imm) = op :=
  ((extract_high (m := 13) (n := 19) _ _ 25 6 (by decide)).trans ((extract_high (m := 7) (n := 6) _ _ 6 6 (by decide)).trans ((extract_low (m := 1) (n := 6) _ _ 0 6 (by decide)).trans (extract_all _))))
@[simp] theorem fldUD_packU (c : Bool) (op : BitVec 6) (d : BitVec 6) (imm : BitVec 19) : fldUD (packU c op d imm) = d :=
  ((extract_high (m := 13) (n := 19) _ _ 19 6 (by decide)).trans ((extract_low (m := 7) (n := 6) _ _ 0 6 (by decide)).trans (extract_all _)))
@[simp] theorem fldI19_packU (c : Bool) (op : BitVec 6) (d : BitVec 6) (imm : BitVec 19) : fldI19 (packU c op d imm) = imm :=
  ((extract_low (m := 13) (n := 19) _ _ 0 19 (by decide)).trans (extract_all _))
@[simp] theorem fldC_packB (c : Bool) (op : BitVec 6) (k : BitVec 3) (disp : BitVec 22) : fldC (packB c op k disp) = c :=
  (congrArg (· == 1#1) ((extract_high (m := 10) (n := 22) _ _ 31 1 (by decide)).trans ((extract_high (m := 7) (n := 3) _ _ 9 1 (by decide)).trans ((extract_high (m := 1) (n := 6) _ _ 6 1 (by decide)).trans (extract_all _))))).trans (ofBool_beq _)
@[simp] theorem fldOp_packB (c : Bool) (op : BitVec 6) (k : BitVec 3) (disp : BitVec 22) : fldOp (packB c op k disp) = op :=
  ((extract_high (m := 10) (n := 22) _ _ 25 6 (by decide)).trans ((extract_high (m := 7) (n := 3) _ _ 3 6 (by decide)).trans ((extract_low (m := 1) (n := 6) _ _ 0 6 (by decide)).trans (extract_all _))))
@[simp] theorem fldBK_packB (c : Bool) (op : BitVec 6) (k : BitVec 3) (disp : BitVec 22) : fldBK (packB c op k disp) = k :=
  ((extract_high (m := 10) (n := 22) _ _ 22 3 (by decide)).trans ((extract_low (m := 7) (n := 3) _ _ 0 3 (by decide)).trans (extract_all _)))
@[simp] theorem fldDisp22_packB (c : Bool) (op : BitVec 6) (k : BitVec 3) (disp : BitVec 22) : fldDisp22 (packB c op k disp) = disp :=
  ((extract_low (m := 10) (n := 22) _ _ 0 22 (by decide)).trans (extract_all _))
@[simp] theorem fldC_packM (m : MHdr) (op d a : BitVec 6) (y z : BitVec 2) : fldC (packM m op d a y z) = m.c :=
  (congrArg (· == 1#1) ((extract_high (m := 30) (n := 2) _ _ 31 1 (by decide)).trans ((extract_high (m := 26) (n := 4) _ _ 29 1 (by decide)).trans ((extract_high (m := 24) (n := 2) _ _ 25 1 (by decide)).trans ((extract_high (m := 21) (n := 3) _ _ 23 1 (by decide)).trans ((extract_high (m := 19) (n := 2) _ _ 20 1 (by decide)).trans ((extract_high (m := 13) (n := 6) _ _ 18 1 (by decide)).trans ((extract_high (m := 7) (n := 6) _ _ 12 1 (by decide)).trans ((extract_high (m := 1) (n := 6) _ _ 6 1 (by decide)).trans (extract_all _)))))))))).trans (ofBool_beq _)
@[simp] theorem fldOp_packM (m : MHdr) (op d a : BitVec 6) (y z : BitVec 2) : fldOp (packM m op d a y z) = op :=
  ((extract_high (m := 30) (n := 2) _ _ 25 6 (by decide)).trans ((extract_high (m := 26) (n := 4) _ _ 23 6 (by decide)).trans ((extract_high (m := 24) (n := 2) _ _ 19 6 (by decide)).trans ((extract_high (m := 21) (n := 3) _ _ 17 6 (by decide)).trans ((extract_high (m := 19) (n := 2) _ _ 14 6 (by decide)).trans ((extract_high (m := 13) (n := 6) _ _ 12 6 (by decide)).trans ((extract_high (m := 7) (n := 6) _ _ 6 6 (by decide)).trans ((extract_low (m := 1) (n := 6) _ _ 0 6 (by decide)).trans (extract_all _)))))))))
@[simp] theorem fldUD_packM (m : MHdr) (op d a : BitVec 6) (y z : BitVec 2) : fldUD (packM m op d a y z) = d :=
  ((extract_high (m := 30) (n := 2) _ _ 19 6 (by decide)).trans ((extract_high (m := 26) (n := 4) _ _ 17 6 (by decide)).trans ((extract_high (m := 24) (n := 2) _ _ 13 6 (by decide)).trans ((extract_high (m := 21) (n := 3) _ _ 11 6 (by decide)).trans ((extract_high (m := 19) (n := 2) _ _ 8 6 (by decide)).trans ((extract_high (m := 13) (n := 6) _ _ 6 6 (by decide)).trans ((extract_low (m := 7) (n := 6) _ _ 0 6 (by decide)).trans (extract_all _))))))))
@[simp] theorem fldMA_packM (m : MHdr) (op d a : BitVec 6) (y z : BitVec 2) : fldMA (packM m op d a y z) = a :=
  ((extract_high (m := 30) (n := 2) _ _ 13 6 (by decide)).trans ((extract_high (m := 26) (n := 4) _ _ 11 6 (by decide)).trans ((extract_high (m := 24) (n := 2) _ _ 7 6 (by decide)).trans ((extract_high (m := 21) (n := 3) _ _ 5 6 (by decide)).trans ((extract_high (m := 19) (n := 2) _ _ 2 6 (by decide)).trans ((extract_low (m := 13) (n := 6) _ _ 0 6 (by decide)).trans (extract_all _)))))))
@[simp] theorem fldY_packM (m : MHdr) (op d a : BitVec 6) (y z : BitVec 2) : fldY (packM m op d a y z) = y :=
  ((extract_high (m := 30) (n := 2) _ _ 11 2 (by decide)).trans ((extract_high (m := 26) (n := 4) _ _ 9 2 (by decide)).trans ((extract_high (m := 24) (n := 2) _ _ 5 2 (by decide)).trans ((extract_high (m := 21) (n := 3) _ _ 3 2 (by decide)).trans ((extract_low (m := 19) (n := 2) _ _ 0 2 (by decide)).trans (extract_all _))))))
@[simp] theorem fldZ_packM (m : MHdr) (op d a : BitVec 6) (y z : BitVec 2) : fldZ (packM m op d a y z) = z :=
  ((extract_low (m := 30) (n := 2) _ _ 0 2 (by decide)).trans (extract_all _))
@[simp] theorem fldC_packT (c : Bool) (code : BitVec 16) (f : BitVec 6) : fldC (packT c code f) = c :=
  (congrArg (· == 1#1) ((extract_high (m := 26) (n := 6) _ _ 31 1 (by decide)).trans ((extract_high (m := 10) (n := 16) _ _ 25 1 (by decide)).trans ((extract_high (m := 7) (n := 3) _ _ 9 1 (by decide)).trans ((extract_high (m := 1) (n := 6) _ _ 6 1 (by decide)).trans (extract_all _)))))).trans (ofBool_beq _)
@[simp] theorem fldOp_packT (c : Bool) (code : BitVec 16) (f : BitVec 6) : fldOp (packT c code f) = 0#6 :=
  ((extract_high (m := 26) (n := 6) _ _ 25 6 (by decide)).trans ((extract_high (m := 10) (n := 16) _ _ 19 6 (by decide)).trans ((extract_high (m := 7) (n := 3) _ _ 3 6 (by decide)).trans ((extract_low (m := 1) (n := 6) _ _ 0 6 (by decide)).trans (extract_all _)))))
@[simp] theorem fldF_packT (c : Bool) (code : BitVec 16) (f : BitVec 6) : fldF (packT c code f) = f :=
  ((extract_low (m := 26) (n := 6) _ _ 0 6 (by decide)).trans (extract_all _))
@[simp] theorem fldBK_packT (c : Bool) (code : BitVec 16) (f : BitVec 6) : fldBK (packT c code f) = 0#3 :=
  ((extract_high (m := 26) (n := 6) _ _ 22 3 (by decide)).trans ((extract_high (m := 10) (n := 16) _ _ 16 3 (by decide)).trans ((extract_low (m := 7) (n := 3) _ _ 0 3 (by decide)).trans (extract_all _))))
@[simp] theorem fldCode_packT (c : Bool) (code : BitVec 16) (f : BitVec 6) : fldCode (packT c code f) = code :=
  ((extract_high (m := 26) (n := 6) _ _ 6 16 (by decide)).trans ((extract_low (m := 10) (n := 16) _ _ 0 16 (by decide)).trans (extract_all _)))

@[simp] theorem fldM_packM (m : MHdr) (op d a : BitVec 6) (y z : BitVec 2) : fldM (packM m op d a y z) = m := by
  have hk : (packM m op d a y z).extractLsb' 8 3 = m.k := ((extract_high (m := 30) (n := 2) _ _ 8 3 (by decide)).trans ((extract_high (m := 26) (n := 4) _ _ 6 3 (by decide)).trans ((extract_high (m := 24) (n := 2) _ _ 2 3 (by decide)).trans ((extract_low (m := 21) (n := 3) _ _ 0 3 (by decide)).trans (extract_all _)))))
  have ho : (packM m op d a y z).extractLsb' 6 2 = m.o := ((extract_high (m := 30) (n := 2) _ _ 6 2 (by decide)).trans ((extract_high (m := 26) (n := 4) _ _ 4 2 (by decide)).trans ((extract_low (m := 24) (n := 2) _ _ 0 2 (by decide)).trans (extract_all _))))
  have hp : (packM m op d a y z).extractLsb' 2 4 = m.p := ((extract_high (m := 30) (n := 2) _ _ 2 4 (by decide)).trans ((extract_low (m := 26) (n := 4) _ _ 0 4 (by decide)).trans (extract_all _)))
  show MHdr.mk (fldC (packM m op d a y z)) ((packM m op d a y z).extractLsb' 8 3) ((packM m op d a y z).extractLsb' 6 2)
    ((packM m op d a y z).extractLsb' 2 4) = m
  rw [fldC_packM, hk, ho, hp]

@[simp] theorem fldYZ_packM (m : MHdr) (op d a : BitVec 6) (y z : BitVec 2) : fldYZ (packM m op d a y z) = y ++ z := by
  unfold fldYZ
  rw [fldY_packM, fldZ_packM]

@[simp] theorem fldC_packYZ (m : MHdr) (op d a : BitVec 6) (yz : BitVec 4) : fldC (packYZ m op d a yz) = m.c :=
  fldC_packM m op d a _ _
@[simp] theorem fldOp_packYZ (m : MHdr) (op d a : BitVec 6) (yz : BitVec 4) : fldOp (packYZ m op d a yz) = op :=
  fldOp_packM m op d a _ _
@[simp] theorem fldUD_packYZ (m : MHdr) (op d a : BitVec 6) (yz : BitVec 4) : fldUD (packYZ m op d a yz) = d :=
  fldUD_packM m op d a _ _
@[simp] theorem fldMA_packYZ (m : MHdr) (op d a : BitVec 6) (yz : BitVec 4) : fldMA (packYZ m op d a yz) = a :=
  fldMA_packM m op d a _ _
@[simp] theorem fldM_packYZ (m : MHdr) (op d a : BitVec 6) (yz : BitVec 4) : fldM (packYZ m op d a yz) = m :=
  fldM_packM m op d a _ _

@[simp] theorem fldYZ_packYZ (m : MHdr) (op d a : BitVec 6) (yz : BitVec 4) : fldYZ (packYZ m op d a yz) = yz := by
  unfold packYZ
  rw [fldYZ_packM]
  revert yz
  decide

@[simp] theorem fldOp_packInt (h : AHdr) (op : BitVec 5) (wide : Bool) (d a b : Operand) : fldOp (packInt h op wide d a b) = 6#6 :=
  fldOp_packA ..
@[simp] theorem fldOp_packInt1 (h : AHdr) (op : BitVec 5) (wide : Bool) (d a : Operand) : fldOp (packInt1 h op wide d a) = 6#6 :=
  fldOp_packA ..
@[simp] theorem fldOp_packF (h : AHdr) (op : BitVec 6) (d a b x : Operand) : fldOp (packF h op d a b x) = op := fldOp_packA ..
@[simp] theorem fldOp_packFlt (h : AHdr) (op : BitVec 6) (f5 : BitVec 1) (d a b : Operand) (fs : FS) (rm : RM) :
    fldOp (packFlt h op f5 d a b fs rm) = op := fldOp_packA ..

/-- Every operand is read back from its code. -/
@[simp] theorem Operand.ofCode_code (o : Operand) : Operand.ofCode o.code = o := by
  cases o with
  | v n => revert n; decide
  | s n => revert n; decide
  | b n => revert n; decide
  | rsv59 | zero | lane | lit | rsv63 => rfl

@[simp] theorem FS.ofCode_code (x : FS) : FS.ofCode x.code = x := by cases x <;> rfl
@[simp] theorem FC.ofCode_code (x : FC) : FC.ofCode x.code = x := by cases x <;> rfl
@[simp] theorem IT.ofCode_code (x : IT) : IT.ofCode x.code = x := by cases x <;> rfl
@[simp] theorem RM.ofCode_code (x : RM) : RM.ofCode x.code = x := by cases x <;> rfl
@[simp] theorem Scope.ofCode_code (x : Scope) : Scope.ofCode x.code = x := by cases x <;> rfl
@[simp] theorem IPred.ofCode_code (x : IPred) : IPred.ofCode x.code = some x := by cases x <;> rfl
@[simp] theorem FPred.ofCode_code (x : FPred) : FPred.ofCode x.code = some x := by cases x <;> rfl
@[simp] theorem MF.ofCode_code (x : MF) : MF.ofCode x.code = some x := by cases x <;> rfl
@[simp] theorem SFn.ofCode_code (x : SFn) : SFn.ofCode x.code = some x := by cases x <;> rfl
@[simp] theorem RedOp.ofCode_code (x : RedOp) : RedOp.ofCode x.code = some x := by cases x <;> rfl
@[simp] theorem RedTy.ofCode_code (x : RedTy) : RedTy.ofCode x.code = x := by cases x <;> rfl
@[simp] theorem AtomOp.ofCode_code (x : AtomOp) : AtomOp.ofCode x.code = x := by cases x <;> rfl
@[simp] theorem Size.ofCode_code (x : Size) : Size.ofCode x.code = x := by cases x <;> rfl

/-- A mask number is read back from its field. -/
@[simp] theorem low3_kfield (k : BitVec 3) : low3 (kfield k) = k := by
  revert k
  decide

/-! Selectors inside the field F. -/

@[simp] theorem low3_append (x y : BitVec 3) : low3 (x ++ y) = y := by
  revert x y
  decide
@[simp] theorem high3_append (x y : BitVec 3) : (x ++ y).extractLsb' 3 3 = x := by
  revert x y
  decide
@[simp] theorem high4_append (x : BitVec 4) (y : BitVec 2) : (x ++ y).extractLsb' 2 4 = x := by
  revert x y
  decide
@[simp] theorem low2_append (x : BitVec 4) (y : BitVec 2) : (x ++ y).extractLsb' 0 2 = y := by
  revert x y
  decide
@[simp] theorem intF_wide (wide : Bool) (op : BitVec 5) : ((intF wide op).extractLsb' 5 1 == 1#1) = wide := by
  revert wide op
  decide
@[simp] theorem intF_op (wide : Bool) (op : BitVec 5) : (intF wide op).extractLsb' 0 5 = op := by
  revert wide op
  decide
@[simp] theorem fltF_top (x : BitVec 1) (y : BitVec 2) (z : BitVec 3) : (x ++ y ++ z).extractLsb' 5 1 = x := by
  revert x y z
  decide
@[simp] theorem fltF_mid (x : BitVec 1) (y : BitVec 2) (z : BitVec 3) : (x ++ y ++ z).extractLsb' 3 2 = y := by
  revert x y z
  decide
@[simp] theorem fltF_low (x : BitVec 1) (y : BitVec 2) (z : BitVec 3) : low3 (x ++ y ++ z) = z := by
  revert x y z
  decide

/-- A word of the right selectors is decoded once its own encoding gives the word back. -/
theorem decode_of_shape {w : Word} {i : Instr} (hs : shape w = .ok i) (he : encode i = some w) : decode w = .ok i := by
  unfold decode
  rw [hs]
  simp [he]

end Sys2Proof
end

