-- ==== Sys2Proof/Laws/Tab.lean ====
section
/-! SUPPORT. Tables and memory: reading after writing, and the canonical form that every operation keeps. -/

namespace Sys2Proof.Machine

/-! ## Reading a table after writing it -/

theorem tget_tput_same {α : Type} (t : Tab α) (n : Nat) (x : α) : tget (tput t n x) n = some x := by
  induction t with
  | nil => simp [tput, tget]
  | cons p t ih =>
    obtain ⟨k, v⟩ := p
    unfold tput
    split
    · simp [tget]
    · split
      · simp [tget]
      · rename_i h1 h2
        have hk : k ≠ n := fun h => h2 h.symm
        simp [tget, hk, ih]

theorem tget_tput_other {α : Type} (t : Tab α) {n m : Nat} (x : α) (h : m ≠ n) : tget (tput t n x) m = tget t m := by
  have h' : n ≠ m := fun e => h e.symm
  induction t with
  | nil => simp [tput, tget, h']
  | cons p t ih =>
    obtain ⟨k, v⟩ := p
    unfold tput
    split
    · simp [tget, h']
    · split
      · rename_i h1 h2
        have hk : k ≠ m := fun e => h' (h2.trans e)
        simp [tget, h', hk]
      · simp only [tget]
        rw [ih]

theorem tget_tdel_same {α : Type} (t : Tab α) (n : Nat) : tget (tdel t n) n = none := by
  induction t with
  | nil => rfl
  | cons p t ih =>
    obtain ⟨k, v⟩ := p
    unfold tdel
    split
    · exact ih
    · rename_i h
      simp [tget, h, ih]

theorem tget_tdel_other {α : Type} (t : Tab α) {n m : Nat} (h : m ≠ n) : tget (tdel t n) m = tget t m := by
  induction t with
  | nil => rfl
  | cons p t ih =>
    obtain ⟨k, v⟩ := p
    unfold tdel
    split
    · rename_i hk
      have hm : k ≠ m := fun e => h (e.symm.trans hk)
      simp [tget, hm, ih]
    · simp only [tget]
      rw [ih]

theorem tget_tmod {α : Type} (t : Tab α) (n m : Nat) (f : α → α) :
    tget (tmod t n f) m = if m = n then (tget t n).map f else tget t m := by
  induction t with
  | nil => simp [tmod, tget]
  | cons p t ih =>
    obtain ⟨k, v⟩ := p
    unfold tmod
    by_cases hk : k = n
    · subst hk
      by_cases hm : m = k
      · subst hm; simp [tget]
      · have hm' : k ≠ m := fun e => hm e.symm
        simp [tget, hm, hm']
    · by_cases hm : m = n
      · subst hm; simp [tget, hk, ih]
      · simp only [hk, if_false, tget, ih, hm]

theorem tgetD_tputD {α : Type} [DecidableEq α] (t : Tab α) (n m : Nat) (x d : α) :
    tgetD (tputD t n x d) m d = if m = n then x else tgetD t m d := by
  unfold tgetD tputD
  by_cases hx : x = d
  · by_cases hm : m = n
    · subst hm; simp [hx, tget_tdel_same]
    · simp [hx, hm, tget_tdel_other t hm]
  · by_cases hm : m = n
    · subst hm; simp [hx, tget_tput_same]
    · simp [hx, hm, tget_tput_other t x hm]

/-! ## The canonical form of a table -/

/-- Every key of the table lies above a bound. -/
def above {α : Type} (b : Nat) (t : Tab α) : Prop := ∀ p ∈ t, b < p.1

theorem twf_cons {α : Type} (k : Nat) (v : α) (t : Tab α) : twf ((k, v) :: t) = true ↔ above k t ∧ twf t = true := by
  induction t generalizing k v with
  | nil => simp [twf, above]
  | cons p t ih =>
    obtain ⟨k', v'⟩ := p
    have h := ih k' v'
    simp only [twf, Bool.and_eq_true, decide_eq_true_eq]
    constructor
    · intro ⟨h1, h2⟩
      refine ⟨?_, h2⟩
      intro q hq
      rcases List.mem_cons.mp hq with rfl | hq
      · exact h1
      · exact Nat.lt_trans h1 ((h.mp h2).1 q hq)
    · intro ⟨h1, h2⟩
      exact ⟨h1 (k', v') (List.mem_cons_self ..), h2⟩

theorem above_tput {α : Type} {b n : Nat} {t : Tab α} {x : α} (h : above b t) (hn : b < n) : above b (tput t n x) := by
  induction t with
  | nil =>
    intro q hq
    simp only [tput, List.mem_singleton] at hq
    subst hq
    exact hn
  | cons p t ih =>
    obtain ⟨k, v⟩ := p
    have hk : b < k := h (k, v) (List.mem_cons_self ..)
    have ht : above b t := fun q hq => h q (List.mem_cons_of_mem _ hq)
    unfold tput
    split
    · intro q hq
      rcases List.mem_cons.mp hq with rfl | hq
      · exact hn
      · exact h q hq
    · split
      · intro q hq
        rcases List.mem_cons.mp hq with rfl | hq
        · exact hn
        · exact ht q hq
      · intro q hq
        rcases List.mem_cons.mp hq with rfl | hq
        · exact hk
        · exact ih ht q hq

theorem twf_tput {α : Type} (t : Tab α) (n : Nat) (x : α) (h : twf t = true) : twf (tput t n x) = true := by
  induction t with
  | nil => rfl
  | cons p t ih =>
    obtain ⟨k, v⟩ := p
    have hh := (twf_cons k v t).mp h
    unfold tput
    split
    · rename_i h1
      refine (twf_cons n x _).mpr ⟨?_, h⟩
      intro q hq
      rcases List.mem_cons.mp hq with rfl | hq
      · exact h1
      · exact Nat.lt_trans h1 (hh.1 q hq)
    · split
      · rename_i h1 h2
        subst h2
        exact (twf_cons n x t).mpr hh
      · rename_i h1 h2
        exact (twf_cons k v _).mpr ⟨above_tput hh.1 (by omega), ih hh.2⟩

theorem mem_tdel {α : Type} {t : Tab α} {n : Nat} {q : Nat × α} (h : q ∈ tdel t n) : q ∈ t := by
  induction t with
  | nil => exact h
  | cons p t ih =>
    obtain ⟨k, v⟩ := p
    unfold tdel at h
    split at h
    · exact List.mem_cons_of_mem _ (ih h)
    · rcases List.mem_cons.mp h with rfl | h
      · exact List.mem_cons_self ..
      · exact List.mem_cons_of_mem _ (ih h)

theorem twf_tdel {α : Type} (t : Tab α) (n : Nat) (h : twf t = true) : twf (tdel t n) = true := by
  induction t with
  | nil => rfl
  | cons p t ih =>
    obtain ⟨k, v⟩ := p
    have hh := (twf_cons k v t).mp h
    unfold tdel
    split
    · exact ih hh.2
    · exact (twf_cons k v _).mpr ⟨fun q hq => hh.1 q (mem_tdel hq), ih hh.2⟩

theorem twf_filter {α : Type} (t : Tab α) (p : Nat × α → Bool) (h : twf t = true) : twf (t.filter p) = true := by
  induction t with
  | nil => rfl
  | cons q t ih =>
    obtain ⟨k, v⟩ := q
    have hh := (twf_cons k v t).mp h
    rw [List.filter_cons]
    split
    · exact (twf_cons k v _).mpr ⟨fun r hr => hh.1 r (List.mem_filter.mp hr).1, ih hh.2⟩
    · exact ih hh.2

theorem mem_tput {α : Type} {t : Tab α} {n : Nat} {x : α} {q : Nat × α} (h : q ∈ tput t n x) : q = (n, x) ∨ q ∈ t := by
  induction t with
  | nil => simpa [tput] using h
  | cons p t ih =>
    obtain ⟨k, v⟩ := p
    unfold tput at h
    split at h
    · simpa using h
    · split at h
      · rcases List.mem_cons.mp h with rfl | h
        · exact .inl rfl
        · exact .inr (List.mem_cons_of_mem _ h)
      · rcases List.mem_cons.mp h with rfl | h
        · exact .inr (List.mem_cons_self ..)
        · rcases ih h with rfl | h
          · exact .inl rfl
          · exact .inr (List.mem_cons_of_mem _ h)

/-! ## Memory -/

theorem readByte_writeByte (m : Memory) (a i : Nat) (b : Byte) :
    readByte (writeByte m a b) i = if i = a then b else readByte m i := tgetD_tputD m a i b 0#8

theorem Memory.wf_iff (m : Memory) : Memory.wf m = true ↔ twf m = true ∧ ∀ c ∈ m, c.2 ≠ 0#8 := by
  simp [Memory.wf, List.all_eq_true]

theorem wf_writeByte (m : Memory) (a : Nat) (b : Byte) (h : Memory.wf m = true) : Memory.wf (writeByte m a b) = true := by
  rw [Memory.wf_iff] at h ⊢
  unfold writeByte tputD
  split
  · exact ⟨twf_tdel m a h.1, fun c hc => h.2 c (mem_tdel hc)⟩
  · rename_i hb
    refine ⟨twf_tput m a b h.1, fun c hc => ?_⟩
    rcases mem_tput hc with rfl | hc
    · exact hb
    · exact h.2 c hc

theorem wf_writeBytes (bs : List Byte) (m : Memory) (a : Nat) (h : Memory.wf m = true) : Memory.wf (writeBytes m a bs) = true := by
  induction bs generalizing m a with
  | nil => exact h
  | cons b bs ih => exact ih _ _ (wf_writeByte m a b h)

theorem wf_writeNat (m : Memory) (a x n : Nat) (h : Memory.wf m = true) : Memory.wf (writeNat m a x n) = true :=
  wf_writeBytes _ m a h

theorem wf_zeroRange (m : Memory) (lo hi : Nat) (h : Memory.wf m = true) : Memory.wf (zeroRange m lo hi) = true := by
  rw [Memory.wf_iff] at h ⊢
  exact ⟨twf_filter m _ h.1, fun c hc => h.2 c (List.mem_filter.mp hc).1⟩

/-- A byte outside the run written reads as before. -/
theorem readByte_writeBytes_outside (bs : List Byte) (m : Memory) (a i : Nat) (h : i < a ∨ a + bs.length ≤ i) :
    readByte (writeBytes m a bs) i = readByte m i := by
  induction bs generalizing m a with
  | nil => rfl
  | cons b bs ih =>
    simp only [List.length_cons] at h
    rw [writeBytes, ih _ _ (by omega), readByte_writeByte, if_neg (by omega)]

/-- A byte inside the run written reads as the byte written there. -/
theorem readByte_writeBytes_inside (bs : List Byte) (m : Memory) (a k : Nat) (h : k < bs.length) :
    readByte (writeBytes m a bs) (a + k) = bs.getD k 0#8 := by
  induction bs generalizing m a k with
  | nil => simp at h
  | cons b bs ih =>
    rw [writeBytes]
    cases k with
    | zero => rw [readByte_writeBytes_outside _ _ _ _ (by omega), readByte_writeByte]; simp
    | succ k =>
      have := ih (writeByte m a b) (a + 1) k (by simpa using h)
      rw [show a + (k + 1) = a + 1 + k by omega, this]
      simp

/-- A run reads back as it was written. -/
theorem readBytes_writeBytes (bs : List Byte) (m : Memory) (a : Nat) : readBytes (writeBytes m a bs) a bs.length = bs := by
  suffices h : ∀ (n : Nat) (m : Memory) (c : Nat), (∀ k, k < n → readByte m (c + k) = bs.getD (bs.length - n + k) 0#8) →
      n ≤ bs.length → readBytes m c n = bs.drop (bs.length - n) by
    have := h bs.length (writeBytes m a bs) a (fun k hk => by
      rw [readByte_writeBytes_inside bs m a k hk]; simp) (Nat.le_refl _)
    simpa using this
  intro n
  induction n with
  | zero => intro m c _ _; simp [readBytes]
  | succ n ih =>
    intro m c hr hn
    have h0 := hr 0 (by omega)
    have hlt : bs.length - (n + 1) < bs.length := by omega
    rw [readBytes, ih m (c + 1) (fun k hk => by
      have := hr (k + 1) (by omega)
      rw [show c + 1 + k = c + (k + 1) by omega, this]
      congr 1
      omega) (by omega)]
    rw [List.drop_eq_getElem_cons hlt]
    simp only [Nat.add_zero] at h0
    rw [h0, show bs.length - (n + 1) + 1 = bs.length - n by omega]
    simp [List.getD_eq_getElem?_getD, hlt]

theorem leBytes_length (x n : Nat) : (leBytes x n).length = n := by
  induction n generalizing x with
  | zero => rfl
  | succ n ih => simp [leBytes, ih]

theorem leNat_leBytes (x n : Nat) : leNat (leBytes x n) = x % 2 ^ (8 * n) := by
  induction n generalizing x with
  | zero => simp [leBytes, leNat, Nat.mod_one]
  | succ n ih =>
    rw [leBytes, leNat, ih, BitVec.toNat_ofNat, show (8 * (n + 1)) = 8 + 8 * n by omega, Nat.pow_add, Nat.mod_mul]

/-- A number reads back as it was written, modulo its width (00 R4). -/
theorem readNat_writeNat (m : Memory) (a x n : Nat) : readNat (writeNat m a x n) a n = x % 2 ^ (8 * n) := by
  have h := readBytes_writeBytes (leBytes x n) m a
  rw [leBytes_length] at h
  rw [readNat, writeNat, h, leNat_leBytes]

theorem lset_getD_same {α : Type} (xs : List α) (n : Nat) (x d : α) (h : n < xs.length) : (lset xs n x).getD n d = x := by
  induction xs generalizing n with
  | nil => simp at h
  | cons y t ih =>
    cases n with
    | zero => simp [lset]
    | succ n => simpa [lset] using ih n (by simpa using h)

theorem lset_getD_other {α : Type} (xs : List α) {n m : Nat} (x d : α) (h : m ≠ n) : (lset xs n x).getD m d = xs.getD m d := by
  induction xs generalizing n m with
  | nil => rfl
  | cons y t ih =>
    cases n with
    | zero =>
      cases m with
      | zero => exact absurd rfl h
      | succ m => simp [lset]
    | succ n =>
      cases m with
      | zero => simp [lset]
      | succ m => simpa [lset] using ih (n := n) (m := m) (by omega)

end Sys2Proof.Machine
end

