-- ==== Sys2Proof/Laws/Frames.lean ====
section
/-! SUPPORT. What the shared operations on the device leave as it was, one lemma for each: accesses of units, reports, faults, and
the operations of memory words at their homes. -/

namespace Sys2Proof.Machine

/-! ## Which parts of the device differ -/

/-- Only what a translation leaves differs: the translation buffer, the walkers' copies, the LLC's tags of the tables' lines, and the flits
of their reads. -/
def TlbOnly (d d' : Dev) : Prop :=
  d' = { d with tlb := d'.tlb, copies := d'.copies, llc := d'.llc, victims := d'.victims, net := d'.net }
/-- Only what the cores keep differs. -/
def CoresOnly (d d' : Dev) : Prop := d' = { d with cores := d'.cores }
/-- Only what a read at a home moves differs: the LLC's tags, and what the adapter has accepted for the host's memory. -/
def HomeOnly (d d' : Dev) : Prop := d' = { d with llc := d'.llc, victims := d'.victims, host := d'.host, accepted := d'.accepted }
/-- Only what a read through a core's cache moves differs: its lines beside the home's. -/
def CacheOnly (d d' : Dev) : Prop :=
  d' = { d with cores := d'.cores, llc := d'.llc, victims := d'.victims, host := d'.host, accepted := d'.accepted }
/-- Only what a write at a home changes differs: the memories, the LLC's tags, the marks of releases and the notices of TAIL. -/
def MemOnly (d d' : Dev) : Prop :=
  d' = { d with mem := d'.mem, host := d'.host, peers := d'.peers, teams := d'.teams, llc := d'.llc, victims := d'.victims,
                accepted := d'.accepted, rels := d'.rels, cx := d'.cx }
/-- Only what a read by a unit moves differs: what its home moves, the translation buffer and the flits. -/
def FetchOnly (d d' : Dev) : Prop :=
  d' = { d with llc := d'.llc, victims := d'.victims, host := d'.host, accepted := d'.accepted, tlb := d'.tlb, copies := d'.copies, net := d'.net }
/-- Only what an access of a unit changes differs: what a write at its home changes, the translation buffer, the flits and what the
cores keep. -/
def UnitOnly (d d' : Dev) : Prop :=
  d' = { d with mem := d'.mem, host := d'.host, peers := d'.peers, teams := d'.teams, llc := d'.llc, victims := d'.victims,
                accepted := d'.accepted, rels := d'.rels, cx := d'.cx, tlb := d'.tlb, copies := d'.copies, net := d'.net, cores := d'.cores }
/-- Only what a translation report changes differs: the fault buffers, their records and vectors, their flits, and the reports. -/
def ReportOnly (d d' : Dev) : Prop :=
  d' = { d with host := d'.host, accepted := d'.accepted, net := d'.net, reg := d'.reg, msix := d'.msix, reports := d'.reports, fresh := d'.fresh }
/-- Only what the end of a part of a memory operation changes differs: operations, groups, links, flits and cores. -/
def OpsOnly (d d' : Dev) : Prop := d' = { d with cores := d'.cores, links := d'.links, ops := d'.ops, groups := d'.groups, net := d'.net }

theorem TlbOnly.trans {a b c : Dev} (h : TlbOnly a b) (k : TlbOnly b c) : TlbOnly a c := by
  unfold TlbOnly at *; rw [k, h]
theorem CoresOnly.trans {a b c : Dev} (h : CoresOnly a b) (k : CoresOnly b c) : CoresOnly a c := by
  unfold CoresOnly at *; rw [k, h]
theorem HomeOnly.trans {a b c : Dev} (h : HomeOnly a b) (k : HomeOnly b c) : HomeOnly a c := by
  unfold HomeOnly at *; rw [k, h]
theorem CacheOnly.trans {a b c : Dev} (h : CacheOnly a b) (k : CacheOnly b c) : CacheOnly a c := by
  unfold CacheOnly at *; rw [k, h]
theorem FetchOnly.trans {a b c : Dev} (h : FetchOnly a b) (k : FetchOnly b c) : FetchOnly a c := by
  unfold FetchOnly at *; rw [k, h]
theorem MemOnly.trans {a b c : Dev} (h : MemOnly a b) (k : MemOnly b c) : MemOnly a c := by
  unfold MemOnly at *; rw [k, h]
theorem UnitOnly.trans {a b c : Dev} (h : UnitOnly a b) (k : UnitOnly b c) : UnitOnly a c := by
  unfold UnitOnly at *; rw [k, h]
theorem ReportOnly.trans {a b c : Dev} (h : ReportOnly a b) (k : ReportOnly b c) : ReportOnly a c := by
  unfold ReportOnly at *; rw [k, h]
theorem OpsOnly.trans {a b c : Dev} (h : OpsOnly a b) (k : OpsOnly b c) : OpsOnly a c := by
  unfold OpsOnly at *; rw [k, h]

theorem TlbOnly.unit {d d' : Dev} (h : TlbOnly d d') : UnitOnly d d' := by unfold UnitOnly TlbOnly at *; rw [h]
theorem CoresOnly.unit {d d' : Dev} (h : CoresOnly d d') : UnitOnly d d' := by unfold UnitOnly CoresOnly at *; rw [h]
theorem MemOnly.unit {d d' : Dev} (h : MemOnly d d') : UnitOnly d d' := by unfold UnitOnly MemOnly at *; rw [h]
theorem TlbOnly.fetch {d d' : Dev} (h : TlbOnly d d') : FetchOnly d d' := by unfold FetchOnly TlbOnly at *; rw [h]
theorem HomeOnly.fetch {d d' : Dev} (h : HomeOnly d d') : FetchOnly d d' := by unfold FetchOnly HomeOnly at *; rw [h]
theorem HomeOnly.cache {d d' : Dev} (h : HomeOnly d d') : CacheOnly d d' := by unfold CacheOnly HomeOnly at *; rw [h]
theorem HomeOnly.mem {d d' : Dev} (h : HomeOnly d d') : MemOnly d d' := by unfold MemOnly HomeOnly at *; rw [h]
theorem CoresOnly.cache {d d' : Dev} (h : CoresOnly d d') : CacheOnly d d' := by unfold CacheOnly CoresOnly at *; rw [h]
theorem FetchOnly.unit {d d' : Dev} (h : FetchOnly d d') : UnitOnly d d' := by unfold UnitOnly FetchOnly at *; rw [h]
theorem CoresOnly.ops {d d' : Dev} (h : CoresOnly d d') : OpsOnly d d' := by unfold OpsOnly CoresOnly at *; rw [h]

/-! ## The caches (03 R88) -/

theorem modCore_only (d : Dev) (c : Nat) (f : Core → Core) : CoresOnly d (modCore d c f) := rfl

theorem dcDrop_only (d : Dev) (c : Nat) (t : Target) (n : Nat) : CoresOnly d (dcDrop d c t n) := by unfold dcDrop; split <;> rfl

theorem cacheUpdate_only (d : Dev) (c : Nat) (t : Target) (xs : List (Nat × Byte)) : CoresOnly d (cacheUpdate d c t xs) := by
  unfold cacheUpdate; split <;> rfl

theorem cacheAfter_only (d : Dev) (cm : CacheMode) (t : Target) (xs : List (Nat × Byte)) : CoresOnly d (cacheAfter d cm t xs) := by
  cases cm with
  | leave => rfl
  | update c => exact cacheUpdate_only ..
  | remove c => exact dcDrop_only ..

/-! ## Homes (03 R86, R87, R91) -/

/-- A fold of steps that each keep a transitive, reflexive frame keeps it. -/
theorem foldl_keeps {α : Type} {P : Dev → Dev → Prop} (hr : ∀ d, P d d) (ht : ∀ a b c, P a b → P b c → P a c) (f : Dev → α → Dev)
    (hf : ∀ d x, P d (f d x)) (xs : List α) (d : Dev) : P d (xs.foldl f d) := by
  induction xs generalizing d with
  | nil => exact hr d
  | cons x t ih => exact ht _ _ _ (hf d x) (ih _)

theorem llcMake_only (d : Dev) (s : Nat) : HomeOnly d (llcMake d s) := by unfold llcMake; split <;> rfl

theorem llcLine_only (d : Dev) (wr : Bool) (pa : Nat) : HomeOnly d (llcLine d wr pa) := by
  unfold llcLine
  split
  · rfl
  · dsimp only
    split
    · rfl
    · exact (llcMake_only ..).trans rfl

theorem llcRead_only (d : Dev) (pa n : Nat) : HomeOnly d (llcRead d pa n) :=
  foldl_keeps (P := HomeOnly) (fun _ => rfl) (fun _ _ _ => HomeOnly.trans) _ (fun _ _ => llcLine_only ..) _ _

theorem homeTouch_only (d : Dev) (p : Nat) (t : Target) (n : Nat) : HomeOnly d (homeTouch d p t n) := by
  unfold homeTouch
  split
  · exact llcRead_only ..
  · rfl
  · split
    · exact llcRead_only ..
    · rfl
  · rfl

theorem noticeTail_only (d : Dev) (pa n oct : Nat) : MemOnly d (noticeTail d pa n oct) := by
  unfold noticeTail
  split
  · split <;> rfl
  · rfl

theorem llcWrite_only (d : Dev) (pa n : Nat) : HomeOnly d (llcWrite d pa n) :=
  foldl_keeps (P := HomeOnly) (fun _ => rfl) (fun _ _ _ => HomeOnly.trans) _ (fun _ _ => llcLine_only ..) _ _

theorem relsOff_only (d : Dev) (a : Nat × Nat × Nat) (n : Nat) : MemOnly d (relsOff d a n) := rfl

theorem noticeTails_only (d : Dev) (pa n : Nat) : MemOnly d (noticeTails d pa n) :=
  foldl_keeps (P := MemOnly) (fun _ => rfl) (fun _ _ _ => MemOnly.trans) _ (fun _ _ => noticeTail_only ..) _ _

theorem wrote_only (d : Dev) (pa n : Nat) : MemOnly d (wrote d pa n) :=
  (llcWrite_only ..).mem.trans ((relsOff_only ..).trans (noticeTails_only ..))

theorem memPut_only (d : Dev) (m : Memory) : MemOnly d { d with mem := m } := rfl

theorem homeWrite_only {d d' : Dev} {p : Nat} {t : Target} {xs : List (Nat × Byte)} (h : homeWrite d p t xs = some d') : MemOnly d d' := by
  unfold homeWrite at h
  split at h
  · split at h <;> simp only [Option.some.injEq, reduceCtorEq] at h; subst h; rfl
  · simp only [Option.some.injEq] at h; subst h; exact (memPut_only d _).trans (wrote_only ..)
  · obtain ⟨a, _, rfl⟩ := Option.map_eq_some_iff.mp h; rfl
  · split at h
    · split at h <;> simp only [Option.some.injEq, reduceCtorEq] at h
      subst h; exact (memPut_only d _).trans (wrote_only ..)
    · split at h <;> simp only [Option.some.injEq, reduceCtorEq] at h; subst h; rfl

/-! ## Reads of loads (03 R88) -/

theorem dcFill_only (d : Dev) (c ln : Nat) (bs : List Byte) : CacheOnly d (dcFill d c ln bs) := rfl

theorem cacheRead_only {d d1 : Dev} {p c n : Nat} {t : Target} {bs : List Byte} (h : cacheRead d p c t n = some (bs, d1)) : CacheOnly d d1 := by
  unfold cacheRead at h
  split at h
  · dsimp only at h
    split at h
    · simp only [Option.some.injEq, Prod.mk.injEq] at h; rw [← h.2]; rfl
    · split at h <;> simp only [Option.some.injEq, Prod.mk.injEq] at h <;> rw [← h.2]
      · exact (llcRead_only ..).cache.trans (dcFill_only ..)
      · exact (llcRead_only ..).cache
  · obtain ⟨x, _, hx⟩ := Option.map_eq_some_iff.mp h
    simp only [Prod.mk.injEq] at hx; rw [← hx.2]; exact (homeTouch_only ..).cache

theorem loadRead_only {d d1 : Dev} {id : Nat} {o : Op} {a : Acc} {bs : List Byte} (h : loadRead d id o a = some (bs, d1)) : CacheOnly d d1 := by
  unfold loadRead at h
  split at h
  · simp at h
  · dsimp only at h
    split at h
    · split at h
      · exact cacheRead_only h
      · obtain ⟨x, _, hx⟩ := Option.map_eq_some_iff.mp h
        simp only [Prod.mk.injEq] at hx; rw [← hx.2]
        exact (homeTouch_only ..).cache.trans (show CoresOnly _ (dcEmpty _ _) from rfl).cache
    · split at h
      · obtain ⟨x, _, hx⟩ := Option.map_eq_some_iff.mp h
        simp only [Prod.mk.injEq] at hx; rw [← hx.2]
        exact (homeTouch_only ..).cache.trans (dcDrop_only ..).cache
      · exact cacheRead_only h

/-! ## Accesses of units (03 R99) -/

theorem netAdd_only (d : Dev) (leaf ch n : Nat) : FetchOnly d (netAdd d leaf ch n) := by unfold netAdd; split <;> rfl
theorem netAdd_ops (d : Dev) (leaf ch n : Nat) : OpsOnly d (netAdd d leaf ch n) := by unfold netAdd; split <;> rfl

theorem netUnit_only (d : Dev) (p : Nat) (ag : Agent) (t : Target) (wr : Bool) (va0 va : Nat) : FetchOnly d (netUnit d p ag t wr va0 va) := by
  unfold netUnit
  dsimp only
  split
  · rfl
  · exact (netAdd_only ..).trans (netAdd_only ..)

theorem netAdd_tlb (d : Dev) (leaf ch n : Nat) : TlbOnly d (netAdd d leaf ch n) := by unfold netAdd; split <;> rfl

theorem llcLine_tlb (d : Dev) (wr : Bool) (pa : Nat) : TlbOnly d (llcLine d wr pa) := by
  unfold llcLine
  split
  · rfl
  · dsimp only
    split
    · rfl
    · unfold llcMake
      split <;> rfl

theorem llcRead_tlb (d : Dev) (pa n : Nat) : TlbOnly d (llcRead d pa n) :=
  foldl_keeps (P := TlbOnly) (fun _ => rfl) (fun _ _ _ => TlbOnly.trans) _ (fun _ _ => llcLine_tlb ..) _ _

theorem tlbUse_only (d : Dev) (t : TlbEntry) : TlbOnly d (tlbUse d t) := by
  unfold tlbUse
  split <;> split <;> rfl

/-- What a translation used leaves its mark in the translation buffer, the walkers' copies, the LLC and the flits alone. -/
theorem tlbTouch_only (d : Dev) (t : Touch) : TlbOnly d (tlbTouch d t) := by
  cases t with
  | entry t => exact tlbUse_only d t
  | line oct pa => exact ((netAdd_tlb ..).trans (netAdd_tlb ..)).trans (llcRead_tlb ..)

theorem tlbTouchAll_only (ts : List Touch) (d : Dev) : TlbOnly d (tlbTouchAll d ts) :=
  foldl_keeps (P := TlbOnly) (fun _ => rfl) (fun _ _ _ => TlbOnly.trans) _ tlbTouch_only ts d

theorem xlUnit_only {d d1 : Dev} {p : Nat} {ag : Agent} {va fi : Nat} {acc : AccKind} {t : Target}
    (h : xlUnit d p ag va acc fi = .ok (t, d1)) : TlbOnly d d1 := by
  unfold xlUnit at h
  split at h
  · simp at h
  · dsimp only at h
    split at h
    · simp at h
    · split at h
      · split at h
        · simp at h
        · split at h <;> simp only [Except.ok.injEq, Prod.mk.injEq, reduceCtorEq] at h
          rw [← h.2]; exact tlbTouchAll_only ..
      · simp at h
      · simp at h

theorem unitReadGo_only (p : Nat) (ag : Agent) (fi va0 : Nat) (k : Nat) :
    ∀ (d : Dev) (va n : Nat) (bs : List Byte) (d1 : Dev), unitReadGo d p ag fi va0 k va n = .ok (bs, d1) → FetchOnly d d1 := by
  induction k with
  | zero => intro d va n bs d1 h; simp only [unitReadGo, Except.ok.injEq, Prod.mk.injEq] at h; rw [← h.2]; rfl
  | succ k ih =>
    intro d va n bs d1 h
    unfold unitReadGo at h
    split at h
    · simp only [Except.ok.injEq, Prod.mk.injEq] at h; rw [← h.2]; rfl
    · dsimp only at h
      split at h
      · simp at h
      · rename_i t d2 hx
        split at h
        · simp at h
        · split at h
          · simp at h
          · rename_i hr
            simp only [Except.ok.injEq, Prod.mk.injEq] at h
            rw [← h.2]
            exact (xlUnit_only hx).fetch.trans ((netUnit_only ..).trans ((homeTouch_only ..).fetch.trans (ih _ _ _ _ _ hr)))

/-- A unit's read changes nothing but what its home moves, the translation buffer and the flits. -/
theorem unitRead_only {d d1 : Dev} {p : Nat} {ag : Agent} {va n fi : Nat} {bs : List Byte}
    (h : unitRead d p ag va n fi = .ok (bs, d1)) : FetchOnly d d1 := unitReadGo_only _ _ _ _ _ _ _ _ _ _ h

theorem unitWriteGo_only (p : Nat) (ag : Agent) (cm : CacheMode) (fi va0 : Nat) (k : Nat) :
    ∀ (d : Dev) (va : Nat) (bs : List Byte) (n : Nat), UnitOnly d (unitWriteGo p ag cm fi va0 k d va bs n).1 := by
  induction k with
  | zero => intro d va bs n; rfl
  | succ k ih =>
    intro d va bs n
    unfold unitWriteGo
    split
    · rfl
    · dsimp only
      split
      · rfl
      · rename_i t d1 hx
        split
        · exact (xlUnit_only hx).unit
        · rename_i d2 hw
          exact (xlUnit_only hx).unit.trans ((netUnit_only ..).unit.trans ((homeWrite_only hw).unit.trans
            ((cacheAfter_only ..).unit.trans (ih ..))))

/-- A unit's write changes nothing but what its home changes, the translation buffer, the flits and the cores' copies. -/
theorem unitWrite_only (d : Dev) (p : Nat) (ag : Agent) (cm : CacheMode) (va : Nat) (bs : List Byte) (fi : Nat) :
    UnitOnly d (unitWrite d p ag cm va bs fi).1 := unitWriteGo_only ..

theorem unitWriteWhole_only {d d1 : Dev} {p : Nat} {ag : Agent} {cm : CacheMode} {va fi : Nat} {bs : List Byte}
    (h : unitWriteWhole d p ag cm va bs fi = .ok d1) : UnitOnly d d1 := by
  unfold unitWriteWhole at h
  dsimp only at h
  split at h
  · simp at h
  · split at h <;> simp only [Except.ok.injEq, reduceCtorEq] at h
    rename_i hw
    have := unitWrite_only d p ag cm va bs fi
    rw [hw, h] at this
    exact this

/-! ## Reports and faults (15 R439, 16 R454) -/

theorem regPut_report (d : Dev) (off lo n v : Nat) : ReportOnly d (regPut d off lo n v) := by unfold regPut; rfl
theorem raiseMsix_report (d : Dev) (v : Nat) : ReportOnly d (raiseMsix d v) := by unfold raiseMsix; rfl
theorem hostWrite_report (d : Dev) (a : Nat) (bs : List Byte) : ReportOnly d (hostWrite d a bs) := by unfold hostWrite; split <;> rfl
theorem netAdd_report (d : Dev) (leaf ch n : Nat) : ReportOnly d (netAdd d leaf ch n) := by unfold netAdd; split <;> rfl

theorem reportPass_only (d : Dev) (r : Report) : ReportOnly d (reportPass d r).1 := by
  unfold reportPass
  split
  · rfl
  · split
    · exact (hostWrite_report ..).trans ((netAdd_report ..).trans ((regPut_report ..).trans (raiseMsix_report ..)))
    · exact regPut_report ..

theorem addReport_only (d : Dev) (p unit src va lvl e : Nat) (acc : AccKind) (who : Waiter) :
    ReportOnly d (addReport d p unit src va lvl e acc who) := by
  unfold addReport
  split
  · rfl
  · exact (reportPass_only d _).trans rfl

/-- A halting cause raised for a packet of a group changes only the events that wait at the arbiter. -/
theorem raiseHaltBy_events (d : Dev) (p unit cause : Nat) (x : DWord) (grp : Option (Nat × DWord)) :
    raiseHaltBy d p unit cause x grp = { d with events := tput d.events p (tgetD d.events p [] ++
      [{ held := false, unit := unit, kind := 3, cause := cause, detail := x, cyc := d.cyc, grp := grp }]) } := rfl

/-- A halting cause raised changes only the events that wait at the arbiter. -/
theorem raiseHalt_events (d : Dev) (p unit cause : Nat) (x : DWord) :
    raiseHalt d p unit cause x = { d with events := tput d.events p (tgetD d.events p [] ++
      [{ held := false, unit := unit, kind := 3, cause := cause, detail := x, cyc := d.cyc }]) } := rfl

/-- A group's context-fatal fault is its core's event, and the group issues nothing more. -/
theorem groupFatal_eq {d : Dev} {gid : Nat} {g : Group} (hg : tget d.groups gid = some g) (reason lane slot : Nat) (pcx : Word) :
    groupFatal d gid reason lane slot pcx = { d with
      groups := tmod d.groups gid (fun g => { g with bound := { g.bound with dead := true } })
      events := tput d.events (teamPart d g.tid) (tgetD d.events (teamPart d g.tid) [] ++
        [{ held := false, unit := unitCore g.core, kind := 3, cause := causeOf reason
           detail := fdet g.rslot reason lane slot pcx, cyc := d.cyc, grp := some (g.core, grpid g) }]) } := by
  simp only [groupFatal, hg, modGroup, raiseHaltBy_events]

/-! ## The end of a part of a memory operation (03 R91) -/

theorem freeLog_only (d : Dev) (id : Nat) : CoresOnly d (freeLog d id) := by
  unfold freeLog
  split
  · rfl
  · split <;> rfl

theorem markDone_only (d : Dev) (id j : Nat) (got : List Byte) : OpsOnly d (markDone d id j got) := by
  unfold markDone
  split
  · rfl
  · split
    · rfl
    · dsimp only
      refine OpsOnly.trans ?_ (freeLog_only ..).ops
      split
      · refine OpsOnly.trans ?_ (netAdd_ops ..)
        split <;> rfl
      · rfl

theorem completeOp_only (d : Dev) (id : Nat) : OpsOnly d (completeOp d id) := by
  unfold completeOp
  split
  · rfl
  · dsimp only
    split
    · rfl
    · split
      · split <;> rfl
      · rfl

theorem finishMem_only (d : Dev) (id : Nat) : OpsOnly d (finishMem d id) := by
  unfold finishMem
  split
  · rfl
  · split
    · split
      · dsimp only
        refine OpsOnly.trans ?_ (completeOp_only ..)
        unfold endInstall
        split <;> rfl
      · rfl
    · rfl

/-- A store's part written: of the memories only its own bytes, and then the end of the part. -/
theorem applyCells_home {d d1 : Dev} {o : Op} {a : Acc} {t : Target} {id j : Nat} (h : storeWrite (sysRelease d o.word) o a t = some d1) :
    OpsOnly d1 (applyCells d id j o a t) := by
  simp only [applyCells, h]
  have hc : OpsOnly d1 (if coreGoes d o then cacheUpdate d1 o.core t a.data else d1) := by
    split
    · exact (cacheUpdate_only ..).ops
    · rfl
  exact hc.trans ((markDone_only ..).trans (finishMem_only ..))

/-! ## Words written by cells -/

theorem readByte_writeCells_outside (xs : List (Nat × Byte)) (m : Memory) (base i : Nat) (h : ∀ q ∈ xs, i ≠ base + q.1) :
    readByte (writeCells m base xs) i = readByte m i := by
  unfold writeCells
  induction xs generalizing m with
  | nil => rfl
  | cons x t ih =>
    rw [List.foldl_cons, ih _ (fun q hq => h q (List.mem_cons_of_mem _ hq)), readByte_writeByte,
      if_neg (h x (List.mem_cons_self ..))]

theorem readByte_writeCells_inside (xs : List (Nat × Byte)) (m : Memory) (base : Nat) (hn : (xs.map (fun q => q.1)).Nodup)
    (q : Nat × Byte) (hq : q ∈ xs) : readByte (writeCells m base xs) (base + q.1) = q.2 := by
  induction xs generalizing m with
  | nil => simp at hq
  | cons x t ih =>
    rw [List.map_cons, List.nodup_cons] at hn
    rcases List.mem_cons.mp hq with rfl | hq
    · have := readByte_writeCells_outside t (writeByte m (base + q.1) q.2) base (base + q.1) (fun r hr e => by
        have e' : q.1 = r.1 := by omega
        exact hn.1 (e' ▸ List.mem_map_of_mem hr))
      rw [show writeCells m base (q :: t) = writeCells (writeByte m (base + q.1) q.2) base t from rfl, this, readByte_writeByte, if_pos rfl]
    · exact ih _ hn.2 hq

theorem wf_writeCells (xs : List (Nat × Byte)) (m : Memory) (base : Nat) (h : Memory.wf m = true) :
    Memory.wf (writeCells m base xs) = true := by
  unfold writeCells
  induction xs generalizing m with
  | nil => exact h
  | cons x t ih => exact ih _ (wf_writeByte m _ _ h)

end Sys2Proof.Machine
end

