-- ==== Sys2Proof/Laws/PerInstr.lean ====
section
/-! SUPPORT. One lemma for each constructor of Instr: no encoding uses a major that is never an instruction (05 R168, 16
R455). -/

namespace Sys2Proof.Laws.Major

open Sys2Proof

/-- The majors that name an instruction word; 0x27, 0x39 and 0x3F name none (05 R168). -/
def assigned (n : Nat) : Bool := n != 0x27 && n != 0x39 && n != 0x3F

/-- The word of i, where it has one, has an assigned major. -/
def Statement (i : Instr) : Prop := ∀ w, encode i = some w → assigned (fldOp w).toNat = true

theorem named {p : Word} (h : assigned (fldOp p).toNat = true) : ∀ w, some p = some w → assigned (fldOp w).toNat = true :=
  fun _ e => Option.some.inj e ▸ h

theorem unnamed {i : Instr} (h : encode i = none) : Statement i := fun _ e => absurd (h.symm.trans e) (by simp)

theorem nop (c : Bool) : Statement (.nop c) := named (by simp [assigned])
theorem exit (c : Bool) : Statement (.exit c) := named (by simp [assigned])
theorem yield (c : Bool) : Statement (.yield c) := named (by simp [assigned])
theorem ret (c : Bool) : Statement (.ret c) := named (by simp [assigned])
theorem jmpi (c : Bool) (a : Operand) : Statement (.jmpi c a) := named (by simp [assigned])
theorem calli (c : Bool) (a : Operand) (f : BitVec 6) : Statement (.calli c a f) := named (by simp [assigned])
theorem trap (c : Bool) (code : BitVec 16) : Statement (.trap c code) := named (by simp [assigned])
theorem tret (c : Bool) : Statement (.tret c) := named (by simp [assigned])
theorem svc (c : Bool) (code : BitVec 16) : Statement (.svc c code) := named (by simp [assigned])
theorem clk (h : AHdr) (d : Operand) : Statement (.clk h d) := named (by simp [assigned])
theorem rdsr (h : AHdr) (d : Operand) (n : BitVec 6) : Statement (.rdsr h d n) := named (by simp [assigned])
theorem wrsr (c : Bool) (n : BitVec 6) (a : Operand) : Statement (.wrsr c n a) := named (by simp [assigned])
theorem lpcr (h : AHdr) (d : Operand) : Statement (.lpcr h d) := named (by simp [assigned])
theorem lpcw (c : Bool) (a : Operand) : Statement (.lpcw c a) := named (by simp [assigned])
theorem tmcmp (c : Bool) (a : Operand) : Statement (.tmcmp c a) := named (by simp [assigned])
theorem bra (c : Bool) (k : BitVec 3) (disp : BitVec 22) : Statement (.bra c k disp) := named (by simp [assigned])
theorem brm (c : Bool) (k : BitVec 3) (disp : BitVec 21) : Statement (.brm c k disp) := named (by simp [assigned])
theorem bru (c : Bool) (k : BitVec 3) (disp : BitVec 21) : Statement (.bru c k disp) := named (by simp [assigned])
theorem brz (c : Bool) (a : Operand) (disp : BitVec 19) : Statement (.brz c a disp) := named (by simp [assigned])
theorem brnz (c : Bool) (a : Operand) (disp : BitVec 19) : Statement (.brnz c a disp) := named (by simp [assigned])
theorem call (c : Bool) (f : BitVec 6) (disp : BitVec 19) : Statement (.call c f disp) := named (by simp [assigned])
theorem add (h : AHdr) (wide : Bool) (d a b : Operand) : Statement (.add h wide d a b) := named (by simp [assigned])
theorem sub (h : AHdr) (wide : Bool) (d a b : Operand) : Statement (.sub h wide d a b) := named (by simp [assigned])
theorem mul (h : AHdr) (wide : Bool) (d a b : Operand) : Statement (.mul h wide d a b) := named (by simp [assigned])
theorem mulh (h : AHdr) (wide : Bool) (d a b : Operand) : Statement (.mulh h wide d a b) := named (by simp [assigned])
theorem mulhu (h : AHdr) (wide : Bool) (d a b : Operand) : Statement (.mulhu h wide d a b) := named (by simp [assigned])
theorem addc (h : AHdr) (wide : Bool) (d a b : Operand) : Statement (.addc h wide d a b) := named (by simp [assigned])
theorem subb (h : AHdr) (wide : Bool) (d a b : Operand) : Statement (.subb h wide d a b) := named (by simp [assigned])
theorem min (h : AHdr) (wide : Bool) (d a b : Operand) : Statement (.min h wide d a b) := named (by simp [assigned])
theorem max (h : AHdr) (wide : Bool) (d a b : Operand) : Statement (.max h wide d a b) := named (by simp [assigned])
theorem minu (h : AHdr) (wide : Bool) (d a b : Operand) : Statement (.minu h wide d a b) := named (by simp [assigned])
theorem maxu (h : AHdr) (wide : Bool) (d a b : Operand) : Statement (.maxu h wide d a b) := named (by simp [assigned])
theorem abs (h : AHdr) (wide : Bool) (d a : Operand) : Statement (.abs h wide d a) := named (by simp [assigned])
theorem and (h : AHdr) (wide : Bool) (d a b : Operand) : Statement (.and h wide d a b) := named (by simp [assigned])
theorem or (h : AHdr) (wide : Bool) (d a b : Operand) : Statement (.or h wide d a b) := named (by simp [assigned])
theorem xor (h : AHdr) (wide : Bool) (d a b : Operand) : Statement (.xor h wide d a b) := named (by simp [assigned])
theorem andn (h : AHdr) (wide : Bool) (d a b : Operand) : Statement (.andn h wide d a b) := named (by simp [assigned])
theorem shl (h : AHdr) (wide : Bool) (d a b : Operand) : Statement (.shl h wide d a b) := named (by simp [assigned])
theorem shr (h : AHdr) (wide : Bool) (d a b : Operand) : Statement (.shr h wide d a b) := named (by simp [assigned])
theorem sra (h : AHdr) (wide : Bool) (d a b : Operand) : Statement (.sra h wide d a b) := named (by simp [assigned])
theorem clz (h : AHdr) (wide : Bool) (d a : Operand) : Statement (.clz h wide d a) := named (by simp [assigned])
theorem popc (h : AHdr) (wide : Bool) (d a : Operand) : Statement (.popc h wide d a) := named (by simp [assigned])
theorem brev (h : AHdr) (wide : Bool) (d a : Operand) : Statement (.brev h wide d a) := named (by simp [assigned])
theorem mov (h : AHdr) (wide : Bool) (d a : Operand) : Statement (.mov h wide d a) := named (by simp [assigned])
theorem addi (h : AHdr) (d a : Operand) (imm : BitVec 12) : Statement (.addi h d a imm) := named (by simp [assigned])
theorem andi (h : AHdr) (d a : Operand) (imm : BitVec 12) : Statement (.andi h d a imm) := named (by simp [assigned])
theorem ori (h : AHdr) (d a : Operand) (imm : BitVec 12) : Statement (.ori h d a imm) := named (by simp [assigned])
theorem xori (h : AHdr) (d a : Operand) (imm : BitVec 12) : Statement (.xori h d a imm) := named (by simp [assigned])
theorem shli (h : AHdr) (d a : Operand) (imm : BitVec 6) : Statement (.shli h d a imm) := named (by simp [assigned])
theorem shri (h : AHdr) (d a : Operand) (imm : BitVec 6) : Statement (.shri h d a imm) := named (by simp [assigned])
theorem srai (h : AHdr) (d a : Operand) (imm : BitVec 6) : Statement (.srai h d a imm) := named (by simp [assigned])
theorem li (c : Bool) (d : Operand) (imm : BitVec 19) : Statement (.li c d imm) := named (by simp [assigned])
theorem lui (c : Bool) (d : Operand) (imm : BitVec 19) : Statement (.lui c d imm) := named (by simp [assigned])
theorem mad (h : AHdr) (d a b x : Operand) : Statement (.mad h d a b x) := named (by simp [assigned])
theorem fshl (h : AHdr) (d a b x : Operand) : Statement (.fshl h d a b x) := named (by simp [assigned])
theorem fshr (h : AHdr) (d a b x : Operand) : Statement (.fshr h d a b x) := named (by simp [assigned])
theorem bfx (h : AHdr) (d a b x : Operand) : Statement (.bfx h d a b x) := named (by simp [assigned])
theorem bfxs (h : AHdr) (d a b x : Operand) : Statement (.bfxs h d a b x) := named (by simp [assigned])
theorem bfi (h : AHdr) (d a b x : Operand) : Statement (.bfi h d a b x) := named (by simp [assigned])
theorem sel (h : AHdr) (d a b : Operand) (k : BitVec 3) : Statement (.sel h d a b k) := named (by simp [assigned])
theorem icmp (c : Bool) (k : BitVec 3) (wide : Bool) (pred : IPred) (a b : Operand) : Statement (.icmp c k wide pred a b) := named (by simp [assigned])
theorem fadd (h : AHdr) (d a b : Operand) (fs : FS) (rm : RM) : Statement (.fadd h d a b fs rm) := named (by simp [assigned])
theorem fsub (h : AHdr) (d a b : Operand) (fs : FS) (rm : RM) : Statement (.fsub h d a b fs rm) := named (by simp [assigned])
theorem fmul (h : AHdr) (d a b : Operand) (fs : FS) (rm : RM) : Statement (.fmul h d a b fs rm) := named (by simp [assigned])
theorem ffmaS (h : AHdr) (d a b x : Operand) : Statement (.ffmaS h d a b x) := named (by simp [assigned])
theorem ffmaD (h : AHdr) (d a b x : Operand) : Statement (.ffmaD h d a b x) := named (by simp [assigned])
theorem ffmaH2 (h : AHdr) (d a b x : Operand) : Statement (.ffmaH2 h d a b x) := named (by simp [assigned])
theorem ffmaB2 (h : AHdr) (d a b x : Operand) : Statement (.ffmaB2 h d a b x) := named (by simp [assigned])
theorem fdiv (h : AHdr) (d a b : Operand) (fs : FS) (rm : RM) : Statement (.fdiv h d a b fs rm) := named (by simp [assigned])
theorem fsqrt (h : AHdr) (d a : Operand) (fs : FS) (rm : RM) : Statement (.fsqrt h d a fs rm) := named (by simp [assigned])
theorem frnd (h : AHdr) (d a : Operand) (fs : FS) (rm : RM) : Statement (.frnd h d a fs rm) := named (by simp [assigned])
theorem fclass (h : AHdr) (d a : Operand) (fs : FS) : Statement (.fclass h d a fs) := named (by simp [assigned])
theorem fmin (h : AHdr) (d a b : Operand) (fs : FS) : Statement (.fmin h d a b fs) := named (by simp [assigned])
theorem fmax (h : AHdr) (d a b : Operand) (fs : FS) : Statement (.fmax h d a b fs) := named (by simp [assigned])
theorem fcmp (c : Bool) (k : BitVec 3) (pred : FPred) (fs : FS) (a b : Operand) : Statement (.fcmp c k pred fs a b) := named (by simp [assigned])
theorem cvt (h : AHdr) (d a : Operand) (fd fsrc : FC) (rm : RM) : Statement (.cvt h d a fd fsrc rm) := named (by simp [assigned])
theorem cvti (h : AHdr) (d a : Operand) (it : IT) (fsrc : FC) (rm : RM) : Statement (.cvti h d a it fsrc rm) := named (by simp [assigned])
theorem cvtf (h : AHdr) (d a : Operand) (fd : FC) (it : IT) (rm : RM) : Statement (.cvtf h d a fd it rm) := named (by simp [assigned])
theorem cvtsr (h : AHdr) (d a b : Operand) (fd fsrc : FC) : Statement (.cvtsr h d a b fd fsrc) := named (by simp [assigned])
theorem mxpk (h : AHdr) (d a : Operand) (mf : MF) (rm : RM) : Statement (.mxpk h d a mf rm) := named (by simp [assigned])
theorem mxup (h : AHdr) (d a : Operand) (mf : MF) : Statement (.mxup h d a mf) := named (by simp [assigned])
theorem sfFn (h : AHdr) (d a : Operand) (fn : SFn) (fs : FS) : Statement (.sfFn h d a fn fs) := named (by simp [assigned])
theorem ballot (h : AHdr) (d a : Operand) : Statement (.ballot h d a) := named (by simp [assigned])
theorem vany (h : AHdr) (d a : Operand) : Statement (.vany h d a) := named (by simp [assigned])
theorem vall (h : AHdr) (d a : Operand) : Statement (.vall h d a) := named (by simp [assigned])
theorem shfl (h : AHdr) (wide : Bool) (d a b : Operand) : Statement (.shfl h wide d a b) := named (by simp [assigned])
theorem push (h : AHdr) (wide : Bool) (d a b : Operand) : Statement (.push h wide d a b) := named (by simp [assigned])
theorem bcast (h : AHdr) (wide : Bool) (d a b : Operand) : Statement (.bcast h wide d a b) := named (by simp [assigned])
theorem kfirst (h : AHdr) (d : Operand) (k : BitVec 3) : Statement (.kfirst h d k) := named (by simp [assigned])
theorem redu (h : AHdr) (d a : Operand) (op : RedOp) (ty : RedTy) (rm : RM) : Statement (.redu h d a op ty rm) := named (by simp [assigned])
theorem scan (h : AHdr) (d a : Operand) (op : RedOp) (ty : RedTy) (rm : RM) : Statement (.scan h d a op ty rm) := named (by simp [assigned])
theorem kand (c : Bool) (d a b : BitVec 3) : Statement (.kand c d a b) := named (by simp [assigned])
theorem kor (c : Bool) (d a b : BitVec 3) : Statement (.kor c d a b) := named (by simp [assigned])
theorem kxor (c : Bool) (d a b : BitVec 3) : Statement (.kxor c d a b) := named (by simp [assigned])
theorem knot (c : Bool) (d a : BitVec 3) : Statement (.knot c d a) := named (by simp [assigned])
theorem kmovMask (c : Bool) (d a : BitVec 3) : Statement (.kmovMask c d a) := named (by simp [assigned])
theorem kmovToMask (c : Bool) (d : BitVec 3) (a : Operand) : Statement (.kmovToMask c d a) := named (by simp [assigned])
theorem kmovToS (h : AHdr) (d : Operand) (a : BitVec 3) : Statement (.kmovToS h d a) := named (by simp [assigned])
theorem kact (c : Bool) (d : BitVec 3) : Statement (.kact c d) := named (by simp [assigned])
theorem edge (h : AHdr) (d a b : Operand) : Statement (.edge h d a b) := named (by simp [assigned])
theorem qdx (h : AHdr) (d a : Operand) : Statement (.qdx h d a) := named (by simp [assigned])
theorem qdy (h : AHdr) (d a : Operand) : Statement (.qdy h d a) := named (by simp [assigned])
theorem rng (h : AHdr) (d a : Operand) : Statement (.rng h d a) := named (by simp [assigned])
theorem rngU (h : AHdr) (d a : Operand) : Statement (.rngU h d a) := named (by simp [assigned])
theorem ld (m : MHdr) (d a : Operand) (y : BitVec 2) (z : Size) : Statement (.ld m d a y z) := named (by simp [assigned])
theorem ldnc (m : MHdr) (d a : Operand) (y : BitVec 2) (z : Size) : Statement (.ldnc m d a y z) := named (by simp [assigned])
theorem lds (m : MHdr) (d a : Operand) (y : BitVec 2) (wide : Bool) : Statement (.lds m d a y wide) := named (by simp [assigned])
theorem ldu (m : MHdr) (d a : Operand) (y : BitVec 2) (wide : Bool) : Statement (.ldu m d a y wide) := named (by simp [assigned])
theorem ldAcq (m : MHdr) (d a : Operand) (y : BitVec 2) (wide : Bool) : Statement (.ldAcq m d a y wide) := named (by simp [assigned])
theorem st (m : MHdr) (d a : Operand) (y : BitVec 2) (z : Size) : Statement (.st m d a y z) := named (by simp [assigned])
theorem stm (m : MHdr) (d a : Operand) (y : BitVec 2) : Statement (.stm m d a y) := named (by simp [assigned])
theorem stRel (m : MHdr) (d a : Operand) (y : BitVec 2) (wide : Bool) : Statement (.stRel m d a y wide) := named (by simp [assigned])
theorem atom (m : MHdr) (d a : Operand) (op : AtomOp) (wide : Bool) : Statement (.atom m d a op wide) := named (by simp [assigned])
theorem cas (m : MHdr) (d a : Operand) (wide : Bool) : Statement (.cas m d a wide) := named (by simp [assigned])
theorem atomSwap (m : MHdr) (d a : Operand) (wide : Bool) : Statement (.atomSwap m d a wide) := named (by simp [assigned])
theorem fatom (m : MHdr) (d a : Operand) (op : FatomOp) (dbl : Bool) : Statement (.fatom m d a op dbl) := named (by simp [assigned])
theorem xaddS (m : MHdr) (d a : Operand) : Statement (.xaddS m d a) := named (by simp [assigned])
theorem xaddD (m : MHdr) (d a : Operand) : Statement (.xaddD m d a) := named (by simp [assigned])
theorem vbt (m : MHdr) (d a : Operand) : Statement (.vbt m d a) := named (by simp [assigned])
theorem prf (c : Bool) (llc : Bool) (a : Operand) (k : BitVec 3) : Statement (.prf c llc a k) := named (by simp [assigned])
theorem snop (c : Bool) (sc : Option Scope) (o : BitVec 2) (p : BitVec 4) : Statement (.snop c sc o p) := by
  cases sc <;> exact named (by simp [assigned])
theorem rpop (m : MHdr) (d : Operand) (n : BitVec 6) : Statement (.rpop m d n) := named (by simp [assigned])
theorem racq (m : MHdr) (d : Operand) (n : BitVec 6) : Statement (.racq m d n) := named (by simp [assigned])
theorem rcom (m : MHdr) (d : Operand) (n : BitVec 6) : Statement (.rcom m d n) := named (by simp [assigned])
theorem rrel (m : MHdr) (d : Operand) (n : BitVec 6) : Statement (.rrel m d n) := named (by simp [assigned])
theorem rstat (m : MHdr) (d : Operand) (n : BitVec 6) : Statement (.rstat m d n) := named (by simp [assigned])
theorem rcomEos (m : MHdr) (d : Operand) (n : BitVec 6) : Statement (.rcomEos m d n) := named (by simp [assigned])
theorem rcomErr (m : MHdr) (d : Operand) (n : BitVec 6) : Statement (.rcomErr m d n) := named (by simp [assigned])
theorem barr (m : MHdr) (n : BitVec 6) : Statement (.barr m n) := named (by simp [assigned])
theorem barw (m : MHdr) (n : BitVec 6) : Statement (.barw m n) := named (by simp [assigned])
theorem barx (m : MHdr) (d : Operand) (n : BitVec 6) : Statement (.barx m d n) := named (by simp [assigned])
theorem pbar (m : MHdr) (n : BitVec 6) : Statement (.pbar m n) := named (by simp [assigned])
theorem cbarr (m : MHdr) : Statement (.cbarr m) := named (by simp [assigned])
theorem cbarw (m : MHdr) : Statement (.cbarw m) := named (by simp [assigned])
theorem ntc (m : MHdr) (b : BitVec 6) (a : Operand) : Statement (.ntc m b a) := named (by simp [assigned])
theorem mxd (m : MHdr) (a : Operand) : Statement (.mxd m a) := named (by simp [assigned])
theorem mxb (m : MHdr) (a : Operand) : Statement (.mxb m a) := named (by simp [assigned])
theorem mxg (m : MHdr) (a : Operand) : Statement (.mxg m a) := named (by simp [assigned])
theorem mxq (m : MHdr) (d : Operand) : Statement (.mxq m d) := named (by simp [assigned])
theorem acld (m : MHdr) (d a : Operand) : Statement (.acld m d a) := named (by simp [assigned])
theorem acst (m : MHdr) (d a : Operand) : Statement (.acst m d a) := named (by simp [assigned])
theorem aczr (m : MHdr) (d a : Operand) : Statement (.aczr m d a) := named (by simp [assigned])
theorem xaccE32 (m : MHdr) (d a : Operand) : Statement (.xaccE32 m d a) := named (by simp [assigned])
theorem xaccE64 (m : MHdr) (d a : Operand) : Statement (.xaccE64 m d a) := named (by simp [assigned])
theorem xrndE32 (m : MHdr) (fd : XFc) (d a : Operand) : Statement (.xrndE32 m fd d a) := named (by simp [assigned])
theorem xmovSt (m : MHdr) (d a : Operand) : Statement (.xmovSt m d a) := named (by simp [assigned])
theorem xmovLd (m : MHdr) (d a : Operand) : Statement (.xmovLd m d a) := named (by simp [assigned])
theorem xrndE64 (m : MHdr) (fd : XFc) (d a : Operand) : Statement (.xrndE64 m fd d a) := named (by simp [assigned])
theorem trace (m : MHdr) (d a : Operand) : Statement (.trace m d a) := named (by simp [assigned])
theorem vmarch (m : MHdr) (d a : Operand) : Statement (.vmarch m d a) := named (by simp [assigned])
theorem ovq (m : MHdr) (d a : Operand) : Statement (.ovq m d a) := named (by simp [assigned])
theorem refit (m : MHdr) (a : Operand) : Statement (.refit m a) := named (by simp [assigned])
theorem attr (m : MHdr) (d a : Operand) : Statement (.attr m d a) := named (by simp [assigned])
theorem dsc (m : MHdr) (d a : Operand) : Statement (.dsc m d a) := named (by simp [assigned])
theorem rbin (m : MHdr) (d a : Operand) : Statement (.rbin m d a) := named (by simp [assigned])
theorem tex (m : MHdr) (d a : Operand) : Statement (.tex m d a) := named (by simp [assigned])
theorem slg (m : MHdr) (d a : Operand) : Statement (.slg m d a) := named (by simp [assigned])
theorem implicitReturn (gid : Nat) : Statement (.implicitReturn gid) := unnamed rfl
theorem teamRetire (tid : Nat) : Statement (.teamRetire tid) := unnamed rfl
theorem loadComplete (op part : Nat) : Statement (.loadComplete op part) := unnamed rfl
theorem storeApplied (op part : Nat) : Statement (.storeApplied op part) := unnamed rfl
theorem rmwApplied (op part : Nat) : Statement (.rmwApplied op part) := unnamed rfl
theorem engineCommandComplete (op : Nat) : Statement (.engineCommandComplete op) := unnamed rfl
theorem remoteAccess (r : RemoteReq) : Statement (.remoteAccess r) := unnamed rfl
theorem dcacheLineEvict (core line : Nat) : Statement (.dcacheLineEvict core line) := unnamed rfl
theorem llcSuperblockEvict (sb : Nat) : Statement (.llcSuperblockEvict sb) := unnamed rfl
theorem timerTrap (gid : Nat) : Statement (.timerTrap gid) := unnamed rfl
theorem groupPark (gid : Nat) : Statement (.groupPark gid) := unnamed rfl
theorem groupRecreate (gid : Nat) : Statement (.groupRecreate gid) := unnamed rfl
theorem svcRecordWrite (gid : Nat) : Statement (.svcRecordWrite gid) := unnamed rfl
theorem racqGrant (op : Nat) : Statement (.racqGrant op) := unnamed rfl
theorem rpopGrant (op : Nat) : Statement (.rpopGrant op) := unnamed rfl
theorem dscLookupResume (op : Nat) : Statement (.dscLookupResume op) := unnamed rfl
theorem feederSlotCommit (tid ring : Nat) : Statement (.feederSlotCommit tid ring) := unnamed rfl
theorem drainSlot (tid ring : Nat) : Statement (.drainSlot tid ring) := unnamed rfl
theorem noticeDeliver (op cluster : Nat) : Statement (.noticeDeliver op cluster) := unnamed rfl
theorem noticePull (tid ring : Nat) : Statement (.noticePull tid ring) := unnamed rfl
theorem noticeAck (ack : Nat) : Statement (.noticeAck ack) := unnamed rfl
theorem noticeLost (op cluster : Nat) : Statement (.noticeLost op cluster) := unnamed rfl
theorem matrixCommandStart (core : Nat) : Statement (.matrixCommandStart core) := unnamed rfl
theorem matrixPass (core : Nat) : Statement (.matrixPass core) := unnamed rfl
theorem galleyReserveResume (part g : Nat) : Statement (.galleyReserveResume part g) := unnamed rfl
theorem galleyFlush (part g : Nat) : Statement (.galleyFlush part g) := unnamed rfl
theorem galleyBatchLaunch (part : Nat) : Statement (.galleyBatchLaunch part) := unnamed rfl
theorem tdSelect (part : Nat) : Statement (.tdSelect part) := unnamed rfl
theorem launchRecordAccept (part q : Nat) : Statement (.launchRecordAccept part q) := unnamed rfl
theorem descriptorRead (part q : Nat) : Statement (.descriptorRead part q) := unnamed rfl
theorem graphReplay (part q : Nat) : Statement (.graphReplay part q) := unnamed rfl
theorem graphNodeRetire (part idx : Nat) : Statement (.graphNodeRetire part idx) := unnamed rfl
theorem drawRaster (draw : Nat) : Statement (.drawRaster draw) := unnamed rfl
theorem setupSlotResume (draw : Nat) : Statement (.setupSlotResume draw) := unnamed rfl
theorem drawOpen (draw : Nat) : Statement (.drawOpen draw) := unnamed rfl
theorem drawClose (draw : Nat) : Statement (.drawClose draw) := unnamed rfl
theorem drawRelease (draw : Nat) : Statement (.drawRelease draw) := unnamed rfl
theorem drawRetire (draw : Nat) : Statement (.drawRetire draw) := unnamed rfl
theorem cleClassifyTile (draw oct : Nat) : Statement (.cleClassifyTile draw oct) := unnamed rfl
theorem walkSchedule (oct : Nat) : Statement (.walkSchedule oct) := unnamed rfl
theorem instructionFetchFault (gid : Nat) : Statement (.instructionFetchFault gid) := unnamed rfl
theorem reportBackoffExpiry (rep : Nat) : Statement (.reportBackoffExpiry rep) := unnamed rfl
theorem packetReissue (gid : Nat) : Statement (.packetReissue gid) := unnamed rfl
theorem sideLogReplay (core slot : Nat) : Statement (.sideLogReplay core slot) := unnamed rfl
theorem groupEvict (gid : Nat) : Statement (.groupEvict gid) := unnamed rfl
theorem teamSwap (tid : Nat) : Statement (.teamSwap tid) := unnamed rfl
theorem groupReturn (gid : Nat) : Statement (.groupReturn gid) := unnamed rfl
theorem teamReturn (tid : Nat) : Statement (.teamReturn tid) := unnamed rfl
theorem cxCommandStart (oct : Nat) : Statement (.cxCommandStart oct) := unnamed rfl
theorem cxDigestReceive (oct : Nat) (d : Digest) : Statement (.cxDigestReceive oct d) := unnamed rfl
theorem cxCommandComplete (oct : Nat) : Statement (.cxCommandComplete oct) := unnamed rfl
theorem cxPeerTimeout (oct : Nat) : Statement (.cxPeerTimeout oct) := unnamed rfl
theorem graphStall (part run : Nat) : Statement (.graphStall part run) := unnamed rfl
theorem galleyStall (part g : Nat) : Statement (.galleyStall part g) := unnamed rfl
theorem engineWatchdog (unit part : Nat) : Statement (.engineWatchdog unit part) := unnamed rfl
theorem creditWatchdog (leaf part : Nat) : Statement (.creditWatchdog leaf part) := unnamed rfl
theorem stopWatchdog (unit : Nat) : Statement (.stopWatchdog unit) := unnamed rfl
theorem eventAccept (q idx : Nat) : Statement (.eventAccept q idx) := unnamed rfl
theorem unitStop (unit : Nat) : Statement (.unitStop unit) := unnamed rfl
theorem abortFlitReceive (idx : Nat) : Statement (.abortFlitReceive idx) := unnamed rfl
theorem stopRecordWrite (unit : Nat) : Statement (.stopRecordWrite unit) := unnamed rfl
theorem correctedError (unit : Nat) (loc : ErrAt) : Statement (.correctedError unit loc) := unnamed rfl
theorem parityError (unit struct index : Nat) : Statement (.parityError unit struct index) := unnamed rfl
theorem uncorrectableError (unit : Nat) (loc : ErrAt) : Statement (.uncorrectableError unit loc) := unnamed rfl
theorem structureSelfTestDone (idx : Nat) (pass : Bool) : Statement (.structureSelfTestDone idx pass) := unnamed rfl
theorem linkCrcError (unit lane : Nat) : Statement (.linkCrcError unit lane) := unnamed rfl
theorem retrainDone (unit lane : Nat) (ok : Bool) : Statement (.retrainDone unit lane ok) := unnamed rfl
theorem octcmdNone (v : Word) : Statement (.octcmdNone v) := unnamed rfl
theorem octcmdAssign (v : Word) : Statement (.octcmdAssign v) := unnamed rfl
theorem octcmdRelease (v : Word) : Statement (.octcmdRelease v) := unnamed rfl
theorem releaseClear (part : Nat) : Statement (.releaseClear part) := unnamed rfl
theorem octantClearDone (oct : Nat) : Statement (.octantClearDone oct) := unnamed rfl
theorem dstoreWrite (oct : Nat) (v : DWord) : Statement (.dstoreWrite oct v) := unnamed rfl
theorem tlbinvWrite (v : DWord) : Statement (.tlbinvWrite v) := unnamed rfl
theorem qptrTailWrite (part q : Nat) (v : Byte) : Statement (.qptrTailWrite part q v) := unnamed rfl
theorem svcrepWrite (part : Nat) (v : Byte) : Statement (.svcrepWrite part v) := unnamed rfl
theorem domidWrite (v : DWord) : Statement (.domidWrite v) := unnamed rfl
theorem attcmdGo (v : DWord) : Statement (.attcmdGo v) := unnamed rfl
theorem evqMissRead (q : Nat) : Statement (.evqMissRead q) := unnamed rfl
theorem transRead (halves : BitVec 2) : Statement (.transRead halves) := unnamed rfl
theorem fltqRefuseRead (oct : Nat) : Statement (.fltqRefuseRead oct) := unnamed rfl
theorem ntclostRead (part : Nat) : Statement (.ntclostRead part) := unnamed rfl
theorem fltqHheadWrite (oct : Nat) (v : BitVec 11) : Statement (.fltqHheadWrite oct v) := unnamed rfl
theorem unmappedOffsetAccess (off : Nat) (write : Bool) (v : DWord) : Statement (.unmappedOffsetAccess off write v) := unnamed rfl
theorem registerWrite (off : Nat) (v : DWord) (whole : Bool) : Statement (.registerWrite off v whole) := unnamed rfl
theorem illegalEncoding (gid : Nat) : Statement (.illegalEncoding gid) := unnamed rfl
theorem svcptrHheadWrite (part : Nat) (v : Byte) : Statement (.svcptrHheadWrite part v) := unnamed rfl
theorem hreqWrite (part : Nat) : Statement (.hreqWrite part) := unnamed rfl
theorem powerTrip (why : TripReading) : Statement (.powerTrip why) := unnamed rfl
theorem overcurrentOn (imon : BitVec 16) : Statement (.overcurrentOn imon) := unnamed rfl
theorem overcurrentOff (imon : BitVec 16) : Statement (.overcurrentOff imon) := unnamed rfl
theorem dieHotOn (diet : BitVec 8) : Statement (.dieHotOn diet) := unnamed rfl
theorem thermalThrottleOn (diet : BitVec 8) : Statement (.thermalThrottleOn diet) := unnamed rfl
theorem dieHotOff (diet : BitVec 8) : Statement (.dieHotOff diet) := unnamed rfl
theorem tokenCycle : Statement (.tokenCycle) := unnamed rfl
theorem powerOn : Statement (.powerOn) := unnamed rfl
theorem firmwareBringup : Statement (.firmwareBringup) := unnamed rfl
theorem tlbinvDone : Statement (.tlbinvDone) := unnamed rfl
theorem quoteComplete : Statement (.quoteComplete) := unnamed rfl
theorem dbgdataRead : Statement (.dbgdataRead) := unnamed rfl
theorem supplyRemoved : Statement (.supplyRemoved) := unnamed rfl

end Sys2Proof.Laws.Major
end

