-- ==== Sys2Proof/Laws/State.lean ====
section
/-! SUPPORT. What each named update of a record leaves as it was, one lemma for each field. -/

namespace Sys2Proof.Machine

/-! The window registers (02 R39, R45) -/

@[simp] theorem writeV_tid (g : Group) (n l : Nat) (x : Word) : (writeV g n l x).tid = g.tid := rfl
@[simp] theorem writeV_core (g : Group) (n l : Nat) (x : Word) : (writeV g n l x).core = g.core := rfl
@[simp] theorem writeV_rslot (g : Group) (n l : Nat) (x : Word) : (writeV g n l x).rslot = g.rslot := rfl
@[simp] theorem writeV_gintm (g : Group) (n l : Nat) (x : Word) : (writeV g n l x).gintm = g.gintm := rfl
@[simp] theorem writeV_gidx (g : Group) (n l : Nat) (x : Word) : (writeV g n l x).gidx = g.gidx := rfl
@[simp] theorem writeV_width (g : Group) (n l : Nat) (x : Word) : (writeV g n l x).width = g.width := rfl
@[simp] theorem writeV_pool (g : Group) (n l : Nat) (x : Word) : (writeV g n l x).pool = g.pool := rfl
@[simp] theorem writeV_place (g : Group) (n l : Nat) (x : Word) : (writeV g n l x).place = g.place := rfl
@[simp] theorem writeV_s (g : Group) (n l : Nat) (x : Word) : (writeV g n l x).s = g.s := rfl
@[simp] theorem writeV_k (g : Group) (n l : Nat) (x : Word) : (writeV g n l x).k = g.k := rfl
@[simp] theorem writeV_lpc (g : Group) (n l : Nat) (x : Word) : (writeV g n l x).lpc = g.lpc := rfl
@[simp] theorem writeV_held (g : Group) (n l : Nat) (x : Word) : (writeV g n l x).held = g.held := rfl
@[simp] theorem writeV_links (g : Group) (n l : Nat) (x : Word) : (writeV g n l x).links = g.links := rfl
@[simp] theorem writeV_depth (g : Group) (n l : Nat) (x : Word) : (writeV g n l x).depth = g.depth := rfl
@[simp] theorem writeV_wb (g : Group) (n l : Nat) (x : Word) : (writeV g n l x).wb = g.wb := rfl
@[simp] theorem writeV_wl (g : Group) (n l : Nat) (x : Word) : (writeV g n l x).wl = g.wl := rfl
@[simp] theorem writeV_tvec (g : Group) (n l : Nat) (x : Word) : (writeV g n l x).tvec = g.tvec := rfl
@[simp] theorem writeV_tframe (g : Group) (n l : Nat) (x : Word) : (writeV g n l x).tframe = g.tframe := rfl
@[simp] theorem writeV_tcause (g : Group) (n l : Nat) (x : Word) : (writeV g n l x).tcause = g.tcause := rfl
@[simp] theorem writeV_tmask (g : Group) (n l : Nat) (x : Word) : (writeV g n l x).tmask = g.tmask := rfl
@[simp] theorem writeV_tslot (g : Group) (n l : Nat) (x : Word) : (writeV g n l x).tslot = g.tslot := rfl
@[simp] theorem writeV_tmcmp (g : Group) (n l : Nat) (x : Word) : (writeV g n l x).tmcmp = g.tmcmp := rfl
@[simp] theorem writeV_gcyc (g : Group) (n l : Nat) (x : Word) : (writeV g n l x).gcyc = g.gcyc := rfl
@[simp] theorem writeV_fps (g : Group) (n l : Nat) (x : Word) : (writeV g n l x).fps = g.fps := rfl
@[simp] theorem writeV_fpe (g : Group) (n l : Nat) (x : Word) : (writeV g n l x).fpe = g.fpe := rfl
@[simp] theorem writeV_rndkey (g : Group) (n l : Nat) (x : Word) : (writeV g n l x).rndkey = g.rndkey := rfl
@[simp] theorem writeV_spill (g : Group) (n l : Nat) (x : Word) : (writeV g n l x).spill = g.spill := rfl
@[simp] theorem writeV_cnt (g : Group) (n l : Nat) (x : Word) : (writeV g n l x).cnt = g.cnt := rfl
@[simp] theorem writeV_handler (g : Group) (n l : Nat) (x : Word) : (writeV g n l x).handler = g.handler := rfl
@[simp] theorem writeV_bound (g : Group) (n l : Nat) (x : Word) : (writeV g n l x).bound = g.bound := rfl
@[simp] theorem writeV_gather (g : Group) (n l : Nat) (x : Word) : (writeV g n l x).gather = g.gather := rfl
@[simp] theorem writeV_yieldEnd (g : Group) (n l : Nat) (x : Word) : (writeV g n l x).yieldEnd = g.yieldEnd := rfl
@[simp] theorem writeV_yieldLeft (g : Group) (n l : Nat) (x : Word) : (writeV g n l x).yieldLeft = g.yieldLeft := rfl
@[simp] theorem writeV_pcSince (g : Group) (n l : Nat) (x : Word) : (writeV g n l x).pcSince = g.pcSince := rfl
@[simp] theorem writeV_tok (g : Group) (n l : Nat) (x : Word) : (writeV g n l x).tok = g.tok := rfl
@[simp] theorem writeV_fpeAtIssue (g : Group) (n l : Nat) (x : Word) : (writeV g n l x).fpeAtIssue = g.fpeAtIssue := rfl
@[simp] theorem writeV_galley (g : Group) (n l : Nat) (x : Word) : (writeV g n l x).galley = g.galley := rfl
@[simp] theorem writeV_batch (g : Group) (n l : Nat) (x : Word) : (writeV g n l x).batch = g.batch := rfl
@[simp] theorem writeV_helper (g : Group) (n l : Nat) (x : Word) : (writeV g n l x).helper = g.helper := rfl
@[simp] theorem writeV_relScope (g : Group) (n l : Nat) (x : Word) : (writeV g n l x).relScope = g.relScope := rfl

/-! A register pair -/

@[simp] theorem writePair_tid (g : Group) (n l : Nat) (x : DWord) : (writePair g n l x).tid = g.tid := rfl
@[simp] theorem writePair_core (g : Group) (n l : Nat) (x : DWord) : (writePair g n l x).core = g.core := rfl
@[simp] theorem writePair_rslot (g : Group) (n l : Nat) (x : DWord) : (writePair g n l x).rslot = g.rslot := rfl
@[simp] theorem writePair_gintm (g : Group) (n l : Nat) (x : DWord) : (writePair g n l x).gintm = g.gintm := rfl
@[simp] theorem writePair_gidx (g : Group) (n l : Nat) (x : DWord) : (writePair g n l x).gidx = g.gidx := rfl
@[simp] theorem writePair_width (g : Group) (n l : Nat) (x : DWord) : (writePair g n l x).width = g.width := rfl
@[simp] theorem writePair_pool (g : Group) (n l : Nat) (x : DWord) : (writePair g n l x).pool = g.pool := rfl
@[simp] theorem writePair_place (g : Group) (n l : Nat) (x : DWord) : (writePair g n l x).place = g.place := rfl
@[simp] theorem writePair_s (g : Group) (n l : Nat) (x : DWord) : (writePair g n l x).s = g.s := rfl
@[simp] theorem writePair_k (g : Group) (n l : Nat) (x : DWord) : (writePair g n l x).k = g.k := rfl
@[simp] theorem writePair_lpc (g : Group) (n l : Nat) (x : DWord) : (writePair g n l x).lpc = g.lpc := rfl
@[simp] theorem writePair_held (g : Group) (n l : Nat) (x : DWord) : (writePair g n l x).held = g.held := rfl
@[simp] theorem writePair_links (g : Group) (n l : Nat) (x : DWord) : (writePair g n l x).links = g.links := rfl
@[simp] theorem writePair_depth (g : Group) (n l : Nat) (x : DWord) : (writePair g n l x).depth = g.depth := rfl
@[simp] theorem writePair_wb (g : Group) (n l : Nat) (x : DWord) : (writePair g n l x).wb = g.wb := rfl
@[simp] theorem writePair_wl (g : Group) (n l : Nat) (x : DWord) : (writePair g n l x).wl = g.wl := rfl
@[simp] theorem writePair_tvec (g : Group) (n l : Nat) (x : DWord) : (writePair g n l x).tvec = g.tvec := rfl
@[simp] theorem writePair_tframe (g : Group) (n l : Nat) (x : DWord) : (writePair g n l x).tframe = g.tframe := rfl
@[simp] theorem writePair_tcause (g : Group) (n l : Nat) (x : DWord) : (writePair g n l x).tcause = g.tcause := rfl
@[simp] theorem writePair_tmask (g : Group) (n l : Nat) (x : DWord) : (writePair g n l x).tmask = g.tmask := rfl
@[simp] theorem writePair_tslot (g : Group) (n l : Nat) (x : DWord) : (writePair g n l x).tslot = g.tslot := rfl
@[simp] theorem writePair_tmcmp (g : Group) (n l : Nat) (x : DWord) : (writePair g n l x).tmcmp = g.tmcmp := rfl
@[simp] theorem writePair_gcyc (g : Group) (n l : Nat) (x : DWord) : (writePair g n l x).gcyc = g.gcyc := rfl
@[simp] theorem writePair_fps (g : Group) (n l : Nat) (x : DWord) : (writePair g n l x).fps = g.fps := rfl
@[simp] theorem writePair_fpe (g : Group) (n l : Nat) (x : DWord) : (writePair g n l x).fpe = g.fpe := rfl
@[simp] theorem writePair_rndkey (g : Group) (n l : Nat) (x : DWord) : (writePair g n l x).rndkey = g.rndkey := rfl
@[simp] theorem writePair_spill (g : Group) (n l : Nat) (x : DWord) : (writePair g n l x).spill = g.spill := rfl
@[simp] theorem writePair_cnt (g : Group) (n l : Nat) (x : DWord) : (writePair g n l x).cnt = g.cnt := rfl
@[simp] theorem writePair_handler (g : Group) (n l : Nat) (x : DWord) : (writePair g n l x).handler = g.handler := rfl
@[simp] theorem writePair_bound (g : Group) (n l : Nat) (x : DWord) : (writePair g n l x).bound = g.bound := rfl
@[simp] theorem writePair_gather (g : Group) (n l : Nat) (x : DWord) : (writePair g n l x).gather = g.gather := rfl
@[simp] theorem writePair_yieldEnd (g : Group) (n l : Nat) (x : DWord) : (writePair g n l x).yieldEnd = g.yieldEnd := rfl
@[simp] theorem writePair_yieldLeft (g : Group) (n l : Nat) (x : DWord) : (writePair g n l x).yieldLeft = g.yieldLeft := rfl
@[simp] theorem writePair_pcSince (g : Group) (n l : Nat) (x : DWord) : (writePair g n l x).pcSince = g.pcSince := rfl
@[simp] theorem writePair_tok (g : Group) (n l : Nat) (x : DWord) : (writePair g n l x).tok = g.tok := rfl
@[simp] theorem writePair_fpeAtIssue (g : Group) (n l : Nat) (x : DWord) : (writePair g n l x).fpeAtIssue = g.fpeAtIssue := rfl
@[simp] theorem writePair_galley (g : Group) (n l : Nat) (x : DWord) : (writePair g n l x).galley = g.galley := rfl
@[simp] theorem writePair_batch (g : Group) (n l : Nat) (x : DWord) : (writePair g n l x).batch = g.batch := rfl
@[simp] theorem writePair_helper (g : Group) (n l : Nat) (x : DWord) : (writePair g n l x).helper = g.helper := rfl
@[simp] theorem writePair_relScope (g : Group) (n l : Nat) (x : DWord) : (writePair g n l x).relScope = g.relScope := rfl

/-! The uniform registers -/

@[simp] theorem writeS_tid (g : Group) (n : Nat) (x : DWord) : (writeS g n x).tid = g.tid := rfl
@[simp] theorem writeS_core (g : Group) (n : Nat) (x : DWord) : (writeS g n x).core = g.core := rfl
@[simp] theorem writeS_rslot (g : Group) (n : Nat) (x : DWord) : (writeS g n x).rslot = g.rslot := rfl
@[simp] theorem writeS_gintm (g : Group) (n : Nat) (x : DWord) : (writeS g n x).gintm = g.gintm := rfl
@[simp] theorem writeS_gidx (g : Group) (n : Nat) (x : DWord) : (writeS g n x).gidx = g.gidx := rfl
@[simp] theorem writeS_width (g : Group) (n : Nat) (x : DWord) : (writeS g n x).width = g.width := rfl
@[simp] theorem writeS_pool (g : Group) (n : Nat) (x : DWord) : (writeS g n x).pool = g.pool := rfl
@[simp] theorem writeS_place (g : Group) (n : Nat) (x : DWord) : (writeS g n x).place = g.place := rfl
@[simp] theorem writeS_v (g : Group) (n : Nat) (x : DWord) : (writeS g n x).v = g.v := rfl
@[simp] theorem writeS_k (g : Group) (n : Nat) (x : DWord) : (writeS g n x).k = g.k := rfl
@[simp] theorem writeS_lpc (g : Group) (n : Nat) (x : DWord) : (writeS g n x).lpc = g.lpc := rfl
@[simp] theorem writeS_held (g : Group) (n : Nat) (x : DWord) : (writeS g n x).held = g.held := rfl
@[simp] theorem writeS_links (g : Group) (n : Nat) (x : DWord) : (writeS g n x).links = g.links := rfl
@[simp] theorem writeS_depth (g : Group) (n : Nat) (x : DWord) : (writeS g n x).depth = g.depth := rfl
@[simp] theorem writeS_wb (g : Group) (n : Nat) (x : DWord) : (writeS g n x).wb = g.wb := rfl
@[simp] theorem writeS_wl (g : Group) (n : Nat) (x : DWord) : (writeS g n x).wl = g.wl := rfl
@[simp] theorem writeS_tvec (g : Group) (n : Nat) (x : DWord) : (writeS g n x).tvec = g.tvec := rfl
@[simp] theorem writeS_tframe (g : Group) (n : Nat) (x : DWord) : (writeS g n x).tframe = g.tframe := rfl
@[simp] theorem writeS_tcause (g : Group) (n : Nat) (x : DWord) : (writeS g n x).tcause = g.tcause := rfl
@[simp] theorem writeS_tmask (g : Group) (n : Nat) (x : DWord) : (writeS g n x).tmask = g.tmask := rfl
@[simp] theorem writeS_tslot (g : Group) (n : Nat) (x : DWord) : (writeS g n x).tslot = g.tslot := rfl
@[simp] theorem writeS_tmcmp (g : Group) (n : Nat) (x : DWord) : (writeS g n x).tmcmp = g.tmcmp := rfl
@[simp] theorem writeS_gcyc (g : Group) (n : Nat) (x : DWord) : (writeS g n x).gcyc = g.gcyc := rfl
@[simp] theorem writeS_fps (g : Group) (n : Nat) (x : DWord) : (writeS g n x).fps = g.fps := rfl
@[simp] theorem writeS_fpe (g : Group) (n : Nat) (x : DWord) : (writeS g n x).fpe = g.fpe := rfl
@[simp] theorem writeS_rndkey (g : Group) (n : Nat) (x : DWord) : (writeS g n x).rndkey = g.rndkey := rfl
@[simp] theorem writeS_spill (g : Group) (n : Nat) (x : DWord) : (writeS g n x).spill = g.spill := rfl
@[simp] theorem writeS_cnt (g : Group) (n : Nat) (x : DWord) : (writeS g n x).cnt = g.cnt := rfl
@[simp] theorem writeS_handler (g : Group) (n : Nat) (x : DWord) : (writeS g n x).handler = g.handler := rfl
@[simp] theorem writeS_bound (g : Group) (n : Nat) (x : DWord) : (writeS g n x).bound = g.bound := rfl
@[simp] theorem writeS_gather (g : Group) (n : Nat) (x : DWord) : (writeS g n x).gather = g.gather := rfl
@[simp] theorem writeS_yieldEnd (g : Group) (n : Nat) (x : DWord) : (writeS g n x).yieldEnd = g.yieldEnd := rfl
@[simp] theorem writeS_yieldLeft (g : Group) (n : Nat) (x : DWord) : (writeS g n x).yieldLeft = g.yieldLeft := rfl
@[simp] theorem writeS_pcSince (g : Group) (n : Nat) (x : DWord) : (writeS g n x).pcSince = g.pcSince := rfl
@[simp] theorem writeS_tok (g : Group) (n : Nat) (x : DWord) : (writeS g n x).tok = g.tok := rfl
@[simp] theorem writeS_fpeAtIssue (g : Group) (n : Nat) (x : DWord) : (writeS g n x).fpeAtIssue = g.fpeAtIssue := rfl
@[simp] theorem writeS_galley (g : Group) (n : Nat) (x : DWord) : (writeS g n x).galley = g.galley := rfl
@[simp] theorem writeS_batch (g : Group) (n : Nat) (x : DWord) : (writeS g n x).batch = g.batch := rfl
@[simp] theorem writeS_helper (g : Group) (n : Nat) (x : DWord) : (writeS g n x).helper = g.helper := rfl
@[simp] theorem writeS_relScope (g : Group) (n : Nat) (x : DWord) : (writeS g n x).relScope = g.relScope := rfl

/-! The masks -/

@[simp] theorem writeK_tid (g : Group) (n : Nat) (m : Mask) : (writeK g n m).tid = g.tid := by unfold writeK; split <;> rfl
@[simp] theorem writeK_core (g : Group) (n : Nat) (m : Mask) : (writeK g n m).core = g.core := by unfold writeK; split <;> rfl
@[simp] theorem writeK_rslot (g : Group) (n : Nat) (m : Mask) : (writeK g n m).rslot = g.rslot := by unfold writeK; split <;> rfl
@[simp] theorem writeK_gintm (g : Group) (n : Nat) (m : Mask) : (writeK g n m).gintm = g.gintm := by unfold writeK; split <;> rfl
@[simp] theorem writeK_gidx (g : Group) (n : Nat) (m : Mask) : (writeK g n m).gidx = g.gidx := by unfold writeK; split <;> rfl
@[simp] theorem writeK_width (g : Group) (n : Nat) (m : Mask) : (writeK g n m).width = g.width := by unfold writeK; split <;> rfl
@[simp] theorem writeK_pool (g : Group) (n : Nat) (m : Mask) : (writeK g n m).pool = g.pool := by unfold writeK; split <;> rfl
@[simp] theorem writeK_place (g : Group) (n : Nat) (m : Mask) : (writeK g n m).place = g.place := by unfold writeK; split <;> rfl
@[simp] theorem writeK_v (g : Group) (n : Nat) (m : Mask) : (writeK g n m).v = g.v := by unfold writeK; split <;> rfl
@[simp] theorem writeK_s (g : Group) (n : Nat) (m : Mask) : (writeK g n m).s = g.s := by unfold writeK; split <;> rfl
@[simp] theorem writeK_lpc (g : Group) (n : Nat) (m : Mask) : (writeK g n m).lpc = g.lpc := by unfold writeK; split <;> rfl
@[simp] theorem writeK_held (g : Group) (n : Nat) (m : Mask) : (writeK g n m).held = g.held := by unfold writeK; split <;> rfl
@[simp] theorem writeK_links (g : Group) (n : Nat) (m : Mask) : (writeK g n m).links = g.links := by unfold writeK; split <;> rfl
@[simp] theorem writeK_depth (g : Group) (n : Nat) (m : Mask) : (writeK g n m).depth = g.depth := by unfold writeK; split <;> rfl
@[simp] theorem writeK_wb (g : Group) (n : Nat) (m : Mask) : (writeK g n m).wb = g.wb := by unfold writeK; split <;> rfl
@[simp] theorem writeK_wl (g : Group) (n : Nat) (m : Mask) : (writeK g n m).wl = g.wl := by unfold writeK; split <;> rfl
@[simp] theorem writeK_tvec (g : Group) (n : Nat) (m : Mask) : (writeK g n m).tvec = g.tvec := by unfold writeK; split <;> rfl
@[simp] theorem writeK_tframe (g : Group) (n : Nat) (m : Mask) : (writeK g n m).tframe = g.tframe := by unfold writeK; split <;> rfl
@[simp] theorem writeK_tcause (g : Group) (n : Nat) (m : Mask) : (writeK g n m).tcause = g.tcause := by unfold writeK; split <;> rfl
@[simp] theorem writeK_tmask (g : Group) (n : Nat) (m : Mask) : (writeK g n m).tmask = g.tmask := by unfold writeK; split <;> rfl
@[simp] theorem writeK_tslot (g : Group) (n : Nat) (m : Mask) : (writeK g n m).tslot = g.tslot := by unfold writeK; split <;> rfl
@[simp] theorem writeK_tmcmp (g : Group) (n : Nat) (m : Mask) : (writeK g n m).tmcmp = g.tmcmp := by unfold writeK; split <;> rfl
@[simp] theorem writeK_gcyc (g : Group) (n : Nat) (m : Mask) : (writeK g n m).gcyc = g.gcyc := by unfold writeK; split <;> rfl
@[simp] theorem writeK_fps (g : Group) (n : Nat) (m : Mask) : (writeK g n m).fps = g.fps := by unfold writeK; split <;> rfl
@[simp] theorem writeK_fpe (g : Group) (n : Nat) (m : Mask) : (writeK g n m).fpe = g.fpe := by unfold writeK; split <;> rfl
@[simp] theorem writeK_rndkey (g : Group) (n : Nat) (m : Mask) : (writeK g n m).rndkey = g.rndkey := by unfold writeK; split <;> rfl
@[simp] theorem writeK_spill (g : Group) (n : Nat) (m : Mask) : (writeK g n m).spill = g.spill := by unfold writeK; split <;> rfl
@[simp] theorem writeK_cnt (g : Group) (n : Nat) (m : Mask) : (writeK g n m).cnt = g.cnt := by unfold writeK; split <;> rfl
@[simp] theorem writeK_handler (g : Group) (n : Nat) (m : Mask) : (writeK g n m).handler = g.handler := by unfold writeK; split <;> rfl
@[simp] theorem writeK_bound (g : Group) (n : Nat) (m : Mask) : (writeK g n m).bound = g.bound := by unfold writeK; split <;> rfl
@[simp] theorem writeK_gather (g : Group) (n : Nat) (m : Mask) : (writeK g n m).gather = g.gather := by unfold writeK; split <;> rfl
@[simp] theorem writeK_yieldEnd (g : Group) (n : Nat) (m : Mask) : (writeK g n m).yieldEnd = g.yieldEnd := by unfold writeK; split <;> rfl
@[simp] theorem writeK_yieldLeft (g : Group) (n : Nat) (m : Mask) : (writeK g n m).yieldLeft = g.yieldLeft := by unfold writeK; split <;> rfl
@[simp] theorem writeK_pcSince (g : Group) (n : Nat) (m : Mask) : (writeK g n m).pcSince = g.pcSince := by unfold writeK; split <;> rfl
@[simp] theorem writeK_tok (g : Group) (n : Nat) (m : Mask) : (writeK g n m).tok = g.tok := by unfold writeK; split <;> rfl
@[simp] theorem writeK_fpeAtIssue (g : Group) (n : Nat) (m : Mask) : (writeK g n m).fpeAtIssue = g.fpeAtIssue := by unfold writeK; split <;> rfl
@[simp] theorem writeK_galley (g : Group) (n : Nat) (m : Mask) : (writeK g n m).galley = g.galley := by unfold writeK; split <;> rfl
@[simp] theorem writeK_batch (g : Group) (n : Nat) (m : Mask) : (writeK g n m).batch = g.batch := by unfold writeK; split <;> rfl
@[simp] theorem writeK_helper (g : Group) (n : Nat) (m : Mask) : (writeK g n m).helper = g.helper := by unfold writeK; split <;> rfl
@[simp] theorem writeK_relScope (g : Group) (n : Nat) (m : Mask) : (writeK g n m).relScope = g.relScope := by unfold writeK; split <;> rfl

/-! A latch -/

@[simp] theorem setLatch_seed (c : Packet) (x : Latch) : (setLatch c x).seed = c.seed := rfl
@[simp] theorem setLatch_gid (c : Packet) (x : Latch) : (setLatch c x).gid = c.gid := rfl
@[simp] theorem setLatch_pc (c : Packet) (x : Latch) : (setLatch c x).pc = c.pc := rfl
@[simp] theorem setLatch_act (c : Packet) (x : Latch) : (setLatch c x).act = c.act := rfl
@[simp] theorem setLatch_slot (c : Packet) (x : Latch) : (setLatch c x).slot = c.slot := rfl
@[simp] theorem setLatch_lit (c : Packet) (x : Latch) : (setLatch c x).lit = c.lit := rfl
@[simp] theorem setLatch_g0 (c : Packet) (x : Latch) : (setLatch c x).g0 = c.g0 := rfl
@[simp] theorem setLatch_g (c : Packet) (x : Latch) : (setLatch c x).g = c.g := rfl
@[simp] theorem setLatch_nxt (c : Packet) (x : Latch) : (setLatch c x).nxt = c.nxt := rfl
@[simp] theorem setLatch_flags (c : Packet) (x : Latch) : (setLatch c x).flags = c.flags := rfl
@[simp] theorem setLatch_trap (c : Packet) (x : Latch) : (setLatch c x).trap = c.trap := rfl
@[simp] theorem setLatch_slide (c : Packet) (x : Latch) : (setLatch c x).slide = c.slide := rfl
@[simp] theorem setLatch_park (c : Packet) (x : Latch) : (setLatch c x).park = c.park := rfl
@[simp] theorem setLatch_parkSlot (c : Packet) (x : Latch) : (setLatch c x).parkSlot = c.parkSlot := rfl
@[simp] theorem setLatch_svc (c : Packet) (x : Latch) : (setLatch c x).svc = c.svc := rfl
@[simp] theorem setLatch_tret (c : Packet) (x : Latch) : (setLatch c x).tret = c.tret := rfl
@[simp] theorem setLatch_ctl (c : Packet) (x : Latch) : (setLatch c x).ctl = c.ctl := rfl
@[simp] theorem setLatch_yield (c : Packet) (x : Latch) : (setLatch c x).yield = c.yield := rfl
@[simp] theorem setLatch_ops (c : Packet) (x : Latch) : (setLatch c x).ops = c.ops := rfl
@[simp] theorem setLatch_fatal (c : Packet) (x : Latch) : (setLatch c x).fatal = c.fatal := rfl
@[simp] theorem setLatch_xfaults (c : Packet) (x : Latch) : (setLatch c x).xfaults = c.xfaults := rfl
@[simp] theorem setLatch_fills (c : Packet) (x : Latch) : (setLatch c x).fills = c.fills := rfl

/-! Flags -/

@[simp] theorem raiseFlags_seed (c : Packet) (x : BitVec 6) (ls : List Nat) (f : Nat → Flags) : (raiseFlags c x ls f).seed = c.seed := rfl
@[simp] theorem raiseFlags_gid (c : Packet) (x : BitVec 6) (ls : List Nat) (f : Nat → Flags) : (raiseFlags c x ls f).gid = c.gid := rfl
@[simp] theorem raiseFlags_pc (c : Packet) (x : BitVec 6) (ls : List Nat) (f : Nat → Flags) : (raiseFlags c x ls f).pc = c.pc := rfl
@[simp] theorem raiseFlags_act (c : Packet) (x : BitVec 6) (ls : List Nat) (f : Nat → Flags) : (raiseFlags c x ls f).act = c.act := rfl
@[simp] theorem raiseFlags_slot (c : Packet) (x : BitVec 6) (ls : List Nat) (f : Nat → Flags) : (raiseFlags c x ls f).slot = c.slot := rfl
@[simp] theorem raiseFlags_lit (c : Packet) (x : BitVec 6) (ls : List Nat) (f : Nat → Flags) : (raiseFlags c x ls f).lit = c.lit := rfl
@[simp] theorem raiseFlags_g0 (c : Packet) (x : BitVec 6) (ls : List Nat) (f : Nat → Flags) : (raiseFlags c x ls f).g0 = c.g0 := rfl
@[simp] theorem raiseFlags_g (c : Packet) (x : BitVec 6) (ls : List Nat) (f : Nat → Flags) : (raiseFlags c x ls f).g = c.g := rfl
@[simp] theorem raiseFlags_latches (c : Packet) (x : BitVec 6) (ls : List Nat) (f : Nat → Flags) : (raiseFlags c x ls f).latches = c.latches := rfl
@[simp] theorem raiseFlags_nxt (c : Packet) (x : BitVec 6) (ls : List Nat) (f : Nat → Flags) : (raiseFlags c x ls f).nxt = c.nxt := rfl
@[simp] theorem raiseFlags_trap (c : Packet) (x : BitVec 6) (ls : List Nat) (f : Nat → Flags) : (raiseFlags c x ls f).trap = c.trap := rfl
@[simp] theorem raiseFlags_slide (c : Packet) (x : BitVec 6) (ls : List Nat) (f : Nat → Flags) : (raiseFlags c x ls f).slide = c.slide := rfl
@[simp] theorem raiseFlags_park (c : Packet) (x : BitVec 6) (ls : List Nat) (f : Nat → Flags) : (raiseFlags c x ls f).park = c.park := rfl
@[simp] theorem raiseFlags_parkSlot (c : Packet) (x : BitVec 6) (ls : List Nat) (f : Nat → Flags) : (raiseFlags c x ls f).parkSlot = c.parkSlot := rfl
@[simp] theorem raiseFlags_svc (c : Packet) (x : BitVec 6) (ls : List Nat) (f : Nat → Flags) : (raiseFlags c x ls f).svc = c.svc := rfl
@[simp] theorem raiseFlags_tret (c : Packet) (x : BitVec 6) (ls : List Nat) (f : Nat → Flags) : (raiseFlags c x ls f).tret = c.tret := rfl
@[simp] theorem raiseFlags_ctl (c : Packet) (x : BitVec 6) (ls : List Nat) (f : Nat → Flags) : (raiseFlags c x ls f).ctl = c.ctl := rfl
@[simp] theorem raiseFlags_yield (c : Packet) (x : BitVec 6) (ls : List Nat) (f : Nat → Flags) : (raiseFlags c x ls f).yield = c.yield := rfl
@[simp] theorem raiseFlags_ops (c : Packet) (x : BitVec 6) (ls : List Nat) (f : Nat → Flags) : (raiseFlags c x ls f).ops = c.ops := rfl
@[simp] theorem raiseFlags_fatal (c : Packet) (x : BitVec 6) (ls : List Nat) (f : Nat → Flags) : (raiseFlags c x ls f).fatal = c.fatal := rfl
@[simp] theorem raiseFlags_xfaults (c : Packet) (x : BitVec 6) (ls : List Nat) (f : Nat → Flags) : (raiseFlags c x ls f).xfaults = c.xfaults := rfl
@[simp] theorem raiseFlags_fills (c : Packet) (x : BitVec 6) (ls : List Nat) (f : Nat → Flags) : (raiseFlags c x ls f).fills = c.fills := rfl

/-! Control transfer -/

@[simp] theorem jumpLanes_seed (c : Packet) (m : Mask) (t : Nat → Word) : (jumpLanes c m t).seed = c.seed := rfl
@[simp] theorem jumpLanes_gid (c : Packet) (m : Mask) (t : Nat → Word) : (jumpLanes c m t).gid = c.gid := rfl
@[simp] theorem jumpLanes_pc (c : Packet) (m : Mask) (t : Nat → Word) : (jumpLanes c m t).pc = c.pc := rfl
@[simp] theorem jumpLanes_act (c : Packet) (m : Mask) (t : Nat → Word) : (jumpLanes c m t).act = c.act := rfl
@[simp] theorem jumpLanes_slot (c : Packet) (m : Mask) (t : Nat → Word) : (jumpLanes c m t).slot = c.slot := rfl
@[simp] theorem jumpLanes_lit (c : Packet) (m : Mask) (t : Nat → Word) : (jumpLanes c m t).lit = c.lit := rfl
@[simp] theorem jumpLanes_g0 (c : Packet) (m : Mask) (t : Nat → Word) : (jumpLanes c m t).g0 = c.g0 := rfl
@[simp] theorem jumpLanes_g (c : Packet) (m : Mask) (t : Nat → Word) : (jumpLanes c m t).g = c.g := rfl
@[simp] theorem jumpLanes_latches (c : Packet) (m : Mask) (t : Nat → Word) : (jumpLanes c m t).latches = c.latches := rfl
@[simp] theorem jumpLanes_flags (c : Packet) (m : Mask) (t : Nat → Word) : (jumpLanes c m t).flags = c.flags := rfl
@[simp] theorem jumpLanes_trap (c : Packet) (m : Mask) (t : Nat → Word) : (jumpLanes c m t).trap = c.trap := rfl
@[simp] theorem jumpLanes_slide (c : Packet) (m : Mask) (t : Nat → Word) : (jumpLanes c m t).slide = c.slide := rfl
@[simp] theorem jumpLanes_park (c : Packet) (m : Mask) (t : Nat → Word) : (jumpLanes c m t).park = c.park := rfl
@[simp] theorem jumpLanes_parkSlot (c : Packet) (m : Mask) (t : Nat → Word) : (jumpLanes c m t).parkSlot = c.parkSlot := rfl
@[simp] theorem jumpLanes_svc (c : Packet) (m : Mask) (t : Nat → Word) : (jumpLanes c m t).svc = c.svc := rfl
@[simp] theorem jumpLanes_tret (c : Packet) (m : Mask) (t : Nat → Word) : (jumpLanes c m t).tret = c.tret := rfl
@[simp] theorem jumpLanes_ctl (c : Packet) (m : Mask) (t : Nat → Word) : (jumpLanes c m t).ctl = c.ctl := rfl
@[simp] theorem jumpLanes_yield (c : Packet) (m : Mask) (t : Nat → Word) : (jumpLanes c m t).yield = c.yield := rfl
@[simp] theorem jumpLanes_ops (c : Packet) (m : Mask) (t : Nat → Word) : (jumpLanes c m t).ops = c.ops := rfl
@[simp] theorem jumpLanes_fatal (c : Packet) (m : Mask) (t : Nat → Word) : (jumpLanes c m t).fatal = c.fatal := rfl
@[simp] theorem jumpLanes_xfaults (c : Packet) (m : Mask) (t : Nat → Word) : (jumpLanes c m t).xfaults = c.xfaults := rfl
@[simp] theorem jumpLanes_fills (c : Packet) (m : Mask) (t : Nat → Word) : (jumpLanes c m t).fills = c.fills := rfl

/-! A group of the device -/

@[simp] theorem modGroup_cyc (d : Dev) (i : Nat) (f : Group → Group) : (modGroup d i f).cyc = d.cyc := rfl
@[simp] theorem modGroup_fresh (d : Dev) (i : Nat) (f : Group → Group) : (modGroup d i f).fresh = d.fresh := rfl
@[simp] theorem modGroup_reg (d : Dev) (i : Nat) (f : Group → Group) : (modGroup d i f).reg = d.reg := rfl
@[simp] theorem modGroup_pow (d : Dev) (i : Nat) (f : Group → Group) : (modGroup d i f).pow = d.pow := rfl
@[simp] theorem modGroup_mem (d : Dev) (i : Nat) (f : Group → Group) : (modGroup d i f).mem = d.mem := rfl
@[simp] theorem modGroup_host (d : Dev) (i : Nat) (f : Group → Group) : (modGroup d i f).host = d.host := rfl
@[simp] theorem modGroup_bar2 (d : Dev) (i : Nat) (f : Group → Group) : (modGroup d i f).bar2 = d.bar2 := rfl
@[simp] theorem modGroup_peers (d : Dev) (i : Nat) (f : Group → Group) : (modGroup d i f).peers = d.peers := rfl
@[simp] theorem modGroup_peerOcts (d : Dev) (i : Nat) (f : Group → Group) : (modGroup d i f).peerOcts = d.peerOcts := rfl
@[simp] theorem modGroup_accepted (d : Dev) (i : Nat) (f : Group → Group) : (modGroup d i f).accepted = d.accepted := rfl
@[simp] theorem modGroup_llc (d : Dev) (i : Nat) (f : Group → Group) : (modGroup d i f).llc = d.llc := rfl
@[simp] theorem modGroup_victims (d : Dev) (i : Nat) (f : Group → Group) : (modGroup d i f).victims = d.victims := rfl
@[simp] theorem modGroup_rels (d : Dev) (i : Nat) (f : Group → Group) : (modGroup d i f).rels = d.rels := rfl
@[simp] theorem modGroup_net (d : Dev) (i : Nat) (f : Group → Group) : (modGroup d i f).net = d.net := rfl
@[simp] theorem modGroup_parts (d : Dev) (i : Nat) (f : Group → Group) : (modGroup d i f).parts = d.parts := rfl
@[simp] theorem modGroup_cores (d : Dev) (i : Nat) (f : Group → Group) : (modGroup d i f).cores = d.cores := rfl
@[simp] theorem modGroup_teams (d : Dev) (i : Nat) (f : Group → Group) : (modGroup d i f).teams = d.teams := rfl
@[simp] theorem modGroup_clusters (d : Dev) (i : Nat) (f : Group → Group) : (modGroup d i f).clusters = d.clusters := rfl
@[simp] theorem modGroup_grids (d : Dev) (i : Nat) (f : Group → Group) : (modGroup d i f).grids = d.grids := rfl
@[simp] theorem modGroup_draws (d : Dev) (i : Nat) (f : Group → Group) : (modGroup d i f).draws = d.draws := rfl
@[simp] theorem modGroup_tiles (d : Dev) (i : Nat) (f : Group → Group) : (modGroup d i f).tiles = d.tiles := rfl
@[simp] theorem modGroup_dsc (d : Dev) (i : Nat) (f : Group → Group) : (modGroup d i f).dsc = d.dsc := rfl
@[simp] theorem modGroup_ops (d : Dev) (i : Nat) (f : Group → Group) : (modGroup d i f).ops = d.ops := rfl
@[simp] theorem modGroup_reports (d : Dev) (i : Nat) (f : Group → Group) : (modGroup d i f).reports = d.reports := rfl
@[simp] theorem modGroup_tlb (d : Dev) (i : Nat) (f : Group → Group) : (modGroup d i f).tlb = d.tlb := rfl
@[simp] theorem modGroup_copies (d : Dev) (i : Nat) (f : Group → Group) : (modGroup d i f).copies = d.copies := rfl
@[simp] theorem modGroup_events (d : Dev) (i : Nat) (f : Group → Group) : (modGroup d i f).events = d.events := rfl
@[simp] theorem modGroup_seqs (d : Dev) (i : Nat) (f : Group → Group) : (modGroup d i f).seqs = d.seqs := rfl
@[simp] theorem modGroup_tests (d : Dev) (i : Nat) (f : Group → Group) : (modGroup d i f).tests = d.tests := rfl
@[simp] theorem modGroup_links (d : Dev) (i : Nat) (f : Group → Group) : (modGroup d i f).links = d.links := rfl
@[simp] theorem modGroup_cx (d : Dev) (i : Nat) (f : Group → Group) : (modGroup d i f).cx = d.cx := rfl
@[simp] theorem modGroup_shared (d : Dev) (i : Nat) (f : Group → Group) : (modGroup d i f).shared = d.shared := rfl
@[simp] theorem modGroup_progress (d : Dev) (i : Nat) (f : Group → Group) : (modGroup d i f).progress = d.progress := rfl
@[simp] theorem modGroup_acks (d : Dev) (i : Nat) (f : Group → Group) : (modGroup d i f).acks = d.acks := rfl
@[simp] theorem modGroup_msix (d : Dev) (i : Nat) (f : Group → Group) : (modGroup d i f).msix = d.msix := rfl
@[simp] theorem modGroup_readOut (d : Dev) (i : Nat) (f : Group → Group) : (modGroup d i f).readOut = d.readOut := rfl
@[simp] theorem modGroup_reply (d : Dev) (i : Nat) (f : Group → Group) : (modGroup d i f).reply = d.reply := rfl
@[simp] theorem modGroup_inval (d : Dev) (i : Nat) (f : Group → Group) : (modGroup d i f).inval = d.inval := rfl

/-! A team of the device -/

@[simp] theorem modTeam_cyc (d : Dev) (i : Nat) (f : Team → Team) : (modTeam d i f).cyc = d.cyc := rfl
@[simp] theorem modTeam_fresh (d : Dev) (i : Nat) (f : Team → Team) : (modTeam d i f).fresh = d.fresh := rfl
@[simp] theorem modTeam_reg (d : Dev) (i : Nat) (f : Team → Team) : (modTeam d i f).reg = d.reg := rfl
@[simp] theorem modTeam_pow (d : Dev) (i : Nat) (f : Team → Team) : (modTeam d i f).pow = d.pow := rfl
@[simp] theorem modTeam_mem (d : Dev) (i : Nat) (f : Team → Team) : (modTeam d i f).mem = d.mem := rfl
@[simp] theorem modTeam_host (d : Dev) (i : Nat) (f : Team → Team) : (modTeam d i f).host = d.host := rfl
@[simp] theorem modTeam_bar2 (d : Dev) (i : Nat) (f : Team → Team) : (modTeam d i f).bar2 = d.bar2 := rfl
@[simp] theorem modTeam_peers (d : Dev) (i : Nat) (f : Team → Team) : (modTeam d i f).peers = d.peers := rfl
@[simp] theorem modTeam_peerOcts (d : Dev) (i : Nat) (f : Team → Team) : (modTeam d i f).peerOcts = d.peerOcts := rfl
@[simp] theorem modTeam_accepted (d : Dev) (i : Nat) (f : Team → Team) : (modTeam d i f).accepted = d.accepted := rfl
@[simp] theorem modTeam_llc (d : Dev) (i : Nat) (f : Team → Team) : (modTeam d i f).llc = d.llc := rfl
@[simp] theorem modTeam_victims (d : Dev) (i : Nat) (f : Team → Team) : (modTeam d i f).victims = d.victims := rfl
@[simp] theorem modTeam_rels (d : Dev) (i : Nat) (f : Team → Team) : (modTeam d i f).rels = d.rels := rfl
@[simp] theorem modTeam_net (d : Dev) (i : Nat) (f : Team → Team) : (modTeam d i f).net = d.net := rfl
@[simp] theorem modTeam_parts (d : Dev) (i : Nat) (f : Team → Team) : (modTeam d i f).parts = d.parts := rfl
@[simp] theorem modTeam_cores (d : Dev) (i : Nat) (f : Team → Team) : (modTeam d i f).cores = d.cores := rfl
@[simp] theorem modTeam_groups (d : Dev) (i : Nat) (f : Team → Team) : (modTeam d i f).groups = d.groups := rfl
@[simp] theorem modTeam_clusters (d : Dev) (i : Nat) (f : Team → Team) : (modTeam d i f).clusters = d.clusters := rfl
@[simp] theorem modTeam_grids (d : Dev) (i : Nat) (f : Team → Team) : (modTeam d i f).grids = d.grids := rfl
@[simp] theorem modTeam_draws (d : Dev) (i : Nat) (f : Team → Team) : (modTeam d i f).draws = d.draws := rfl
@[simp] theorem modTeam_tiles (d : Dev) (i : Nat) (f : Team → Team) : (modTeam d i f).tiles = d.tiles := rfl
@[simp] theorem modTeam_dsc (d : Dev) (i : Nat) (f : Team → Team) : (modTeam d i f).dsc = d.dsc := rfl
@[simp] theorem modTeam_ops (d : Dev) (i : Nat) (f : Team → Team) : (modTeam d i f).ops = d.ops := rfl
@[simp] theorem modTeam_reports (d : Dev) (i : Nat) (f : Team → Team) : (modTeam d i f).reports = d.reports := rfl
@[simp] theorem modTeam_tlb (d : Dev) (i : Nat) (f : Team → Team) : (modTeam d i f).tlb = d.tlb := rfl
@[simp] theorem modTeam_copies (d : Dev) (i : Nat) (f : Team → Team) : (modTeam d i f).copies = d.copies := rfl
@[simp] theorem modTeam_events (d : Dev) (i : Nat) (f : Team → Team) : (modTeam d i f).events = d.events := rfl
@[simp] theorem modTeam_seqs (d : Dev) (i : Nat) (f : Team → Team) : (modTeam d i f).seqs = d.seqs := rfl
@[simp] theorem modTeam_tests (d : Dev) (i : Nat) (f : Team → Team) : (modTeam d i f).tests = d.tests := rfl
@[simp] theorem modTeam_links (d : Dev) (i : Nat) (f : Team → Team) : (modTeam d i f).links = d.links := rfl
@[simp] theorem modTeam_cx (d : Dev) (i : Nat) (f : Team → Team) : (modTeam d i f).cx = d.cx := rfl
@[simp] theorem modTeam_shared (d : Dev) (i : Nat) (f : Team → Team) : (modTeam d i f).shared = d.shared := rfl
@[simp] theorem modTeam_progress (d : Dev) (i : Nat) (f : Team → Team) : (modTeam d i f).progress = d.progress := rfl
@[simp] theorem modTeam_acks (d : Dev) (i : Nat) (f : Team → Team) : (modTeam d i f).acks = d.acks := rfl
@[simp] theorem modTeam_msix (d : Dev) (i : Nat) (f : Team → Team) : (modTeam d i f).msix = d.msix := rfl
@[simp] theorem modTeam_readOut (d : Dev) (i : Nat) (f : Team → Team) : (modTeam d i f).readOut = d.readOut := rfl
@[simp] theorem modTeam_reply (d : Dev) (i : Nat) (f : Team → Team) : (modTeam d i f).reply = d.reply := rfl
@[simp] theorem modTeam_inval (d : Dev) (i : Nat) (f : Team → Team) : (modTeam d i f).inval = d.inval := rfl

/-! A partition of the device -/

@[simp] theorem modPart_cyc (d : Dev) (i : Nat) (f : Part → Part) : (modPart d i f).cyc = d.cyc := rfl
@[simp] theorem modPart_fresh (d : Dev) (i : Nat) (f : Part → Part) : (modPart d i f).fresh = d.fresh := rfl
@[simp] theorem modPart_reg (d : Dev) (i : Nat) (f : Part → Part) : (modPart d i f).reg = d.reg := rfl
@[simp] theorem modPart_pow (d : Dev) (i : Nat) (f : Part → Part) : (modPart d i f).pow = d.pow := rfl
@[simp] theorem modPart_mem (d : Dev) (i : Nat) (f : Part → Part) : (modPart d i f).mem = d.mem := rfl
@[simp] theorem modPart_host (d : Dev) (i : Nat) (f : Part → Part) : (modPart d i f).host = d.host := rfl
@[simp] theorem modPart_bar2 (d : Dev) (i : Nat) (f : Part → Part) : (modPart d i f).bar2 = d.bar2 := rfl
@[simp] theorem modPart_peers (d : Dev) (i : Nat) (f : Part → Part) : (modPart d i f).peers = d.peers := rfl
@[simp] theorem modPart_peerOcts (d : Dev) (i : Nat) (f : Part → Part) : (modPart d i f).peerOcts = d.peerOcts := rfl
@[simp] theorem modPart_accepted (d : Dev) (i : Nat) (f : Part → Part) : (modPart d i f).accepted = d.accepted := rfl
@[simp] theorem modPart_llc (d : Dev) (i : Nat) (f : Part → Part) : (modPart d i f).llc = d.llc := rfl
@[simp] theorem modPart_victims (d : Dev) (i : Nat) (f : Part → Part) : (modPart d i f).victims = d.victims := rfl
@[simp] theorem modPart_rels (d : Dev) (i : Nat) (f : Part → Part) : (modPart d i f).rels = d.rels := rfl
@[simp] theorem modPart_net (d : Dev) (i : Nat) (f : Part → Part) : (modPart d i f).net = d.net := rfl
@[simp] theorem modPart_cores (d : Dev) (i : Nat) (f : Part → Part) : (modPart d i f).cores = d.cores := rfl
@[simp] theorem modPart_groups (d : Dev) (i : Nat) (f : Part → Part) : (modPart d i f).groups = d.groups := rfl
@[simp] theorem modPart_teams (d : Dev) (i : Nat) (f : Part → Part) : (modPart d i f).teams = d.teams := rfl
@[simp] theorem modPart_clusters (d : Dev) (i : Nat) (f : Part → Part) : (modPart d i f).clusters = d.clusters := rfl
@[simp] theorem modPart_grids (d : Dev) (i : Nat) (f : Part → Part) : (modPart d i f).grids = d.grids := rfl
@[simp] theorem modPart_draws (d : Dev) (i : Nat) (f : Part → Part) : (modPart d i f).draws = d.draws := rfl
@[simp] theorem modPart_tiles (d : Dev) (i : Nat) (f : Part → Part) : (modPart d i f).tiles = d.tiles := rfl
@[simp] theorem modPart_dsc (d : Dev) (i : Nat) (f : Part → Part) : (modPart d i f).dsc = d.dsc := rfl
@[simp] theorem modPart_ops (d : Dev) (i : Nat) (f : Part → Part) : (modPart d i f).ops = d.ops := rfl
@[simp] theorem modPart_reports (d : Dev) (i : Nat) (f : Part → Part) : (modPart d i f).reports = d.reports := rfl
@[simp] theorem modPart_tlb (d : Dev) (i : Nat) (f : Part → Part) : (modPart d i f).tlb = d.tlb := rfl
@[simp] theorem modPart_copies (d : Dev) (i : Nat) (f : Part → Part) : (modPart d i f).copies = d.copies := rfl
@[simp] theorem modPart_events (d : Dev) (i : Nat) (f : Part → Part) : (modPart d i f).events = d.events := rfl
@[simp] theorem modPart_seqs (d : Dev) (i : Nat) (f : Part → Part) : (modPart d i f).seqs = d.seqs := rfl
@[simp] theorem modPart_tests (d : Dev) (i : Nat) (f : Part → Part) : (modPart d i f).tests = d.tests := rfl
@[simp] theorem modPart_links (d : Dev) (i : Nat) (f : Part → Part) : (modPart d i f).links = d.links := rfl
@[simp] theorem modPart_cx (d : Dev) (i : Nat) (f : Part → Part) : (modPart d i f).cx = d.cx := rfl
@[simp] theorem modPart_shared (d : Dev) (i : Nat) (f : Part → Part) : (modPart d i f).shared = d.shared := rfl
@[simp] theorem modPart_progress (d : Dev) (i : Nat) (f : Part → Part) : (modPart d i f).progress = d.progress := rfl
@[simp] theorem modPart_acks (d : Dev) (i : Nat) (f : Part → Part) : (modPart d i f).acks = d.acks := rfl
@[simp] theorem modPart_msix (d : Dev) (i : Nat) (f : Part → Part) : (modPart d i f).msix = d.msix := rfl
@[simp] theorem modPart_readOut (d : Dev) (i : Nat) (f : Part → Part) : (modPart d i f).readOut = d.readOut := rfl
@[simp] theorem modPart_reply (d : Dev) (i : Nat) (f : Part → Part) : (modPart d i f).reply = d.reply := rfl
@[simp] theorem modPart_inval (d : Dev) (i : Nat) (f : Part → Part) : (modPart d i f).inval = d.inval := rfl

/-! An operation of the device -/

@[simp] theorem modOp_cyc (d : Dev) (i : Nat) (f : Op → Op) : (modOp d i f).cyc = d.cyc := rfl
@[simp] theorem modOp_fresh (d : Dev) (i : Nat) (f : Op → Op) : (modOp d i f).fresh = d.fresh := rfl
@[simp] theorem modOp_reg (d : Dev) (i : Nat) (f : Op → Op) : (modOp d i f).reg = d.reg := rfl
@[simp] theorem modOp_pow (d : Dev) (i : Nat) (f : Op → Op) : (modOp d i f).pow = d.pow := rfl
@[simp] theorem modOp_mem (d : Dev) (i : Nat) (f : Op → Op) : (modOp d i f).mem = d.mem := rfl
@[simp] theorem modOp_host (d : Dev) (i : Nat) (f : Op → Op) : (modOp d i f).host = d.host := rfl
@[simp] theorem modOp_bar2 (d : Dev) (i : Nat) (f : Op → Op) : (modOp d i f).bar2 = d.bar2 := rfl
@[simp] theorem modOp_peers (d : Dev) (i : Nat) (f : Op → Op) : (modOp d i f).peers = d.peers := rfl
@[simp] theorem modOp_peerOcts (d : Dev) (i : Nat) (f : Op → Op) : (modOp d i f).peerOcts = d.peerOcts := rfl
@[simp] theorem modOp_accepted (d : Dev) (i : Nat) (f : Op → Op) : (modOp d i f).accepted = d.accepted := rfl
@[simp] theorem modOp_llc (d : Dev) (i : Nat) (f : Op → Op) : (modOp d i f).llc = d.llc := rfl
@[simp] theorem modOp_victims (d : Dev) (i : Nat) (f : Op → Op) : (modOp d i f).victims = d.victims := rfl
@[simp] theorem modOp_rels (d : Dev) (i : Nat) (f : Op → Op) : (modOp d i f).rels = d.rels := rfl
@[simp] theorem modOp_net (d : Dev) (i : Nat) (f : Op → Op) : (modOp d i f).net = d.net := rfl
@[simp] theorem modOp_parts (d : Dev) (i : Nat) (f : Op → Op) : (modOp d i f).parts = d.parts := rfl
@[simp] theorem modOp_cores (d : Dev) (i : Nat) (f : Op → Op) : (modOp d i f).cores = d.cores := rfl
@[simp] theorem modOp_groups (d : Dev) (i : Nat) (f : Op → Op) : (modOp d i f).groups = d.groups := rfl
@[simp] theorem modOp_teams (d : Dev) (i : Nat) (f : Op → Op) : (modOp d i f).teams = d.teams := rfl
@[simp] theorem modOp_clusters (d : Dev) (i : Nat) (f : Op → Op) : (modOp d i f).clusters = d.clusters := rfl
@[simp] theorem modOp_grids (d : Dev) (i : Nat) (f : Op → Op) : (modOp d i f).grids = d.grids := rfl
@[simp] theorem modOp_draws (d : Dev) (i : Nat) (f : Op → Op) : (modOp d i f).draws = d.draws := rfl
@[simp] theorem modOp_tiles (d : Dev) (i : Nat) (f : Op → Op) : (modOp d i f).tiles = d.tiles := rfl
@[simp] theorem modOp_dsc (d : Dev) (i : Nat) (f : Op → Op) : (modOp d i f).dsc = d.dsc := rfl
@[simp] theorem modOp_reports (d : Dev) (i : Nat) (f : Op → Op) : (modOp d i f).reports = d.reports := rfl
@[simp] theorem modOp_tlb (d : Dev) (i : Nat) (f : Op → Op) : (modOp d i f).tlb = d.tlb := rfl
@[simp] theorem modOp_copies (d : Dev) (i : Nat) (f : Op → Op) : (modOp d i f).copies = d.copies := rfl
@[simp] theorem modOp_events (d : Dev) (i : Nat) (f : Op → Op) : (modOp d i f).events = d.events := rfl
@[simp] theorem modOp_seqs (d : Dev) (i : Nat) (f : Op → Op) : (modOp d i f).seqs = d.seqs := rfl
@[simp] theorem modOp_tests (d : Dev) (i : Nat) (f : Op → Op) : (modOp d i f).tests = d.tests := rfl
@[simp] theorem modOp_links (d : Dev) (i : Nat) (f : Op → Op) : (modOp d i f).links = d.links := rfl
@[simp] theorem modOp_cx (d : Dev) (i : Nat) (f : Op → Op) : (modOp d i f).cx = d.cx := rfl
@[simp] theorem modOp_shared (d : Dev) (i : Nat) (f : Op → Op) : (modOp d i f).shared = d.shared := rfl
@[simp] theorem modOp_progress (d : Dev) (i : Nat) (f : Op → Op) : (modOp d i f).progress = d.progress := rfl
@[simp] theorem modOp_acks (d : Dev) (i : Nat) (f : Op → Op) : (modOp d i f).acks = d.acks := rfl
@[simp] theorem modOp_msix (d : Dev) (i : Nat) (f : Op → Op) : (modOp d i f).msix = d.msix := rfl
@[simp] theorem modOp_readOut (d : Dev) (i : Nat) (f : Op → Op) : (modOp d i f).readOut = d.readOut := rfl
@[simp] theorem modOp_reply (d : Dev) (i : Nat) (f : Op → Op) : (modOp d i f).reply = d.reply := rfl
@[simp] theorem modOp_inval (d : Dev) (i : Nat) (f : Op → Op) : (modOp d i f).inval = d.inval := rfl

/-! An operation that leaves -/

@[simp] theorem delOp_cyc (d : Dev) (i : Nat) : (delOp d i).cyc = d.cyc := rfl
@[simp] theorem delOp_fresh (d : Dev) (i : Nat) : (delOp d i).fresh = d.fresh := rfl
@[simp] theorem delOp_reg (d : Dev) (i : Nat) : (delOp d i).reg = d.reg := rfl
@[simp] theorem delOp_pow (d : Dev) (i : Nat) : (delOp d i).pow = d.pow := rfl
@[simp] theorem delOp_mem (d : Dev) (i : Nat) : (delOp d i).mem = d.mem := rfl
@[simp] theorem delOp_host (d : Dev) (i : Nat) : (delOp d i).host = d.host := rfl
@[simp] theorem delOp_bar2 (d : Dev) (i : Nat) : (delOp d i).bar2 = d.bar2 := rfl
@[simp] theorem delOp_peers (d : Dev) (i : Nat) : (delOp d i).peers = d.peers := rfl
@[simp] theorem delOp_peerOcts (d : Dev) (i : Nat) : (delOp d i).peerOcts = d.peerOcts := rfl
@[simp] theorem delOp_accepted (d : Dev) (i : Nat) : (delOp d i).accepted = d.accepted := rfl
@[simp] theorem delOp_llc (d : Dev) (i : Nat) : (delOp d i).llc = d.llc := rfl
@[simp] theorem delOp_victims (d : Dev) (i : Nat) : (delOp d i).victims = d.victims := rfl
@[simp] theorem delOp_rels (d : Dev) (i : Nat) : (delOp d i).rels = d.rels := rfl
@[simp] theorem delOp_net (d : Dev) (i : Nat) : (delOp d i).net = d.net := rfl
@[simp] theorem delOp_parts (d : Dev) (i : Nat) : (delOp d i).parts = d.parts := rfl
@[simp] theorem delOp_cores (d : Dev) (i : Nat) : (delOp d i).cores = d.cores := rfl
@[simp] theorem delOp_groups (d : Dev) (i : Nat) : (delOp d i).groups = d.groups := rfl
@[simp] theorem delOp_teams (d : Dev) (i : Nat) : (delOp d i).teams = d.teams := rfl
@[simp] theorem delOp_clusters (d : Dev) (i : Nat) : (delOp d i).clusters = d.clusters := rfl
@[simp] theorem delOp_grids (d : Dev) (i : Nat) : (delOp d i).grids = d.grids := rfl
@[simp] theorem delOp_draws (d : Dev) (i : Nat) : (delOp d i).draws = d.draws := rfl
@[simp] theorem delOp_tiles (d : Dev) (i : Nat) : (delOp d i).tiles = d.tiles := rfl
@[simp] theorem delOp_dsc (d : Dev) (i : Nat) : (delOp d i).dsc = d.dsc := rfl
@[simp] theorem delOp_reports (d : Dev) (i : Nat) : (delOp d i).reports = d.reports := rfl
@[simp] theorem delOp_tlb (d : Dev) (i : Nat) : (delOp d i).tlb = d.tlb := rfl
@[simp] theorem delOp_copies (d : Dev) (i : Nat) : (delOp d i).copies = d.copies := rfl
@[simp] theorem delOp_events (d : Dev) (i : Nat) : (delOp d i).events = d.events := rfl
@[simp] theorem delOp_seqs (d : Dev) (i : Nat) : (delOp d i).seqs = d.seqs := rfl
@[simp] theorem delOp_tests (d : Dev) (i : Nat) : (delOp d i).tests = d.tests := rfl
@[simp] theorem delOp_links (d : Dev) (i : Nat) : (delOp d i).links = d.links := rfl
@[simp] theorem delOp_cx (d : Dev) (i : Nat) : (delOp d i).cx = d.cx := rfl
@[simp] theorem delOp_shared (d : Dev) (i : Nat) : (delOp d i).shared = d.shared := rfl
@[simp] theorem delOp_progress (d : Dev) (i : Nat) : (delOp d i).progress = d.progress := rfl
@[simp] theorem delOp_acks (d : Dev) (i : Nat) : (delOp d i).acks = d.acks := rfl
@[simp] theorem delOp_msix (d : Dev) (i : Nat) : (delOp d i).msix = d.msix := rfl
@[simp] theorem delOp_readOut (d : Dev) (i : Nat) : (delOp d i).readOut = d.readOut := rfl
@[simp] theorem delOp_reply (d : Dev) (i : Nat) : (delOp d i).reply = d.reply := rfl
@[simp] theorem delOp_inval (d : Dev) (i : Nat) : (delOp d i).inval = d.inval := rfl

/-! A core of the device -/

@[simp] theorem modCore_cyc (d : Dev) (i : Nat) (f : Core → Core) : (modCore d i f).cyc = d.cyc := rfl
@[simp] theorem modCore_fresh (d : Dev) (i : Nat) (f : Core → Core) : (modCore d i f).fresh = d.fresh := rfl
@[simp] theorem modCore_reg (d : Dev) (i : Nat) (f : Core → Core) : (modCore d i f).reg = d.reg := rfl
@[simp] theorem modCore_pow (d : Dev) (i : Nat) (f : Core → Core) : (modCore d i f).pow = d.pow := rfl
@[simp] theorem modCore_mem (d : Dev) (i : Nat) (f : Core → Core) : (modCore d i f).mem = d.mem := rfl
@[simp] theorem modCore_host (d : Dev) (i : Nat) (f : Core → Core) : (modCore d i f).host = d.host := rfl
@[simp] theorem modCore_bar2 (d : Dev) (i : Nat) (f : Core → Core) : (modCore d i f).bar2 = d.bar2 := rfl
@[simp] theorem modCore_peers (d : Dev) (i : Nat) (f : Core → Core) : (modCore d i f).peers = d.peers := rfl
@[simp] theorem modCore_peerOcts (d : Dev) (i : Nat) (f : Core → Core) : (modCore d i f).peerOcts = d.peerOcts := rfl
@[simp] theorem modCore_accepted (d : Dev) (i : Nat) (f : Core → Core) : (modCore d i f).accepted = d.accepted := rfl
@[simp] theorem modCore_llc (d : Dev) (i : Nat) (f : Core → Core) : (modCore d i f).llc = d.llc := rfl
@[simp] theorem modCore_victims (d : Dev) (i : Nat) (f : Core → Core) : (modCore d i f).victims = d.victims := rfl
@[simp] theorem modCore_rels (d : Dev) (i : Nat) (f : Core → Core) : (modCore d i f).rels = d.rels := rfl
@[simp] theorem modCore_net (d : Dev) (i : Nat) (f : Core → Core) : (modCore d i f).net = d.net := rfl
@[simp] theorem modCore_parts (d : Dev) (i : Nat) (f : Core → Core) : (modCore d i f).parts = d.parts := rfl
@[simp] theorem modCore_groups (d : Dev) (i : Nat) (f : Core → Core) : (modCore d i f).groups = d.groups := rfl
@[simp] theorem modCore_teams (d : Dev) (i : Nat) (f : Core → Core) : (modCore d i f).teams = d.teams := rfl
@[simp] theorem modCore_clusters (d : Dev) (i : Nat) (f : Core → Core) : (modCore d i f).clusters = d.clusters := rfl
@[simp] theorem modCore_grids (d : Dev) (i : Nat) (f : Core → Core) : (modCore d i f).grids = d.grids := rfl
@[simp] theorem modCore_draws (d : Dev) (i : Nat) (f : Core → Core) : (modCore d i f).draws = d.draws := rfl
@[simp] theorem modCore_tiles (d : Dev) (i : Nat) (f : Core → Core) : (modCore d i f).tiles = d.tiles := rfl
@[simp] theorem modCore_dsc (d : Dev) (i : Nat) (f : Core → Core) : (modCore d i f).dsc = d.dsc := rfl
@[simp] theorem modCore_ops (d : Dev) (i : Nat) (f : Core → Core) : (modCore d i f).ops = d.ops := rfl
@[simp] theorem modCore_reports (d : Dev) (i : Nat) (f : Core → Core) : (modCore d i f).reports = d.reports := rfl
@[simp] theorem modCore_tlb (d : Dev) (i : Nat) (f : Core → Core) : (modCore d i f).tlb = d.tlb := rfl
@[simp] theorem modCore_copies (d : Dev) (i : Nat) (f : Core → Core) : (modCore d i f).copies = d.copies := rfl
@[simp] theorem modCore_events (d : Dev) (i : Nat) (f : Core → Core) : (modCore d i f).events = d.events := rfl
@[simp] theorem modCore_seqs (d : Dev) (i : Nat) (f : Core → Core) : (modCore d i f).seqs = d.seqs := rfl
@[simp] theorem modCore_tests (d : Dev) (i : Nat) (f : Core → Core) : (modCore d i f).tests = d.tests := rfl
@[simp] theorem modCore_links (d : Dev) (i : Nat) (f : Core → Core) : (modCore d i f).links = d.links := rfl
@[simp] theorem modCore_cx (d : Dev) (i : Nat) (f : Core → Core) : (modCore d i f).cx = d.cx := rfl
@[simp] theorem modCore_shared (d : Dev) (i : Nat) (f : Core → Core) : (modCore d i f).shared = d.shared := rfl
@[simp] theorem modCore_progress (d : Dev) (i : Nat) (f : Core → Core) : (modCore d i f).progress = d.progress := rfl
@[simp] theorem modCore_acks (d : Dev) (i : Nat) (f : Core → Core) : (modCore d i f).acks = d.acks := rfl
@[simp] theorem modCore_msix (d : Dev) (i : Nat) (f : Core → Core) : (modCore d i f).msix = d.msix := rfl
@[simp] theorem modCore_readOut (d : Dev) (i : Nat) (f : Core → Core) : (modCore d i f).readOut = d.readOut := rfl
@[simp] theorem modCore_reply (d : Dev) (i : Nat) (f : Core → Core) : (modCore d i f).reply = d.reply := rfl
@[simp] theorem modCore_inval (d : Dev) (i : Nat) (f : Core → Core) : (modCore d i f).inval = d.inval := rfl

/-! A watchdog -/

@[simp] theorem stepped_cyc (d : Dev) (u : Nat) : (stepped d u).cyc = d.cyc := rfl
@[simp] theorem stepped_fresh (d : Dev) (u : Nat) : (stepped d u).fresh = d.fresh := rfl
@[simp] theorem stepped_reg (d : Dev) (u : Nat) : (stepped d u).reg = d.reg := rfl
@[simp] theorem stepped_pow (d : Dev) (u : Nat) : (stepped d u).pow = d.pow := rfl
@[simp] theorem stepped_mem (d : Dev) (u : Nat) : (stepped d u).mem = d.mem := rfl
@[simp] theorem stepped_host (d : Dev) (u : Nat) : (stepped d u).host = d.host := rfl
@[simp] theorem stepped_bar2 (d : Dev) (u : Nat) : (stepped d u).bar2 = d.bar2 := rfl
@[simp] theorem stepped_peers (d : Dev) (u : Nat) : (stepped d u).peers = d.peers := rfl
@[simp] theorem stepped_peerOcts (d : Dev) (u : Nat) : (stepped d u).peerOcts = d.peerOcts := rfl
@[simp] theorem stepped_accepted (d : Dev) (u : Nat) : (stepped d u).accepted = d.accepted := rfl
@[simp] theorem stepped_llc (d : Dev) (u : Nat) : (stepped d u).llc = d.llc := rfl
@[simp] theorem stepped_victims (d : Dev) (u : Nat) : (stepped d u).victims = d.victims := rfl
@[simp] theorem stepped_rels (d : Dev) (u : Nat) : (stepped d u).rels = d.rels := rfl
@[simp] theorem stepped_net (d : Dev) (u : Nat) : (stepped d u).net = d.net := rfl
@[simp] theorem stepped_parts (d : Dev) (u : Nat) : (stepped d u).parts = d.parts := rfl
@[simp] theorem stepped_cores (d : Dev) (u : Nat) : (stepped d u).cores = d.cores := rfl
@[simp] theorem stepped_groups (d : Dev) (u : Nat) : (stepped d u).groups = d.groups := rfl
@[simp] theorem stepped_teams (d : Dev) (u : Nat) : (stepped d u).teams = d.teams := rfl
@[simp] theorem stepped_clusters (d : Dev) (u : Nat) : (stepped d u).clusters = d.clusters := rfl
@[simp] theorem stepped_grids (d : Dev) (u : Nat) : (stepped d u).grids = d.grids := rfl
@[simp] theorem stepped_draws (d : Dev) (u : Nat) : (stepped d u).draws = d.draws := rfl
@[simp] theorem stepped_tiles (d : Dev) (u : Nat) : (stepped d u).tiles = d.tiles := rfl
@[simp] theorem stepped_dsc (d : Dev) (u : Nat) : (stepped d u).dsc = d.dsc := rfl
@[simp] theorem stepped_ops (d : Dev) (u : Nat) : (stepped d u).ops = d.ops := rfl
@[simp] theorem stepped_reports (d : Dev) (u : Nat) : (stepped d u).reports = d.reports := rfl
@[simp] theorem stepped_tlb (d : Dev) (u : Nat) : (stepped d u).tlb = d.tlb := rfl
@[simp] theorem stepped_copies (d : Dev) (u : Nat) : (stepped d u).copies = d.copies := rfl
@[simp] theorem stepped_events (d : Dev) (u : Nat) : (stepped d u).events = d.events := rfl
@[simp] theorem stepped_seqs (d : Dev) (u : Nat) : (stepped d u).seqs = d.seqs := rfl
@[simp] theorem stepped_tests (d : Dev) (u : Nat) : (stepped d u).tests = d.tests := rfl
@[simp] theorem stepped_links (d : Dev) (u : Nat) : (stepped d u).links = d.links := rfl
@[simp] theorem stepped_cx (d : Dev) (u : Nat) : (stepped d u).cx = d.cx := rfl
@[simp] theorem stepped_shared (d : Dev) (u : Nat) : (stepped d u).shared = d.shared := rfl
@[simp] theorem stepped_acks (d : Dev) (u : Nat) : (stepped d u).acks = d.acks := rfl
@[simp] theorem stepped_msix (d : Dev) (u : Nat) : (stepped d u).msix = d.msix := rfl
@[simp] theorem stepped_readOut (d : Dev) (u : Nat) : (stepped d u).readOut = d.readOut := rfl
@[simp] theorem stepped_reply (d : Dev) (u : Nat) : (stepped d u).reply = d.reply := rfl
@[simp] theorem stepped_inval (d : Dev) (u : Nat) : (stepped d u).inval = d.inval := rfl

/-! An event at an arbiter -/

@[simp] theorem postEvent_cyc (d : Dev) (q : Nat) (e : Event) : (postEvent d q e).cyc = d.cyc := rfl
@[simp] theorem postEvent_fresh (d : Dev) (q : Nat) (e : Event) : (postEvent d q e).fresh = d.fresh := rfl
@[simp] theorem postEvent_reg (d : Dev) (q : Nat) (e : Event) : (postEvent d q e).reg = d.reg := rfl
@[simp] theorem postEvent_pow (d : Dev) (q : Nat) (e : Event) : (postEvent d q e).pow = d.pow := rfl
@[simp] theorem postEvent_mem (d : Dev) (q : Nat) (e : Event) : (postEvent d q e).mem = d.mem := rfl
@[simp] theorem postEvent_host (d : Dev) (q : Nat) (e : Event) : (postEvent d q e).host = d.host := rfl
@[simp] theorem postEvent_bar2 (d : Dev) (q : Nat) (e : Event) : (postEvent d q e).bar2 = d.bar2 := rfl
@[simp] theorem postEvent_peers (d : Dev) (q : Nat) (e : Event) : (postEvent d q e).peers = d.peers := rfl
@[simp] theorem postEvent_peerOcts (d : Dev) (q : Nat) (e : Event) : (postEvent d q e).peerOcts = d.peerOcts := rfl
@[simp] theorem postEvent_accepted (d : Dev) (q : Nat) (e : Event) : (postEvent d q e).accepted = d.accepted := rfl
@[simp] theorem postEvent_llc (d : Dev) (q : Nat) (e : Event) : (postEvent d q e).llc = d.llc := rfl
@[simp] theorem postEvent_victims (d : Dev) (q : Nat) (e : Event) : (postEvent d q e).victims = d.victims := rfl
@[simp] theorem postEvent_rels (d : Dev) (q : Nat) (e : Event) : (postEvent d q e).rels = d.rels := rfl
@[simp] theorem postEvent_net (d : Dev) (q : Nat) (e : Event) : (postEvent d q e).net = d.net := rfl
@[simp] theorem postEvent_parts (d : Dev) (q : Nat) (e : Event) : (postEvent d q e).parts = d.parts := rfl
@[simp] theorem postEvent_cores (d : Dev) (q : Nat) (e : Event) : (postEvent d q e).cores = d.cores := rfl
@[simp] theorem postEvent_groups (d : Dev) (q : Nat) (e : Event) : (postEvent d q e).groups = d.groups := rfl
@[simp] theorem postEvent_teams (d : Dev) (q : Nat) (e : Event) : (postEvent d q e).teams = d.teams := rfl
@[simp] theorem postEvent_clusters (d : Dev) (q : Nat) (e : Event) : (postEvent d q e).clusters = d.clusters := rfl
@[simp] theorem postEvent_grids (d : Dev) (q : Nat) (e : Event) : (postEvent d q e).grids = d.grids := rfl
@[simp] theorem postEvent_draws (d : Dev) (q : Nat) (e : Event) : (postEvent d q e).draws = d.draws := rfl
@[simp] theorem postEvent_tiles (d : Dev) (q : Nat) (e : Event) : (postEvent d q e).tiles = d.tiles := rfl
@[simp] theorem postEvent_dsc (d : Dev) (q : Nat) (e : Event) : (postEvent d q e).dsc = d.dsc := rfl
@[simp] theorem postEvent_ops (d : Dev) (q : Nat) (e : Event) : (postEvent d q e).ops = d.ops := rfl
@[simp] theorem postEvent_reports (d : Dev) (q : Nat) (e : Event) : (postEvent d q e).reports = d.reports := rfl
@[simp] theorem postEvent_tlb (d : Dev) (q : Nat) (e : Event) : (postEvent d q e).tlb = d.tlb := rfl
@[simp] theorem postEvent_copies (d : Dev) (q : Nat) (e : Event) : (postEvent d q e).copies = d.copies := rfl
@[simp] theorem postEvent_seqs (d : Dev) (q : Nat) (e : Event) : (postEvent d q e).seqs = d.seqs := rfl
@[simp] theorem postEvent_tests (d : Dev) (q : Nat) (e : Event) : (postEvent d q e).tests = d.tests := rfl
@[simp] theorem postEvent_links (d : Dev) (q : Nat) (e : Event) : (postEvent d q e).links = d.links := rfl
@[simp] theorem postEvent_cx (d : Dev) (q : Nat) (e : Event) : (postEvent d q e).cx = d.cx := rfl
@[simp] theorem postEvent_shared (d : Dev) (q : Nat) (e : Event) : (postEvent d q e).shared = d.shared := rfl
@[simp] theorem postEvent_progress (d : Dev) (q : Nat) (e : Event) : (postEvent d q e).progress = d.progress := rfl
@[simp] theorem postEvent_acks (d : Dev) (q : Nat) (e : Event) : (postEvent d q e).acks = d.acks := rfl
@[simp] theorem postEvent_msix (d : Dev) (q : Nat) (e : Event) : (postEvent d q e).msix = d.msix := rfl
@[simp] theorem postEvent_readOut (d : Dev) (q : Nat) (e : Event) : (postEvent d q e).readOut = d.readOut := rfl
@[simp] theorem postEvent_reply (d : Dev) (q : Nat) (e : Event) : (postEvent d q e).reply = d.reply := rfl
@[simp] theorem postEvent_inval (d : Dev) (q : Nat) (e : Event) : (postEvent d q e).inval = d.inval := rfl

/-! A halting cause -/

@[simp] theorem raiseHalt_cyc (d : Dev) (p u c : Nat) (x : DWord) : (raiseHalt d p u c x).cyc = d.cyc := rfl
@[simp] theorem raiseHalt_fresh (d : Dev) (p u c : Nat) (x : DWord) : (raiseHalt d p u c x).fresh = d.fresh := rfl
@[simp] theorem raiseHalt_reg (d : Dev) (p u c : Nat) (x : DWord) : (raiseHalt d p u c x).reg = d.reg := rfl
@[simp] theorem raiseHalt_pow (d : Dev) (p u c : Nat) (x : DWord) : (raiseHalt d p u c x).pow = d.pow := rfl
@[simp] theorem raiseHalt_mem (d : Dev) (p u c : Nat) (x : DWord) : (raiseHalt d p u c x).mem = d.mem := rfl
@[simp] theorem raiseHalt_host (d : Dev) (p u c : Nat) (x : DWord) : (raiseHalt d p u c x).host = d.host := rfl
@[simp] theorem raiseHalt_bar2 (d : Dev) (p u c : Nat) (x : DWord) : (raiseHalt d p u c x).bar2 = d.bar2 := rfl
@[simp] theorem raiseHalt_peers (d : Dev) (p u c : Nat) (x : DWord) : (raiseHalt d p u c x).peers = d.peers := rfl
@[simp] theorem raiseHalt_peerOcts (d : Dev) (p u c : Nat) (x : DWord) : (raiseHalt d p u c x).peerOcts = d.peerOcts := rfl
@[simp] theorem raiseHalt_accepted (d : Dev) (p u c : Nat) (x : DWord) : (raiseHalt d p u c x).accepted = d.accepted := rfl
@[simp] theorem raiseHalt_llc (d : Dev) (p u c : Nat) (x : DWord) : (raiseHalt d p u c x).llc = d.llc := rfl
@[simp] theorem raiseHalt_victims (d : Dev) (p u c : Nat) (x : DWord) : (raiseHalt d p u c x).victims = d.victims := rfl
@[simp] theorem raiseHalt_rels (d : Dev) (p u c : Nat) (x : DWord) : (raiseHalt d p u c x).rels = d.rels := rfl
@[simp] theorem raiseHalt_net (d : Dev) (p u c : Nat) (x : DWord) : (raiseHalt d p u c x).net = d.net := rfl
@[simp] theorem raiseHalt_parts (d : Dev) (p u c : Nat) (x : DWord) : (raiseHalt d p u c x).parts = d.parts := rfl
@[simp] theorem raiseHalt_cores (d : Dev) (p u c : Nat) (x : DWord) : (raiseHalt d p u c x).cores = d.cores := rfl
@[simp] theorem raiseHalt_groups (d : Dev) (p u c : Nat) (x : DWord) : (raiseHalt d p u c x).groups = d.groups := rfl
@[simp] theorem raiseHalt_teams (d : Dev) (p u c : Nat) (x : DWord) : (raiseHalt d p u c x).teams = d.teams := rfl
@[simp] theorem raiseHalt_clusters (d : Dev) (p u c : Nat) (x : DWord) : (raiseHalt d p u c x).clusters = d.clusters := rfl
@[simp] theorem raiseHalt_grids (d : Dev) (p u c : Nat) (x : DWord) : (raiseHalt d p u c x).grids = d.grids := rfl
@[simp] theorem raiseHalt_draws (d : Dev) (p u c : Nat) (x : DWord) : (raiseHalt d p u c x).draws = d.draws := rfl
@[simp] theorem raiseHalt_tiles (d : Dev) (p u c : Nat) (x : DWord) : (raiseHalt d p u c x).tiles = d.tiles := rfl
@[simp] theorem raiseHalt_dsc (d : Dev) (p u c : Nat) (x : DWord) : (raiseHalt d p u c x).dsc = d.dsc := rfl
@[simp] theorem raiseHalt_ops (d : Dev) (p u c : Nat) (x : DWord) : (raiseHalt d p u c x).ops = d.ops := rfl
@[simp] theorem raiseHalt_reports (d : Dev) (p u c : Nat) (x : DWord) : (raiseHalt d p u c x).reports = d.reports := rfl
@[simp] theorem raiseHalt_tlb (d : Dev) (p u c : Nat) (x : DWord) : (raiseHalt d p u c x).tlb = d.tlb := rfl
@[simp] theorem raiseHalt_copies (d : Dev) (p u c : Nat) (x : DWord) : (raiseHalt d p u c x).copies = d.copies := rfl
@[simp] theorem raiseHalt_seqs (d : Dev) (p u c : Nat) (x : DWord) : (raiseHalt d p u c x).seqs = d.seqs := rfl
@[simp] theorem raiseHalt_tests (d : Dev) (p u c : Nat) (x : DWord) : (raiseHalt d p u c x).tests = d.tests := rfl
@[simp] theorem raiseHalt_links (d : Dev) (p u c : Nat) (x : DWord) : (raiseHalt d p u c x).links = d.links := rfl
@[simp] theorem raiseHalt_cx (d : Dev) (p u c : Nat) (x : DWord) : (raiseHalt d p u c x).cx = d.cx := rfl
@[simp] theorem raiseHalt_shared (d : Dev) (p u c : Nat) (x : DWord) : (raiseHalt d p u c x).shared = d.shared := rfl
@[simp] theorem raiseHalt_progress (d : Dev) (p u c : Nat) (x : DWord) : (raiseHalt d p u c x).progress = d.progress := rfl
@[simp] theorem raiseHalt_acks (d : Dev) (p u c : Nat) (x : DWord) : (raiseHalt d p u c x).acks = d.acks := rfl
@[simp] theorem raiseHalt_msix (d : Dev) (p u c : Nat) (x : DWord) : (raiseHalt d p u c x).msix = d.msix := rfl
@[simp] theorem raiseHalt_readOut (d : Dev) (p u c : Nat) (x : DWord) : (raiseHalt d p u c x).readOut = d.readOut := rfl
@[simp] theorem raiseHalt_reply (d : Dev) (p u c : Nat) (x : DWord) : (raiseHalt d p u c x).reply = d.reply := rfl
@[simp] theorem raiseHalt_inval (d : Dev) (p u c : Nat) (x : DWord) : (raiseHalt d p u c x).inval = d.inval := rfl

/-! An MSI-X vector -/

@[simp] theorem raiseMsix_cyc (d : Dev) (v : Nat) : (raiseMsix d v).cyc = d.cyc := rfl
@[simp] theorem raiseMsix_fresh (d : Dev) (v : Nat) : (raiseMsix d v).fresh = d.fresh := rfl
@[simp] theorem raiseMsix_reg (d : Dev) (v : Nat) : (raiseMsix d v).reg = d.reg := rfl
@[simp] theorem raiseMsix_pow (d : Dev) (v : Nat) : (raiseMsix d v).pow = d.pow := rfl
@[simp] theorem raiseMsix_mem (d : Dev) (v : Nat) : (raiseMsix d v).mem = d.mem := rfl
@[simp] theorem raiseMsix_host (d : Dev) (v : Nat) : (raiseMsix d v).host = d.host := rfl
@[simp] theorem raiseMsix_bar2 (d : Dev) (v : Nat) : (raiseMsix d v).bar2 = d.bar2 := rfl
@[simp] theorem raiseMsix_peers (d : Dev) (v : Nat) : (raiseMsix d v).peers = d.peers := rfl
@[simp] theorem raiseMsix_peerOcts (d : Dev) (v : Nat) : (raiseMsix d v).peerOcts = d.peerOcts := rfl
@[simp] theorem raiseMsix_accepted (d : Dev) (v : Nat) : (raiseMsix d v).accepted = d.accepted := rfl
@[simp] theorem raiseMsix_llc (d : Dev) (v : Nat) : (raiseMsix d v).llc = d.llc := rfl
@[simp] theorem raiseMsix_victims (d : Dev) (v : Nat) : (raiseMsix d v).victims = d.victims := rfl
@[simp] theorem raiseMsix_rels (d : Dev) (v : Nat) : (raiseMsix d v).rels = d.rels := rfl
@[simp] theorem raiseMsix_net (d : Dev) (v : Nat) : (raiseMsix d v).net = d.net := rfl
@[simp] theorem raiseMsix_parts (d : Dev) (v : Nat) : (raiseMsix d v).parts = d.parts := rfl
@[simp] theorem raiseMsix_cores (d : Dev) (v : Nat) : (raiseMsix d v).cores = d.cores := rfl
@[simp] theorem raiseMsix_groups (d : Dev) (v : Nat) : (raiseMsix d v).groups = d.groups := rfl
@[simp] theorem raiseMsix_teams (d : Dev) (v : Nat) : (raiseMsix d v).teams = d.teams := rfl
@[simp] theorem raiseMsix_clusters (d : Dev) (v : Nat) : (raiseMsix d v).clusters = d.clusters := rfl
@[simp] theorem raiseMsix_grids (d : Dev) (v : Nat) : (raiseMsix d v).grids = d.grids := rfl
@[simp] theorem raiseMsix_draws (d : Dev) (v : Nat) : (raiseMsix d v).draws = d.draws := rfl
@[simp] theorem raiseMsix_tiles (d : Dev) (v : Nat) : (raiseMsix d v).tiles = d.tiles := rfl
@[simp] theorem raiseMsix_dsc (d : Dev) (v : Nat) : (raiseMsix d v).dsc = d.dsc := rfl
@[simp] theorem raiseMsix_ops (d : Dev) (v : Nat) : (raiseMsix d v).ops = d.ops := rfl
@[simp] theorem raiseMsix_reports (d : Dev) (v : Nat) : (raiseMsix d v).reports = d.reports := rfl
@[simp] theorem raiseMsix_tlb (d : Dev) (v : Nat) : (raiseMsix d v).tlb = d.tlb := rfl
@[simp] theorem raiseMsix_copies (d : Dev) (v : Nat) : (raiseMsix d v).copies = d.copies := rfl
@[simp] theorem raiseMsix_events (d : Dev) (v : Nat) : (raiseMsix d v).events = d.events := rfl
@[simp] theorem raiseMsix_seqs (d : Dev) (v : Nat) : (raiseMsix d v).seqs = d.seqs := rfl
@[simp] theorem raiseMsix_tests (d : Dev) (v : Nat) : (raiseMsix d v).tests = d.tests := rfl
@[simp] theorem raiseMsix_links (d : Dev) (v : Nat) : (raiseMsix d v).links = d.links := rfl
@[simp] theorem raiseMsix_cx (d : Dev) (v : Nat) : (raiseMsix d v).cx = d.cx := rfl
@[simp] theorem raiseMsix_shared (d : Dev) (v : Nat) : (raiseMsix d v).shared = d.shared := rfl
@[simp] theorem raiseMsix_progress (d : Dev) (v : Nat) : (raiseMsix d v).progress = d.progress := rfl
@[simp] theorem raiseMsix_acks (d : Dev) (v : Nat) : (raiseMsix d v).acks = d.acks := rfl
@[simp] theorem raiseMsix_readOut (d : Dev) (v : Nat) : (raiseMsix d v).readOut = d.readOut := rfl
@[simp] theorem raiseMsix_reply (d : Dev) (v : Nat) : (raiseMsix d v).reply = d.reply := rfl
@[simp] theorem raiseMsix_inval (d : Dev) (v : Nat) : (raiseMsix d v).inval = d.inval := rfl

/-! A register of the management block -/

@[simp] theorem regSet_cyc (d : Dev) (o : Nat) (x : DWord) : (regSet d o x).cyc = d.cyc := rfl
@[simp] theorem regSet_fresh (d : Dev) (o : Nat) (x : DWord) : (regSet d o x).fresh = d.fresh := rfl
@[simp] theorem regSet_pow (d : Dev) (o : Nat) (x : DWord) : (regSet d o x).pow = d.pow := rfl
@[simp] theorem regSet_mem (d : Dev) (o : Nat) (x : DWord) : (regSet d o x).mem = d.mem := rfl
@[simp] theorem regSet_host (d : Dev) (o : Nat) (x : DWord) : (regSet d o x).host = d.host := rfl
@[simp] theorem regSet_bar2 (d : Dev) (o : Nat) (x : DWord) : (regSet d o x).bar2 = d.bar2 := rfl
@[simp] theorem regSet_peers (d : Dev) (o : Nat) (x : DWord) : (regSet d o x).peers = d.peers := rfl
@[simp] theorem regSet_peerOcts (d : Dev) (o : Nat) (x : DWord) : (regSet d o x).peerOcts = d.peerOcts := rfl
@[simp] theorem regSet_accepted (d : Dev) (o : Nat) (x : DWord) : (regSet d o x).accepted = d.accepted := rfl
@[simp] theorem regSet_llc (d : Dev) (o : Nat) (x : DWord) : (regSet d o x).llc = d.llc := rfl
@[simp] theorem regSet_victims (d : Dev) (o : Nat) (x : DWord) : (regSet d o x).victims = d.victims := rfl
@[simp] theorem regSet_rels (d : Dev) (o : Nat) (x : DWord) : (regSet d o x).rels = d.rels := rfl
@[simp] theorem regSet_net (d : Dev) (o : Nat) (x : DWord) : (regSet d o x).net = d.net := rfl
@[simp] theorem regSet_parts (d : Dev) (o : Nat) (x : DWord) : (regSet d o x).parts = d.parts := rfl
@[simp] theorem regSet_cores (d : Dev) (o : Nat) (x : DWord) : (regSet d o x).cores = d.cores := rfl
@[simp] theorem regSet_groups (d : Dev) (o : Nat) (x : DWord) : (regSet d o x).groups = d.groups := rfl
@[simp] theorem regSet_teams (d : Dev) (o : Nat) (x : DWord) : (regSet d o x).teams = d.teams := rfl
@[simp] theorem regSet_clusters (d : Dev) (o : Nat) (x : DWord) : (regSet d o x).clusters = d.clusters := rfl
@[simp] theorem regSet_grids (d : Dev) (o : Nat) (x : DWord) : (regSet d o x).grids = d.grids := rfl
@[simp] theorem regSet_draws (d : Dev) (o : Nat) (x : DWord) : (regSet d o x).draws = d.draws := rfl
@[simp] theorem regSet_tiles (d : Dev) (o : Nat) (x : DWord) : (regSet d o x).tiles = d.tiles := rfl
@[simp] theorem regSet_dsc (d : Dev) (o : Nat) (x : DWord) : (regSet d o x).dsc = d.dsc := rfl
@[simp] theorem regSet_ops (d : Dev) (o : Nat) (x : DWord) : (regSet d o x).ops = d.ops := rfl
@[simp] theorem regSet_reports (d : Dev) (o : Nat) (x : DWord) : (regSet d o x).reports = d.reports := rfl
@[simp] theorem regSet_tlb (d : Dev) (o : Nat) (x : DWord) : (regSet d o x).tlb = d.tlb := rfl
@[simp] theorem regSet_copies (d : Dev) (o : Nat) (x : DWord) : (regSet d o x).copies = d.copies := rfl
@[simp] theorem regSet_events (d : Dev) (o : Nat) (x : DWord) : (regSet d o x).events = d.events := rfl
@[simp] theorem regSet_seqs (d : Dev) (o : Nat) (x : DWord) : (regSet d o x).seqs = d.seqs := rfl
@[simp] theorem regSet_tests (d : Dev) (o : Nat) (x : DWord) : (regSet d o x).tests = d.tests := rfl
@[simp] theorem regSet_links (d : Dev) (o : Nat) (x : DWord) : (regSet d o x).links = d.links := rfl
@[simp] theorem regSet_cx (d : Dev) (o : Nat) (x : DWord) : (regSet d o x).cx = d.cx := rfl
@[simp] theorem regSet_shared (d : Dev) (o : Nat) (x : DWord) : (regSet d o x).shared = d.shared := rfl
@[simp] theorem regSet_progress (d : Dev) (o : Nat) (x : DWord) : (regSet d o x).progress = d.progress := rfl
@[simp] theorem regSet_acks (d : Dev) (o : Nat) (x : DWord) : (regSet d o x).acks = d.acks := rfl
@[simp] theorem regSet_msix (d : Dev) (o : Nat) (x : DWord) : (regSet d o x).msix = d.msix := rfl
@[simp] theorem regSet_readOut (d : Dev) (o : Nat) (x : DWord) : (regSet d o x).readOut = d.readOut := rfl
@[simp] theorem regSet_reply (d : Dev) (o : Nat) (x : DWord) : (regSet d o x).reply = d.reply := rfl
@[simp] theorem regSet_inval (d : Dev) (o : Nat) (x : DWord) : (regSet d o x).inval = d.inval := rfl

/-! A field of a register of the management block -/

@[simp] theorem regPut_cyc (d : Dev) (o a n v : Nat) : (regPut d o a n v).cyc = d.cyc := rfl
@[simp] theorem regPut_fresh (d : Dev) (o a n v : Nat) : (regPut d o a n v).fresh = d.fresh := rfl
@[simp] theorem regPut_pow (d : Dev) (o a n v : Nat) : (regPut d o a n v).pow = d.pow := rfl
@[simp] theorem regPut_mem (d : Dev) (o a n v : Nat) : (regPut d o a n v).mem = d.mem := rfl
@[simp] theorem regPut_host (d : Dev) (o a n v : Nat) : (regPut d o a n v).host = d.host := rfl
@[simp] theorem regPut_bar2 (d : Dev) (o a n v : Nat) : (regPut d o a n v).bar2 = d.bar2 := rfl
@[simp] theorem regPut_peers (d : Dev) (o a n v : Nat) : (regPut d o a n v).peers = d.peers := rfl
@[simp] theorem regPut_peerOcts (d : Dev) (o a n v : Nat) : (regPut d o a n v).peerOcts = d.peerOcts := rfl
@[simp] theorem regPut_accepted (d : Dev) (o a n v : Nat) : (regPut d o a n v).accepted = d.accepted := rfl
@[simp] theorem regPut_llc (d : Dev) (o a n v : Nat) : (regPut d o a n v).llc = d.llc := rfl
@[simp] theorem regPut_victims (d : Dev) (o a n v : Nat) : (regPut d o a n v).victims = d.victims := rfl
@[simp] theorem regPut_rels (d : Dev) (o a n v : Nat) : (regPut d o a n v).rels = d.rels := rfl
@[simp] theorem regPut_net (d : Dev) (o a n v : Nat) : (regPut d o a n v).net = d.net := rfl
@[simp] theorem regPut_parts (d : Dev) (o a n v : Nat) : (regPut d o a n v).parts = d.parts := rfl
@[simp] theorem regPut_cores (d : Dev) (o a n v : Nat) : (regPut d o a n v).cores = d.cores := rfl
@[simp] theorem regPut_groups (d : Dev) (o a n v : Nat) : (regPut d o a n v).groups = d.groups := rfl
@[simp] theorem regPut_teams (d : Dev) (o a n v : Nat) : (regPut d o a n v).teams = d.teams := rfl
@[simp] theorem regPut_clusters (d : Dev) (o a n v : Nat) : (regPut d o a n v).clusters = d.clusters := rfl
@[simp] theorem regPut_grids (d : Dev) (o a n v : Nat) : (regPut d o a n v).grids = d.grids := rfl
@[simp] theorem regPut_draws (d : Dev) (o a n v : Nat) : (regPut d o a n v).draws = d.draws := rfl
@[simp] theorem regPut_tiles (d : Dev) (o a n v : Nat) : (regPut d o a n v).tiles = d.tiles := rfl
@[simp] theorem regPut_dsc (d : Dev) (o a n v : Nat) : (regPut d o a n v).dsc = d.dsc := rfl
@[simp] theorem regPut_ops (d : Dev) (o a n v : Nat) : (regPut d o a n v).ops = d.ops := rfl
@[simp] theorem regPut_reports (d : Dev) (o a n v : Nat) : (regPut d o a n v).reports = d.reports := rfl
@[simp] theorem regPut_tlb (d : Dev) (o a n v : Nat) : (regPut d o a n v).tlb = d.tlb := rfl
@[simp] theorem regPut_copies (d : Dev) (o a n v : Nat) : (regPut d o a n v).copies = d.copies := rfl
@[simp] theorem regPut_events (d : Dev) (o a n v : Nat) : (regPut d o a n v).events = d.events := rfl
@[simp] theorem regPut_seqs (d : Dev) (o a n v : Nat) : (regPut d o a n v).seqs = d.seqs := rfl
@[simp] theorem regPut_tests (d : Dev) (o a n v : Nat) : (regPut d o a n v).tests = d.tests := rfl
@[simp] theorem regPut_links (d : Dev) (o a n v : Nat) : (regPut d o a n v).links = d.links := rfl
@[simp] theorem regPut_cx (d : Dev) (o a n v : Nat) : (regPut d o a n v).cx = d.cx := rfl
@[simp] theorem regPut_shared (d : Dev) (o a n v : Nat) : (regPut d o a n v).shared = d.shared := rfl
@[simp] theorem regPut_progress (d : Dev) (o a n v : Nat) : (regPut d o a n v).progress = d.progress := rfl
@[simp] theorem regPut_acks (d : Dev) (o a n v : Nat) : (regPut d o a n v).acks = d.acks := rfl
@[simp] theorem regPut_msix (d : Dev) (o a n v : Nat) : (regPut d o a n v).msix = d.msix := rfl
@[simp] theorem regPut_readOut (d : Dev) (o a n v : Nat) : (regPut d o a n v).readOut = d.readOut := rfl
@[simp] theorem regPut_reply (d : Dev) (o a n v : Nat) : (regPut d o a n v).reply = d.reply := rfl
@[simp] theorem regPut_inval (d : Dev) (o a n v : Nat) : (regPut d o a n v).inval = d.inval := rfl

end Sys2Proof.Machine
end

