-- ==== Sys2Proof/Laws/Results.lean ====
section
/-! SUPPORT. What a word's result leaves in the registers and the latches: one statement for each of the shared forms, which
the instructions' own statements cite. -/

namespace Sys2Proof.Machine

/-! ## Lanes -/

theorem mbit_high (m : Mask) {l : Nat} (h : 64 ≤ l) : mbit m l = false := by
  unfold mbit
  exact BitVec.getLsbD_of_ge m l h

theorem mem_lanesOf (m : Mask) (l : Nat) : l ∈ lanesOf m ↔ mbit m l = true := by
  unfold lanesOf
  rw [List.mem_filter, List.mem_range]
  constructor
  · exact fun h => h.2
  · intro h
    refine ⟨?_, h⟩
    by_cases hl : l < 64
    · exact hl
    · rw [mbit_high m (by omega)] at h
      exact absurd h (by decide)

theorem lanesOf_contains (m : Mask) (l : Nat) : (lanesOf m).contains l = mbit m l := by
  rw [Bool.eq_iff_iff, List.contains_iff_mem]
  exact mem_lanesOf m l

/-! ## Uniform registers and masks -/

theorem readS_writeS (g : Group) (n m : Nat) (x : DWord) : readS (writeS g n x) m = if m = n then x else readS g m :=
  tgetD_tputD g.s n m x 0#64

theorem readK_writeK (g : Group) (n m : Nat) (x : Mask) :
    readK (writeK g n x) m = if m = n ∧ m ≠ 0 then x &&& maskN g.width else readK g m := by
  unfold readK writeK
  by_cases hn : n = 0
  · subst hn
    by_cases hm : m = 0 <;> simp [hm]
  · by_cases hm : m = 0
    · subst hm; simp [hn]
    · simp only [hn, hm, if_false, ne_eq, not_false_eq_true, and_true]
      exact tgetD_tputD g.k n m (x &&& maskN g.width) 0#64

/-! ## The register pool -/

theorem poolAt_writeV (g : Group) (n l a i : Nat) (x : Word) (hl : l < 64) (hi : i < 64) :
    poolAt (writeV g n l x) a i = if a = winReg g n ∧ i = l then x else poolAt g a i := by
  unfold poolAt writeV
  show tgetD (tputD g.v (vKey g n l) x 0#32) (a * 64 + i) 0#32 = _
  rw [tgetD_tputD]
  unfold vKey winReg
  by_cases h : a = (g.wb + n) % g.pool ∧ i = l
  · rw [if_pos h, if_pos (by rw [h.1, h.2])]
  · rw [if_neg h, if_neg]
    intro e
    apply h
    generalize (g.wb + n) % g.pool = b at *
    constructor <;> omega

@[simp] theorem winReg_writeV (g : Group) (n l m : Nat) (x : Word) : winReg (writeV g n l x) m = winReg g m := rfl

theorem poolAt_writeLane (g : Group) (wide : Bool) (n l a i : Nat) (x : DWord) (hl : l < 64) (hi : i < 64) :
    poolAt (writeLane g wide n l x) a i =
      if i = l then
        (if wide = true ∧ a = winReg g (n + 1) then x.extractLsb' 32 32
         else if a = winReg g n then x.setWidth 32 else poolAt g a i)
      else poolAt g a i := by
  unfold writeLane
  cases wide
  · simp only [Bool.false_eq_true, if_false, false_and]
    rw [poolAt_writeV g n l a i _ hl hi]
    by_cases h1 : i = l <;> by_cases h2 : a = winReg g n <;> simp [h1, h2]
  · simp only [if_true, true_and]
    unfold writePair
    rw [poolAt_writeV _ _ _ _ _ _ hl hi, poolAt_writeV _ _ _ _ _ _ hl hi]
    by_cases h1 : i = l <;> by_cases h2 : a = winReg g (n + 1) <;> by_cases h3 : a = winReg g n <;> simp [h1, h2, h3]

theorem writeLane_frame (g : Group) (wide : Bool) (n l : Nat) (x : DWord) :
    writeLane g wide n l x = { g with v := (writeLane g wide n l x).v } := by
  unfold writeLane
  cases wide <;> rfl

theorem winReg_writeLane (g : Group) (wide : Bool) (n l m : Nat) (x : DWord) : winReg (writeLane g wide n l x) m = winReg g m := by
  unfold writeLane
  cases wide <;> rfl

theorem writeLanes_frame (ls : List Nat) (g : Group) (wide : Bool) (n : Nat) (f : Nat → DWord) :
    writeLanes g wide n f ls = { g with v := (writeLanes g wide n f ls).v } := by
  induction ls generalizing g with
  | nil => rfl
  | cons l t ih =>
    show writeLanes (writeLane g wide n l (f l)) wide n f t = { g with v := (writeLanes (writeLane g wide n l (f l)) wide n f t).v }
    rw [ih, writeLane_frame]

theorem poolAt_writeLanes (ls : List Nat) (g : Group) (wide : Bool) (n a i : Nat) (f : Nat → DWord) (h : ∀ l ∈ ls, l < 64)
    (hi : i < 64) :
    poolAt (writeLanes g wide n f ls) a i =
      if i ∈ ls then
        (if wide = true ∧ a = winReg g (n + 1) then (f i).extractLsb' 32 32
         else if a = winReg g n then (f i).setWidth 32 else poolAt g a i)
      else poolAt g a i := by
  induction ls generalizing g with
  | nil => simp [writeLanes]
  | cons l t ih =>
    show poolAt (writeLanes (writeLane g wide n l (f l)) wide n f t) a i = _
    rw [ih _ (fun x hx => h x (List.mem_cons_of_mem _ hx)), winReg_writeLane, winReg_writeLane,
      poolAt_writeLane g wide n l a i (f l) (h l (List.mem_cons_self ..)) hi]
    by_cases h1 : i = l
    · subst h1
      by_cases h2 : i ∈ t
      · simp only [h2, if_true, List.mem_cons, true_or]
        split
        · rfl
        · split <;> rfl
      · simp [h2]
    · by_cases h2 : i ∈ t <;> simp [h1, h2]

/-! ## A word's result -/

theorem laneList_getD (c : Packet) (ls : List Nat) (f : Nat → DWord) (l : Nat) (hl : l < c.g0.width) (hm : l ∈ ls) :
    (laneList c ls f).getD l 0#64 = f l := by
  unfold laneList
  simp [List.getD_eq_getElem?_getD, hl, hm]

theorem latchAt_uni (c c' : Packet) (y : DWord) (h : c.slot < c.latches.length)
    (hc : c'.latches = lset c.latches c.slot (.uni y)) (l : Nat) : latchAt c' c.slot l = y := by
  unfold latchAt
  rw [hc, lset_getD_same _ _ _ _ h]

theorem latchAt_lanes (c c' : Packet) (xs : List DWord) (h : c.slot < c.latches.length)
    (hc : c'.latches = lset c.latches c.slot (.lanes xs)) (l : Nat) : latchAt c' c.slot l = xs.getD l 0#64 := by
  unfold latchAt
  rw [hc, lset_getD_same _ _ _ _ h]

theorem writeLanes_s (ls : List Nat) (g : Group) (wide : Bool) (n : Nat) (f : Nat → DWord) :
    (writeLanes g wide n f ls).s = g.s := by
  rw [writeLanes_frame]

theorem writeLanes_group (ls : List Nat) (g g' : Group) (wide : Bool) (n : Nat) (f : Nat → DWord)
    (h : g' = writeLanes g wide n f ls) : g' = { g with v := g'.v, s := g'.s } := by
  subst h
  rw [writeLanes_s]
  exact writeLanes_frame ls g wide n f

/-- A per-lane result: the one statement of what putResult does. -/
theorem putResult_writes (c : Packet) (d : Operand) (w wide : Bool) (f : Nat → DWord) :
    Writes c (putResult c d w wide f) d w wide (active c) f (f (lf c)) [] := by
  have hlt : ∀ l ∈ lanesOf c.act, l < 64 := fun l hl => by
    unfold lanesOf at hl
    exact List.mem_range.mp (List.mem_filter.mp hl).1
  have hmem : ∀ l, (l ∈ lanesOf c.act) = (active c l = true) := fun l => propext (mem_lanesOf c.act l)
  cases d with
  | v n =>
    cases w
    · refine ⟨by simp [putResult, putLanes, setLatch], ?_, ?_, ?_, ?_, ?_⟩
      · exact writeLanes_group _ _ _ _ _ _ rfl
      · intro m
        show tgetD (writeLanes c.g wide n.val f (lanesOf c.act)).s m 0#64 = readS c.g m
        rw [writeLanes_s]
        rfl
      · intro a l hl
        show poolAt (writeLanes c.g wide n.val f (lanesOf c.act)) a l = _
        rw [poolAt_writeLanes _ _ _ _ _ _ _ hlt hl]
        simp only [vAfter, hmem, true_and]
      · intro hs l hl ha
        rw [latchAt_lanes c _ _ hs rfl]
        simp only [Operand.isS, Bool.false_eq_true, if_false]
        exact laneList_getD c _ _ l hl ((mem_lanesOf c.act l).mpr ha)
      · intro j hj
        exact lset_getD_other _ _ _ hj
    · refine ⟨by simp [putResult, putLanes, setLatch], rfl, fun m => rfl, ?_, ?_, ?_⟩
      · intro a l _
        simp [vAfter]
        rfl
      · intro hs l hl ha
        rw [latchAt_lanes c _ _ hs rfl]
        simp only [Operand.isS, Bool.false_eq_true, if_false]
        exact laneList_getD c _ _ l hl ((mem_lanesOf c.act l).mpr ha)
      · intro j hj
        exact lset_getD_other _ _ _ hj
  | s n =>
    cases w
    · refine ⟨by simp [putResult, putLanes, setLatch], rfl, ?_, fun a l _ => rfl, ?_, ?_⟩
      · intro m
        show readS (writeS c.g n.val (atWidth wide (f (lf c)))) m = _
        rw [readS_writeS]
        simp [sAfter]
      · intro hs l hl ha
        rw [latchAt_uni c _ _ hs rfl]
        simp [Operand.isS]
      · intro j hj
        exact lset_getD_other _ _ _ hj
    · refine ⟨by simp [putResult, putLanes, setLatch], rfl, fun m => by simp [sAfter]; rfl, fun a l _ => rfl, ?_, ?_⟩
      · intro hs l hl ha
        rw [latchAt_uni c _ _ hs rfl]
        simp [Operand.isS]
      · intro j hj
        exact lset_getD_other _ _ _ hj
  | b n | rsv59 | zero | lane | lit | rsv63 =>
    refine ⟨by simp [putResult, putLanes, setLatch], rfl, fun m => rfl, fun a l _ => rfl, ?_, ?_⟩
    · intro hs l hl ha
      rw [latchAt_lanes c _ _ hs rfl]
      simp only [Operand.isS, Bool.false_eq_true, if_false]
      exact laneList_getD c _ _ l hl ((mem_lanesOf c.act l).mpr ha)
    · intro j hj
      exact lset_getD_other _ _ _ hj

/-- A uniform result: the one statement of what putUniform does. -/
theorem putUniform_writes (c : Packet) (d : Operand) (w wide : Bool) (x : DWord) :
    Writes c (putUniform c d w wide x) d w wide (active c) (fun _ => atWidth wide x) x [] := by
  have hlt : ∀ l ∈ lanesOf c.act, l < 64 := fun l hl => by
    unfold lanesOf at hl
    exact List.mem_range.mp (List.mem_filter.mp hl).1
  have hmem : ∀ l, (l ∈ lanesOf c.act) = (active c l = true) := fun l => propext (mem_lanesOf c.act l)
  have hat : ∀ y : DWord, atWidth wide (atWidth wide y) = atWidth wide y := by
    intro y
    cases wide <;> simp [atWidth]
  have hlatch : ∀ c' : Packet, c'.latches = lset c.latches c.slot (.uni (atWidth wide x)) → c.slot < c.latches.length →
      ∀ l, l < c.g0.width → active c l = true →
      latchAt c' c.slot l = atWidth wide (if d.isS = true then x else atWidth wide x) := by
    intro c' hc hs l _ _
    rw [latchAt_uni c c' _ hs hc]
    cases d.isS <;> simp [hat]
  cases w
  · cases d with
    | v n =>
      refine ⟨by simp [putUniform, setLatch], ?_, ?_, ?_, hlatch _ rfl, fun j hj => lset_getD_other _ _ _ hj⟩
      · exact writeLanes_group _ _ _ _ _ _ rfl
      · intro m
        show tgetD (writeLanes c.g wide n.val (fun _ => atWidth wide x) (lanesOf c.act)).s m 0#64 = readS c.g m
        rw [writeLanes_s]
        rfl
      · intro a l hl
        show poolAt (writeLanes c.g wide n.val (fun _ => atWidth wide x) (lanesOf c.act)) a l = _
        rw [poolAt_writeLanes _ _ _ _ _ _ _ hlt hl]
        simp only [vAfter, hmem, true_and]
    | s n =>
      refine ⟨by simp [putUniform, setLatch], rfl, ?_, fun a l _ => rfl, hlatch _ rfl, fun j hj => lset_getD_other _ _ _ hj⟩
      intro m
      show readS (writeS c.g n.val (atWidth wide x)) m = _
      rw [readS_writeS]
      simp [sAfter]
    | b n | rsv59 | zero | lane | lit | rsv63 =>
      exact ⟨by simp [putUniform, setLatch], rfl, fun m => rfl, fun a l _ => rfl, hlatch _ rfl, fun j hj => lset_getD_other _ _ _ hj⟩
  · refine ⟨by simp [putUniform, setLatch], rfl, ?_, ?_, hlatch _ rfl, fun j hj => lset_getD_other _ _ _ hj⟩
    · intro m
      cases d <;> simp [sAfter] <;> rfl
    · intro a l _
      cases d <;> simp [vAfter] <;> rfl

/-- Flags recorded beside a result. -/
theorem Writes.withFlags {c c' : Packet} {d : Operand} {w wide : Bool} {acts : Nat → Bool} {val : Nat → DWord} {u : DWord}
    (h : Writes c c' d w wide acts val u []) (x : BitVec 6) (ls : List Nat) (f : Nat → Flags) :
    Writes c (raiseFlags c' x ls f) d w wide acts val u [(c.slot, x, flagMasks ls f)] := by
  have hp := h.packet
  have hf : c'.flags = c.flags := by rw [hp]; simp
  have hs : c'.slot = c.slot := by rw [hp]
  refine ⟨?_, h.group, h.uniform, h.vector, h.latch, h.latches⟩
  show { c' with flags := c'.flags ++ [(c'.slot, x, flagMasks ls f)] } = _
  rw [hf, hs]
  show _ = { c with g := c'.g, latches := c'.latches, flags := c.flags ++ [(c.slot, x, flagMasks ls f)] }
  conv => lhs; rw [hp]

/-- The value matters only in the lanes that act and where it goes. -/
theorem Writes.congr {c c' : Packet} {d : Operand} {w wide : Bool} {acts : Nat → Bool} {val val' : Nat → DWord} {u u' : DWord}
    {fl : List (Nat × BitVec 6 × List Mask)} (h : Writes c c' d w wide acts val u fl)
    (hv : ∀ l, acts l = true → val l = val' l) (hu : d.isS = true → u = u') : Writes c c' d w wide acts val' u' fl := by
  refine ⟨h.packet, h.group, ?_, ?_, ?_, h.latches⟩
  · intro n
    rw [h.uniform n]
    cases d <;> try rfl
    rw [hu rfl]
  · intro a l hl
    rw [h.vector a l hl]
    cases d <;> try rfl
    unfold vAfter
    by_cases ha : acts l = true
    · rw [hv l ha]
    · simp [ha]
  · intro hs l hl ha
    rw [h.latch hs l hl ha]
    by_cases hd : d.isS = true
    · rw [if_pos hd, if_pos hd, hu hd]
    · rw [if_neg hd, if_neg hd, hv l ha]

/-! ## The shared forms of exec -/

theorem compute_spec (s : State) (h : AHdr) (d : Operand) (wide : Bool) (f : Packet → Nat → DWord) :
    ∃ c' : Packet, compute s h d wide f = .next { s with cur := c' } ∧
      Writes s.cur c' d h.w wide (active s.cur) (f s.cur) (f s.cur (lf s.cur)) [] :=
  ⟨_, rfl, putResult_writes s.cur d h.w wide (f s.cur)⟩

theorem computeU_spec (s : State) (h : AHdr) (d : Operand) (wide : Bool) (f : Packet → DWord) :
    ∃ c' : Packet, computeU s h d wide f = .next { s with cur := c' } ∧
      Writes s.cur c' d h.w wide (active s.cur) (fun _ => atWidth wide (f s.cur)) (f s.cur) [] :=
  ⟨_, rfl, putUniform_writes s.cur d h.w wide (f s.cur)⟩

theorem computeF_spec (s : State) (h : AHdr) (d : Operand) (wide : Bool) (f : Packet → Nat → DWord × Flags) :
    ∃ c' : Packet, computeF s h d wide f = .next { s with cur := c' } ∧
      Writes s.cur c' d h.w wide (active s.cur) (fun l => (f s.cur l).1) (f s.cur (lf s.cur)).1
        [(s.cur.slot, d.code, flagMasks (lanesOf s.cur.act) (fun l => if d.isS then (f s.cur (lf s.cur)).2 else (f s.cur l).2))] := by
  refine ⟨_, rfl, ?_⟩
  have h1 := (putResult_writes s.cur d h.w wide (fun l => (f s.cur l).1)).withFlags d.code (lanesOf s.cur.act)
    (fun l => (if d.isS = true then f s.cur (lf s.cur) else f s.cur l).2)
  have e : (fun l => (if d.isS = true then f s.cur (lf s.cur) else f s.cur l).2) =
      (fun l => if d.isS = true then (f s.cur (lf s.cur)).2 else (f s.cur l).2) := by
    funext l
    split <;> rfl
  rw [e] at h1
  simpa [e] using h1

theorem setMask_spec (s : State) (k : BitVec 3) (f : Packet → Mask) :
    ∃ c' : Packet, setMask s k f = .next { s with cur := c' } ∧ WritesMask s.cur c' k (f s.cur) [] := by
  refine ⟨_, rfl, by simp, ?_, fun n => readK_writeK s.cur.g k.toNat n (f s.cur)⟩
  show writeK s.cur.g k.toNat (f s.cur) = _
  unfold writeK
  split <;> rfl

end Sys2Proof.Machine
end

