-- ==== Sys2Proof/Laws/Words.lean ====
section
/-! SUPPORT. What the shared forms of the memory, ring, barrier and engine words do to the packet: one statement for each. -/

namespace Sys2Proof.Machine

/-- Only what the checks of a word leave behind differs: its faults, its translation faults and the entries it used. -/
def ChecksOnly (c c' : Packet) : Prop := c' = { c with fatal := c'.fatal, xfaults := c'.xfaults, fills := c'.fills }

theorem ChecksOnly.refl (c : Packet) : ChecksOnly c c := rfl

theorem ChecksOnly.trans {a b c : Packet} (h : ChecksOnly a b) (k : ChecksOnly b c) : ChecksOnly a c := by
  unfold ChecksOnly at *
  rw [k, h]

theorem checks_addFatal (c : Packet) (r l : Nat) : ChecksOnly c (addFatal c r l) := rfl
theorem checks_addXf (c : Packet) (l va lvl e : Nat) (acc : AccKind) : ChecksOnly c (addXf c l va lvl e acc) := rfl
theorem checks_fills (c : Packet) (f : List Touch) : ChecksOnly c { c with fills := f } := rfl

theorem checks_stageH (c : Packet) (r : Option Nat) : ChecksOnly c (stageH c r) := by
  cases r <;> rfl

/-- A fold whose every step leaves only checks behind does so itself. -/
theorem checks_fold (f : Build → Nat → Build) (h : ∀ b l, ChecksOnly b.c (f b l).c) (ls : List Nat) (b : Build) :
    ChecksOnly b.c (ls.foldl f b).c := by
  induction ls generalizing b with
  | nil => exact .refl _
  | cons l t ih => exact (h b l).trans (ih (f b l))

theorem checks_loadLane (s : State) (a : Operand) (y : BitVec 2) (n align : Nat) (once : Bool) (b : Build) (l : Nat) :
    ChecksOnly b.c (loadLane s a y n align once b l).c := by
  unfold loadLane
  dsimp only
  split
  · exact .refl _
  · split
    · exact (checks_fills _ _).trans (checks_addFatal _ _ _)
    · exact (checks_fills _ _).trans (checks_addXf ..)
    · exact checks_fills _ _

theorem checks_storeParts (b : Build) (l : Nat) (r : LaneRes) (acc : AccKind) (ps : List (Nat × List (Nat × Byte))) (va : Nat) :
    ChecksOnly b.c (storeParts b l r acc ps va).c := by
  unfold storeParts
  cases r <;> rfl

theorem checks_storeLane (s : State) (d a : Operand) (y : BitVec 2) (n align : Nat) (b : Build) (l : Nat) :
    ChecksOnly b.c (storeLane s d a y n align b l).c := by
  unfold storeLane
  dsimp only
  exact (checks_fills b.c _).trans (checks_storeParts _ _ _ _ _ _)

theorem checks_stmLane (s : State) (d a : Operand) (y : BitVec 2) (b : Build) (l : Nat) :
    ChecksOnly b.c (stmLane s d a y b l).c := by
  unfold stmLane
  dsimp only
  split
  · exact .refl _
  · exact (checks_fills b.c _).trans (checks_storeParts _ _ _ _ _ _)

theorem checks_rmwLane (s : State) (f : RmwForm) (a : Operand) (b : Build) (l : Nat) : ChecksOnly b.c (rmwLane s f a b l).c := by
  unfold rmwLane
  dsimp only
  split
  · exact (checks_fills _ _).trans (checks_addFatal _ _ _)
  · exact (checks_fills _ _).trans (checks_addXf ..)
  · exact checks_fills _ _

theorem checks_prfLane (s : State) (a : Operand) (b : Build) (l : Nat) : ChecksOnly b.c (prfLane s a b l).c := by
  unfold prfLane
  dsimp only
  split
  · split
    · exact .refl _
    · exact .refl _
    · exact checks_fills _ _
  · exact .refl _

/-- A word that hands off an operation: none when its guard is false in every lane (03 R95). -/
theorem handOff_spec (s : State) (i : Instr) (act : Mask) (m : MHdr) (b : Build) (lanes : List LaneIn) :
    ∃ c' : Packet, handOff s i act m b lanes = .next { s with cur := c' } ∧
      c' = { b.c with ops := b.c.ops ++
        (if act = 0#64 then [] else [{ newOp s i act m.o m.p with accs := b.accs, lanes := lanes }]) } := by
  unfold handOff
  split
  · exact ⟨b.c, rfl, by simp⟩
  · exact ⟨_, rfl, rfl⟩

/-- A group-once word: its check of stage H whatever the guard is, and its operation where it acts (16 R459). -/
theorem onceWord_spec (s : State) (i : Instr) (m : MHdr) (r : Option Nat) (f : Op → Op) :
    ∃ c' : Packet, onceWord s i m r f = .next { s with cur := c' } ∧
      c' = { s.cur with
        fatal := (stageH s.cur r).fatal
        ops := s.cur.ops ++ (if acts s.cur m = true then [f (newOp s i s.cur.act m.o m.p)] else []) } := by
  unfold onceWord
  dsimp only
  split
  · rename_i h
    exact ⟨_, rfl, by cases r <;> simp [withOp, stageH, addFatal]⟩
  · rename_i h
    exact ⟨_, rfl, by cases r <;> simp [stageH, addFatal]⟩

/-- A word that acts per lane on AM. -/
theorem amWord_spec (s : State) (i : Instr) (m : MHdr) (nh : Bool) (a : Operand) (data : Packet → Nat → BitVec 128)
    (f : Packet → Packet) :
    ∃ c' : Packet, amWord s i m nh a data f = .next { s with cur := c' } ∧
      c' = (if guardSet s.cur m.k nh = 0#64 then s.cur
        else withOp (f s.cur) { newOp s i (guardSet s.cur m.k nh) m.o m.p with
          lanes := (lanesOf (guardSet s.cur m.k nh)).map (fun l =>
            { lane := l, a := readOp s.cur false a l, d := data s.cur l, run := [] }) }) := by
  unfold amWord
  dsimp only
  split
  · exact ⟨_, rfl, rfl⟩
  · exact ⟨_, rfl, rfl⟩

/-- A block form. -/
theorem blockWord_spec (s : State) (i : Instr) (m : MHdr) (nh : Bool) (a : Operand) (align : Nat)
    (run : Packet → Nat → List Word) (f : Packet → Mask → Packet) :
    ∃ c' : Packet, blockWord s i m nh a align run f = .next { s with cur := c' } ∧
      c' = (let c := stageH s.cur (handleReason (readUni s.cur true a) align)
        if guardSet c m.k nh = 0#64 then c
        else withOp (f c (guardSet c m.k nh)) { newOp s i (guardSet c m.k nh) m.o m.p with
          a := readUni s.cur true a, d := BitVec.ofNat 64 c.g0.gidx
          lanes := (lanesOf (guardSet c m.k nh)).map (fun l => { lane := l, a := 0, d := 0, run := run c l }) }) := by
  unfold blockWord
  dsimp only
  split
  · exact ⟨_, rfl, rfl⟩
  · exact ⟨_, rfl, rfl⟩

/-- A word that is illegal in some states (16 R458). -/
theorem unlessIllegal_spec (s : State) (i : Instr) (f : Packet → Packet) :
    ∃ c' : Packet, unlessIllegal s i f = .next { s with cur := c' } ∧
      c' = (match illegalUse s.cur.g0 i with
        | some r => { s.cur with fatal := s.cur.fatal ++ [{ cause := 2, reason := r, lane := 0, slot := s.cur.slot }] }
        | none => f s.cur) := by
  unfold unlessIllegal
  dsimp only
  cases illegalUse s.cur.g0 i <;> exact ⟨_, rfl, rfl⟩

/-- A control transfer of the lanes of a mask. -/
theorem branch_spec (s : State) (m : Packet → Mask) (t : Packet → Nat → Word) :
    ∃ c' : Packet, branch s m t = .next { s with cur := c' } ∧ c' = { s.cur with nxt := c'.nxt } ∧
      ∀ l, l < s.cur.g0.width → c'.nxt.getD l 0#32 = if mbit (m s.cur) l = true then t s.cur l else s.cur.nxt.getD l 0#32 := by
  refine ⟨_, rfl, rfl, fun l hl => ?_⟩
  simp [jumpLanes, List.getD_eq_getElem?_getD, hl]

end Sys2Proof.Machine
end

