-- ==== Sys2Proof/Tests/Slice0.lean ====
section
/-! SUPPORT. Tests of the model: ill-formed words, words written out from the spec's encodings, worked examples of the spec, and for
the statements with hypotheses a state that meets them. -/

namespace Sys2Proof.Tests

open Sys2Proof Sys2Proof.Machine

set_option Elab.async false

/-! ## Ill-formed words: one for each check (16 R455, R456) -/

def hd : AHdr := { c := false, w := false }
def mh : MHdr := { c := false, k := 0#3, o := 0#2, p := 0#4 }

/-- Reason 0x04: operand codes 59 and 63 (05 R145). -/
theorem test_reserved_operand : wfReasons (.add hd false (.v 1) .rsv59 (.v 2)) = [0x04] ∧ wfReasons (.mov hd false .rsv63 (.v 2)) = [0x04, 0x06] := by decide
/-- Reason 0x06: a latch, a literal or lane as destination (05 R150); an s destination of shfl (06 R187); a v one of lds (07 R229). -/
theorem test_destination : wfReasons (.mov hd false .lane (.v 2)) = [0x06] ∧ wfReasons (.mov hd false .lit (.v 2)) = [0x06] ∧
    wfReasons (.shfl hd false (.s 1) (.v 2) (.v 3)) ≠ [] ∧ 0x06 ∈ wfReasons (.shfl hd false (.s 1) (.v 2) (.v 3)) ∧
    0x06 ∈ wfReasons (.lds mh (.v 1) (.s 2) 0#2 true) := by decide
/-- Reason 0x0B: an odd pair as source or destination (05 R148), a store handle that is no s register (07 R229), and a run that ends
above v39 (08 R269). -/
theorem test_pair : wfReasons (.add hd true (.v 2) (.v 3) (.v 4)) = [0x0B] ∧ wfReasons (.add hd true (.v 3) (.v 2) (.v 4)) = [0x0B] ∧
    wfReasons (.rrel mh (.v 2) 0#6) = [0x0B] ∧ wfReasons (.trace mh (.v 33) (.s 2)) = [0x0B] ∧ wfReasons (.trace mh (.v 32) (.s 2)) = [] ∧
    wfReasons (.cas mh (.v 39) (.v 2) false) = [0x0B] ∧ wfReasons (.cas mh (.v 37) (.v 2) true) = [0x0B] ∧ wfReasons (.stm mh (.v 38) (.v 2) 0#2) = [0x0B] ∧
    wfReasons (.vbt mh (.v 2) (.v 2)) = [0x0B] ∧ wfReasons (.xrndE32 mh .bf (.s 4) (.s 2)) = [] ∧ wfReasons (.xrndE64 mh .d (.s 4) (.s 2)) = [] := by decide
/-- Reason 0x0C: a value per lane where a uniform one is asked for (05 R149). -/
theorem test_uniform : wfReasons (.add hd false (.s 1) (.v 3) (.s 2)) = [0x0C] ∧ wfReasons (.bcast hd false (.v 1) (.v 3) .lane) = [0x0C] ∧
    wfReasons (.tmcmp false (.v 2)) = [0x0C] ∧ wfReasons (.mxd mh (.v 2)) = [0x0C] := by decide
/-- Reason 0x0D: ring, barrier and frame numbers out of range (05 R166, R177); 0x0E: special registers (02 R58, 05 R179). -/
theorem test_numbers : wfReasons (.racq mh (.s 1) 8#6) = [0x0D] ∧ wfReasons (.barr mh 16#6) = [0x0D] ∧ wfReasons (.call false 41#6 0#19) = [0x0D] ∧
    wfReasons (.call false 40#6 0#19) = [] ∧ wfReasons (.rdsr hd (.s 1) 0x12#6) = [0x0E] ∧ wfReasons (.wrsr false 0x07#6 (.s 1)) = [0x0E] := by decide
/-- Reasons 0x02, 0x03 and 0x05: modes, formats and reductions that no form has (05 R173 to R175, 06 R200, R206). -/
theorem test_fields : wfReasons (.fadd hd (.v 1) (.v 2) (.v 3) .s .rna) = [0x03] ∧ wfReasons (.fcmp false 1#3 .eq .h2 (.v 2) (.v 3)) = [0x03] ∧
    wfReasons (.redu hd (.v 1) (.v 2) .and .s .rne) = [0x02] ∧ wfReasons (.redu hd (.v 1) (.v 2) .min .s .rtz) = [0x05] ∧
    wfReasons (.cvt hd (.v 1) (.v 2) .fp32 .fp32 .sr) = [0x03] ∧ wfReasons (.sfFn hd (.v 2) (.v 4) .exp2 .d) = [0x03] ∧
    wfReasons (.ldAcq { mh with k := 7#3 } (.v 1) (.v 2) 0#2 false) = [0x03] := by decide

/-! ## Words written out from the encodings (05 R162 to R178) -/

/-- A word of format A: bits 31, [30:25], W, D, A, B and F (R162). -/
def wordA (op w d a b f : Nat) : Nat := op * 2 ^ 25 + w * 2 ^ 24 + d * 2 ^ 18 + a * 2 ^ 12 + b * 2 ^ 6 + f

/-- Control transfer, traps and special registers: the words of R188, R256 and R261's worked example. -/
theorem test_decode_control : decodeTableWord 32 1 = some (.exit false) ∧ decodeTableWord 32 2 = some (.yield false) ∧
    decodeTableWord 32 3 = some (.ret false) ∧ decodeTableWord 32 0x04C0001E = some (.brm false 3#3 30#21) ∧
    decodeTableWord 32 0x04E0001E = some (.bru false 3#3 30#21) ∧ decodeTableWord 32 0x02BFFFFC = some (.bra false 2#3 0x3FFFFC#22) ∧
    decodeTableWord 32 (wordA 0 0 0 5 0 4) = some (.jmpi false (.v 5)) ∧ decodeTableWord 32 (wordA 5 0 0 0 0 0 + 7 * 2 ^ 19 + 9) = some (.call false 7#6 9#19) ∧
    decodeTableWord 32 0x0002A00E = some (.tmcmp false (.s 2)) ∧ decodeTableWord 32 0x00AC044A = some (.rdsr hd (.s 3) 0x11#6) ∧
    decodeTableWord 32 0x0000AF06 = some (.trap false 700#16) := by decide

/-- A word of format M or E: bits [30:25], D, A, Y, K, O, P and Z (R162). -/
def wordM (op d a y k o p z : Nat) : Nat :=
  op * 2 ^ 25 + d * 2 ^ 19 + a * 2 ^ 13 + y * 2 ^ 11 + k * 2 ^ 8 + o * 2 ^ 6 + p * 2 ^ 2 + z

/-- Integer words of R170 to R172: operand codes are v0 to v39 as 0 to 39, s0 to s15 as 40 to 55, b0 56, zero 60, lane 61, lit 62. -/
theorem test_decode_integer : decodeTableWord 32 (wordA 6 1 4 2 3 1) = some (.sub ⟨false, true⟩ false (.v 4) (.v 2) (.v 3)) ∧
    decodeTableWord 32 (wordA 6 0 44 41 40 (32 + 5)) = some (.addc hd true (.s 4) (.s 1) (.s 0)) ∧
    decodeTableWord 32 (wordA 6 0 4 61 0 19) = some (.clz hd false (.v 4) .lane) ∧
    decodeTableWord 32 (wordA 7 0 4 2 0 0 + 0xFFF) = some (.addi hd (.v 4) (.v 2) 0xFFF#12) ∧
    decodeTableWord 32 (wordA 0x0D 0 4 2 0 0 + 31) = some (.srai hd (.v 4) (.v 2) 31#6) ∧
    decodeTableWord 32 (0x0E * 2 ^ 25 + 4 * 2 ^ 19 + 0x7FFFF) = some (.li false (.v 4) 0x7FFFF#19) ∧
    decodeTableWord 32 (wordA 0x10 0 4 1 2 3) = some (.mad hd (.v 4) (.v 1) (.v 2) (.v 3)) ∧
    decodeTableWord 32 0x241020FE = some (.fshr hd (.v 4) (.v 2) (.v 3) .lit) ∧
    decodeTableWord 32 (wordA 0x16 0 4 1 2 3) = some (.sel hd (.v 4) (.v 1) (.v 2) 3#3) ∧
    decodeTableWord 32 0x2E078F25 = some (.icmp false 1#3 true .ge (.b 0) .zero) := by decide
/-- Float and conversion words of R173 and R174. -/
theorem test_decode_float : decodeTableWord 32 (wordA 0x18 0 4 1 2 (32 + 8 + 3)) = some (.fsub hd (.v 4) (.v 1) (.v 2) .d .rdn) ∧
    decodeTableWord 32 (wordA 0x19 0 4 1 2 (24 + 1)) = some (.fmul hd (.v 4) (.v 1) (.v 2) .b2 .rtz) ∧
    decodeTableWord 32 (wordA 0x1C 0 4 1 2 3) = some (.ffmaH2 hd (.v 4) (.v 1) (.v 2) (.v 3)) ∧
    decodeTableWord 32 (wordA 0x1F 0 4 1 2 (4 + 0)) = some (.frnd hd (.v 4) (.v 1) .s .rup) ∧
    decodeTableWord 32 (wordA 0x20 0 4 1 2 4) = some (.fmax hd (.v 4) (.v 1) (.v 2) .s) ∧
    decodeTableWord 32 (wordA 0x21 0 3 1 2 (7 * 4)) = some (.fcmp false 3#3 .ord .s (.v 1) (.v 2)) ∧
    decodeTableWord 32 (wordA 0x22 0 4 1 2 (5 * 8 + 5)) = some (.cvt hd (.v 4) (.v 1) .e4m3 .fp16 .sr) ∧
    decodeTableWord 32 (wordA 0x23 0 4 1 0 (6 * 8 + 4)) = some (.cvti hd (.v 4) (.v 1) .n32 .fp32 .rna) ∧
    decodeTableWord 32 (wordA 0x23 0 4 1 (8 + 2) 8) = some (.cvtf hd (.v 4) (.v 1) .fp64 .i32 .rne) ∧
    decodeTableWord 32 (wordA 0x24 0 4 1 2 (2 * 8)) = some (.cvtsr hd (.v 4) (.v 1) (.v 2) .fp16 .fp32) ∧
    decodeTableWord 32 0x4A181000 = some (.mxpk hd (.v 6) (.v 1) .e4m3 .rne) ∧ decodeTableWord 32 0x4A1C6020 = some (.mxup hd (.v 7) (.v 6) .e4m3) ∧
    decodeTableWord 32 (wordA 0x26 0 4 1 0 (9 * 4 + 2)) = some (.sfFn hd (.v 4) (.v 1) .erf .h2) := by decide
/-- Cross-lane, mask, raster and draw words of R175. -/
theorem test_decode_cross : decodeTableWord 32 0x500C1084 = some (.push hd false (.v 3) (.v 1) (.v 2)) ∧
    decodeTableWord 32 (wordA 0x28 0 4 5 0 6) = some (.kfirst hd (.v 4) 5#3) ∧
    decodeTableWord 32 (wordA 0x29 0 42 1 3 (0 * 8 + 4)) = some (.redu hd (.s 2) (.v 1) .add .s .rdn) ∧
    decodeTableWord 32 (wordA 0x2A 0 4 1 0 (5 * 8 + 1)) = some (.scan hd (.v 4) (.v 1) .xor .n32 .rne) ∧
    decodeTableWord 32 (wordA 0x2B 0 2 3 4 2) = some (.kxor false 2#3 3#3 4#3) ∧
    decodeTableWord 32 0x56B01006 = some (.kmovToS hd (.s 4) 1#3) ∧ decodeTableWord 32 0x5812AAC0 = some (.edge hd (.v 4) (.s 2) (.s 3)) ∧
    decodeTableWord 32 (wordA 0x2D 0 4 2 0 1) = some (.rngU hd (.v 4) (.v 2)) := by decide
/-- Memory, ring, barrier and engine words of R176 to R178. -/
theorem test_decode_memory : decodeTableWord 32 (wordM 0x2E 4 2 3 1 2 5 3) = some (.ld ⟨false, 1#3, 2#2, 5#4⟩ (.v 4) (.v 2) 3#2 .n64) ∧
    decodeTableWord 32 (wordM 0x30 44 41 0 0 0 0 1) = some (.lds mh (.s 4) (.s 1) 0#2 true) ∧
    decodeTableWord 32 (wordM 0x30 4 2 0 0 0 0 2) = some (.ldu mh (.v 4) (.v 2) 0#2 false) ∧
    decodeTableWord 32 (wordM 0x32 4 2 0 0 0 0 1) = some (.st mh (.v 4) (.v 2) 0#2 .n16) ∧
    decodeTableWord 32 (wordM 0x34 4 2 2 0 0 0 3) = some (.atom mh (.v 4) (.v 2) .minu true) ∧
    decodeTableWord 32 (wordM 0x35 4 2 2 0 0 0 3) = some (.xaddD mh (.v 4) (.v 2)) ∧
    decodeTableWord 32 (wordM 0x35 9 0 3 0 1 2 2) = some (.snop false (some .tm) 1#2 2#4) ∧
    decodeTableWord 32 (wordM 0x36 44 7 0 0 0 0 1) = some (.racq mh (.s 4) 7#6) ∧
    decodeTableWord 32 (wordM 0x37 0 15 0 2 0 0 3) = some (.pbar { mh with k := 2#3 } 15#6) ∧
    decodeTableWord 32 (wordM 0x38 3 41 0 0 0 0 0) = some (.ntc mh 3#6 (.s 1)) ∧
    decodeTableWord 32 (wordM 0x3A 44 0 0 0 0 0 3) = some (.mxq mh (.s 4)) ∧
    decodeTableWord 32 (wordM 0x3C 4 2 1 0 0 0 3) = some (.xrndE32 mh .bf (.v 4) (.v 2)) ∧
    decodeTableWord 32 (wordM 0x3D 32 41 0 0 0 0 0) = some (.trace mh (.v 32) (.s 1)) ∧
    decodeTableWord 32 (wordM 0x3E 36 41 0 0 0 0 3) = some (.tex mh (.v 36) (.s 1)) := by decide

/-! ## One word on a small packet -/

/-- A packet of 16 lanes, all active, with the registers, uniform registers, masks and literal given. -/
def pk (v : List (Nat × Nat × Word)) (s : List (Nat × DWord)) (k : List (Nat × Mask)) (lit : Word := 0) (width : Nat := 16) : State :=
  let g := { soloGroup with width := width, lpc := List.replicate width 0#32, s := s, k := k }
  { State.reset with cur := startPacket 0 0 (v.foldl (fun g x => writeV g x.1 x.2.1 x.2.2) g) 0 lit }

/-- What a word leaves in lane l of v n, in s n and in k n, the lanes' next indexes, and the flags it raises. -/
def vOut (i : Instr) (s : State) (n l : Nat) : Word := match exec i s with
  | .next t => readV t.cur.g n l
  | _ => 0
def sOut (i : Instr) (s : State) (n : Nat) : DWord := match exec i s with
  | .next t => readS t.cur.g n
  | _ => 0
def kOut (i : Instr) (s : State) (n : Nat) : Mask := match exec i s with
  | .next t => readK t.cur.g n
  | _ => 0
def nxtOut (i : Instr) (s : State) : List Word := match exec i s with
  | .next t => t.cur.nxt
  | _ => []
def flOut (i : Instr) (s : State) : Flags := match exec i s with
  | .next t => flagsOf t.cur.flags
  | _ => 0

/-- R195 at its corners, by hand: a sum that wraps, the high half of a signed product, the magnitude of the least number, counts modulo
the width, the leading zeros of 0. -/
theorem test_integer : vOut (.add hd false (.v 1) (.v 2) (.v 3)) (pk [(2, 0, 0xFFFFFFFF#32), (3, 0, 2#32)] [] []) 1 0 = 1#32 ∧
    vOut (.mulh hd false (.v 1) (.v 2) (.v 3)) (pk [(2, 0, 0xFFFFFFFF#32), (3, 0, 2#32)] [] []) 1 0 = 0xFFFFFFFF#32 ∧
    vOut (.mulhu hd false (.v 1) (.v 2) (.v 3)) (pk [(2, 0, 0xFFFFFFFF#32), (3, 0, 2#32)] [] []) 1 0 = 1#32 ∧
    vOut (.abs hd false (.v 1) (.v 2)) (pk [(2, 0, 0x80000000#32)] [] []) 1 0 = 0x80000000#32 ∧
    vOut (.sra hd false (.v 1) (.v 2) (.v 3)) (pk [(2, 0, 0x80000000#32), (3, 0, 33#32)] [] []) 1 0 = 0xC0000000#32 ∧
    vOut (.clz hd false (.v 1) (.v 2)) (pk [] [] []) 1 0 = 32#32 ∧
    vOut (.min hd false (.v 1) (.v 2) (.v 3)) (pk [(2, 0, 0x80000000#32), (3, 0, 1#32)] [] []) 1 0 = 0x80000000#32 ∧
    vOut (.minu hd false (.v 1) (.v 2) (.v 3)) (pk [(2, 0, 0x80000000#32), (3, 0, 1#32)] [] []) 1 0 = 1#32 ∧
    sOut (.lui false (.s 1) 0x40000#19) (pk [] [] []) 1 = 0xFFFFFFFF80000000#64 ∧
    vOut (.lui false (.v 1) 0x091A2#19) (pk [] [] []) 1 0 = 0x12344000#32 := by decide +kernel
/-- R196: the carry in and out of k7, lane by lane. -/
theorem test_carry : vOut (.addc hd false (.v 1) (.v 2) (.v 3)) (pk [(2, 1, 0xFFFFFFFF#32)] [] [(7, 2#64)]) 1 1 = 0#32 ∧
    kOut (.addc hd false (.v 1) (.v 2) (.v 3)) (pk [(2, 1, 0xFFFFFFFF#32)] [] [(7, 2#64)]) 7 = 2#64 ∧
    kOut (.subb hd false (.v 1) (.v 2) (.v 3)) (pk [(3, 0, 1#32)] [] [(7, 2#64)]) 7 = 3#64 := by decide +kernel
/-- R198 and the worked example after R199: fshr by the literal 8, and the fields of bfxs and bfi by hand. -/
theorem test_three_source :
    vOut (.fshr hd (.v 4) (.v 2) (.v 3) .lit) (pk [(2, 0, 0x12345678#32), (3, 0, 0x9ABCDEF0#32)] [] [] 8#32) 4 0 = 0x789ABCDE#32 ∧
    vOut (.bfxs hd (.v 4) (.v 1) (.v 2) (.v 3)) (pk [(1, 0, 0xF0#32), (2, 0, 4#32), (3, 0, 4#32)] [] []) 4 0 = 0xFFFFFFFF#32 ∧
    vOut (.bfi hd (.v 4) (.v 1) (.v 2) (.v 3)) (pk [(1, 0, 0xFFFFFFFF#32), (2, 0, 0#32), (3, 0, 0x0804#32)] [] []) 4 0 = 0xFFFFF00F#32 := by decide +kernel
/-- R199: signed and unsigned predicates; bits of lanes outside the active set stay; k0 is not written. -/
theorem test_compare : kOut (.icmp false 1#3 false .lt (.v 2) (.v 3)) (pk [(2, 0, 0xFFFFFFFF#32)] [] []) 1 = 1#64 ∧
    kOut (.icmp false 1#3 false .ltu (.v 2) (.v 3)) (pk [(2, 0, 0xFFFFFFFF#32)] [] []) 1 = 0#64 ∧
    kOut (.icmp false 0#3 false .ne (.v 2) (.v 2)) (pk [] [] []) 0 = 0xFFFF#64 := by decide +kernel
/-- The worked example after R193, with every lane active at packet 0: brm sends all lanes, bra those of its mask. -/
theorem test_branches : nxtOut (.brm false 3#3 30#21) (pk [] [] [(3, 0x0104#64)]) = List.replicate 16 30#32 ∧
    nxtOut (.bru false 3#3 30#21) (pk [] [] [(3, 0x0104#64)]) = List.replicate 16 1#32 ∧
    (nxtOut (.bra false 3#3 0x3FFFFC#22) (pk [] [] [(3, 0x0104#64)])).getD 8 0 = 0xFFFFFFFC#32 ∧
    (nxtOut (.bra false 3#3 0x3FFFFC#22) (pk [] [] [(3, 0x0104#64)])).getD 9 0 = 1#32 := by decide +kernel

/-- R201, R124, R126 by hand: a tie to even that is inexact, an overflow, 1/0, and 0 × ∞ with a quiet NaN. -/
theorem test_float : vOut (.fadd hd (.v 4) (.v 1) (.v 2) .s .rne) (pk [(1, 0, 0x3F800000#32), (2, 0, 0x33800000#32)] [] []) 4 0 = 0x3F800000#32 ∧
    flOut (.fadd hd (.v 4) (.v 1) (.v 2) .s .rne) (pk [(1, 0, 0x3F800000#32), (2, 0, 0x33800000#32)] [] []) = 0x10 ∧
    vOut (.fmul hd (.v 4) (.v 1) (.v 2) .s .rtz) (pk [(1, 0, 0x7F7FFFFF#32), (2, 0, 0x40000000#32)] [] []) 4 0 = 0x7F7FFFFF#32 ∧
    vOut (.fdiv hd (.v 4) (.v 1) (.v 2) .s .rne) (pk [(1, 0, 0xBF800000#32)] [] []) 4 0 = 0xFF800000#32 ∧
    vOut (.ffmaS hd (.v 4) (.v 1) (.v 2) (.v 3)) (pk [(1, 0, 0x7F800000#32), (3, 0, 0x7FC00001#32)] [] []) 4 0 = 0x7FC00000#32 ∧
    flOut (.ffmaS hd (.v 4) (.v 1) (.v 2) (.v 3)) (pk [(1, 0, 0x7F800000#32), (3, 0, 0x7FC00001#32)] [] []) = 1 ∧
    vOut (.fsqrt hd (.v 4) (.v 1) .s .rne) (pk [(1, 0, 0x40800000#32)] [] []) 4 0 = 0x40000000#32 := by decide +kernel
/-- R202 to R205: frnd to even keeps the sign of zero, fclass of −0, fmin of zeros, and lt with a quiet NaN raises NV. -/
theorem test_float_forms : vOut (.frnd hd (.v 4) (.v 1) .s .rne) (pk [(1, 0, 0xBF000000#32)] [] []) 4 0 = 0x80000000#32 ∧
    vOut (.fclass hd (.v 4) (.v 1) .s) (pk [(1, 0, 0x80000000#32)] [] []) 4 0 = 8#32 ∧
    vOut (.fclass hd (.v 4) (.v 1) .h2) (pk [(1, 0, 0x7E000001#32)] [] []) 4 0 = 0x02000020#32 ∧
    vOut (.fmin hd (.v 4) (.v 1) (.v 2) .s) (pk [(1, 0, 0#32), (2, 0, 0x80000000#32)] [] []) 4 0 = 0x80000000#32 ∧
    kOut (.fcmp false 1#3 .lt .s (.v 1) (.v 2)) (pk [(1, 0, 0x7FC00000#32)] [] []) 1 = 0#64 ∧
    kOut (.fcmp false 1#3 .ne .s (.v 1) (.v 2)) (pk [(1, 0, 0x7FC00000#32)] [] []) 1 = 1#64 ∧
    flOut (.fcmp false 1#3 .lt .s (.v 1) (.v 2)) (pk [(1, 0, 0x7FC00000#32)] [] []) = 1 := by decide +kernel
/-- The worked example after R211: mxpk at width 32, then mxup of its elements. -/
theorem test_microscaling :
    let s := pk [(1, 0, 0x40400000#32), (1, 1, 0xBF400000#32), (1, 2, 0x43480000#32), (1, 3, 0x447A0000#32)] [] [] 0 32
    (List.range 5).map (vOut (.mxpk hd (.v 6) (.v 1) .e4m3 .rne) s 6) = [0x803C#32, 0x80AC#32, 0x806C#32, 0x807E#32, 0x8000#32] ∧
    flOut (.mxpk hd (.v 6) (.v 1) .e4m3 .rne) s = 0x14 ∧
    (List.range 5).map (vOut (.mxup hd (.v 7) (.v 6) .e4m3)
      (pk [(6, 0, 0x803C#32), (6, 1, 0x80AC#32), (6, 2, 0x806C#32), (6, 3, 0x807E#32), (6, 4, 0x8000#32)] [] [] 0 32) 7) =
      [0x40400000#32, 0xBF400000#32, 0x43400000#32, 0x44600000#32, 0#32] := by decide +kernel
/-- R207 to R209 by hand: a half that overflows, a negative to an unsigned integer, and an integer to a float. -/
theorem test_convert : vOut (.cvt hd (.v 4) (.v 1) .fp16 .fp32 .rne) (pk [(1, 0, 0x477FF000#32)] [] []) 4 0 = 0x7C00#32 ∧
    vOut (.cvti hd (.v 4) (.v 1) .i8 .fp32 .rtz) (pk [(1, 0, 0xC2FE0000#32)] [] []) 4 0 = 0xFFFFFF81#32 ∧
    vOut (.cvti hd (.v 4) (.v 1) .n32 .fp32 .rne) (pk [(1, 0, 0xBF800000#32)] [] []) 4 0 = 0#32 ∧
    vOut (.cvtf hd (.v 4) (.v 1) .fp32 .i32 .rne) (pk [(1, 0, 0xFFFFFFFF#32)] [] []) 4 0 = 0xBF800000#32 := by decide +kernel
/-- The worked example after R219: push; and redu, ballot, kfirst and scan by hand. -/
theorem test_cross_lane :
    let v1 := (List.range 16).map (fun l => (1, l, BitVec.ofNat 32 (0x100 + l)))
    let v2 := (List.range 16).map (fun l => (2, l, BitVec.ofNat 32 (if l = 3 ∨ l = 9 then 5 else if l = 5 then 7 else l)))
    let v3 := (List.range 16).map (fun l => (3, l, 0xFFFFFFFF#32))
    (List.range 16).map (vOut (.push hd false (.v 3) (.v 1) (.v 2)) (pk (v1 ++ v2 ++ v3) [] []) 3) = (List.range 16).map (fun l =>
      if l = 5 then 0x109#32 else if l = 7 then 0x107#32 else if l = 3 ∨ l = 9 then 0xFFFFFFFF#32 else BitVec.ofNat 32 (0x100 + l)) ∧
    sOut (.redu hd (.s 2) (.v 1) .add .n32 .rne) (pk v1 [] []) 2 = 0x1078#64 ∧ sOut (.redu hd (.s 2) (.v 1) .max .i32 .rne) (pk v1 [] []) 2 = 0x10F#64 ∧
    vOut (.scan hd (.v 4) (.v 1) .add .n32 .rne) (pk v1 [] []) 4 2 = 0x303#32 ∧
    sOut (.ballot hd (.s 2) (.v 1)) (pk [(1, 0, 1#32), (1, 15, 1#32)] [] []) 2 = 0x8001#64 ∧
    sOut (.kfirst hd (.s 2) 1#3) (pk [] [] [(1, 0x0104#64)]) 2 = 2#64 ∧ sOut (.kfirst hd (.s 2) 1#3) (pk [] [] []) 2 = 0xFFFFFFFFFFFFFFFF#64 ∧
    vOut (.shfl hd false (.v 4) (.v 1) (.v 2)) (pk (v1 ++ [(2, 0, 17#32)]) [] []) 4 0 = 0x101#32 := by decide +kernel
/-- The worked example after R222 at width 64: edge in lanes 0 and 63; and a mask that edge's compare would give, moved to s4. -/
theorem test_raster :
    let s := pk [] [(2, 0xFFFFFFFD00000002#64), (3, 5#64)] [] 0 64
    vOut (.edge hd (.v 4) (.s 2) (.s 3)) s 4 0 = 5#32 ∧ vOut (.edge hd (.v 4) (.s 2) (.s 3)) s 5 0 = 0#32 ∧
    vOut (.edge hd (.v 4) (.s 2) (.s 3)) s 4 63 = 0xFFFFFFFE#32 ∧ vOut (.edge hd (.v 4) (.s 2) (.s 3)) s 5 63 = 0xFFFFFFFF#32 ∧
    sOut (.kmovToS hd (.s 4) 1#3) (pk [] [] [(1, 0x0080E0F0FCFEFFFF#64)] 0 64) 4 = 0x0080E0F0FCFEFFFF#64 ∧
    kOut (.knot false 2#3 1#3) (pk [] [] [(1, 5#64)]) 2 = 0xFFFA#64 ∧
    vOut (.qdx hd (.v 4) (.v 1)) (pk [(1, 2, 0x3F800000#32), (1, 3, 0x40400000#32)] [] []) 4 2 = 0x40000000#32 := by decide +kernel
/-- The worked example after R263: tmcmp, the trap, and what rdsr and wrsr do to reserved bits (R63). -/
theorem test_special :
    let s0 := pk [] [(2, 5000#64)] []
    let s := { s0 with cur := { s0.cur with g0 := { s0.cur.g0 with gcyc := 12000#64 } } }
    (match exec (.tmcmp false (.s 2)) s with | .next t => t.cur.g.tmcmp | _ => 0) = 0x8000000000004268#64 ∧
    (match exec (.trap false 700#16) s with | .next t => t.cur.trap.map (fun x => (x.cause, x.code)) | _ => none) = some (8#8, 0x2BC#16) ∧
    (match exec (.wrsr false 0x06#6 (.s 2)) (pk [] [(2, 0xFFFFFFFFFFFFFFFF#64)] []) with | .next t => t.cur.g.tvec | _ => 0) = 0x1FFFFFFFF#64 ∧
    sOut (.rdsr hd (.s 3) 0x03#6) s 3 = 16#64 := by decide +kernel
/-- R458: a ret at depth 0 is context-fatal with reason 0x10. -/
theorem test_illegal_use : (match exec (.ret false) (pk [] [] []) with | .next t => t.cur.fatal.map (fun f => (f.cause, f.reason)) | _ => []) = [(2, 0x10)] := by
  decide +kernel

/-! ## States that meet the hypotheses of the statements -/

/-- The reason for which a word is refused, 0 for none, and the instruction it decodes to. -/
def refusal (w : Nat) : Nat := match decode (BitVec.ofNat 32 w) with
  | .error r => r
  | .ok _ => 0
def readAs (w : Nat) : Option Instr := match decode (BitVec.ofNat 32 w) with
  | .error _ => none
  | .ok i => some i
/-- An outcome is a next state of which p holds. -/
def goes (o : Host.Outcome State Fault Refusal) (p : State → Bool := fun _ => true) : Bool := match o with
  | .next t => p t
  | _ => false

/-- EveryWordDecodesBack and DecodeTakesOnlyEncodings: a well-formed word, and a word that decodes. -/
theorem witness_decode : WellFormed (.add hd false (.v 1) (.v 2) (.s 15)) ∧ isWord (.add hd false (.v 1) (.v 2) (.s 15)) = true ∧
    readAs 0x0C042DC0 = some (.add hd false (.v 1) (.v 2) (.s 15)) := by decide +kernel

/-- DecodeTakesOnlyEncodings: the first and last selector of each range are refused with the reason of R456. -/
theorem witness_unassigned : ([0x27, 0x39, 0x3F].all (fun op => refusal (op * 2 ^ 25) == 1)) = true ∧
    ([(0, 15), (0, 63), (6, 23), (6, 31), (6, 63), (0x17, 10), (0x17, 63), (0x19, 32), (0x19, 63), (0x1E, 32), (0x1F, 12), (0x1F, 63), (0x20, 8), (0x20, 63), (0x21, 32),
      (0x21, 63), (0x25, 24), (0x25, 63), (0x26, 40), (0x26, 63), (0x28, 7), (0x28, 31), (0x28, 32), (0x28, 34), (0x28, 38), (0x29, 48), (0x29, 63), (0x2A, 48), (0x2B, 8),
      (0x2B, 63), (0x2C, 3), (0x2D, 2), (0x31, 2), (0x31, 3), (0x33, 1)].all (fun x => refusal (x.1 * 2 ^ 25 + x.2) == 2)) = true ∧
    ([(0x35, 15), (0x36, 7), (0x36, 15), (0x37, 6), (0x37, 15), (0x38, 1), (0x38, 15), (0x3A, 4), (0x3B, 3), (0x3C, 2), (0x3C, 3), (0x3C, 5), (0x3C, 10), (0x3C, 11),
      (0x3D, 4), (0x3D, 15), (0x3E, 5), (0x3E, 15)].all (fun x =>
        refusal (x.1 * 2 ^ 25 + x.2 / 4 * 2 ^ 11 + x.2 % 4) == 2)) = true := by decide +kernel

/-- The machine with one word as the next thing to run, and the group and device of it. -/
def run1 (w : Nat) : State := State.reset.withFetchWord 32 w
def solo : Group := { soloGroup with lpc := List.replicate 16 0#32 }
def addW : Nat := 0x0C042DC0

/-- StepRunsTheDecodedWord and StepRunsPacketsAndEvents: the word add v1, v2, s15 alone in its packet. -/
def stepMeets (s : State) : Bool := match tget s.dev.groups 0 with
  | none => false
  | some g =>
    let ws := [BitVec.ofNat 32 addW, 0#32, 0#32]
    decide (nextTurn s = .group 0) && portChoice s.dev g.core (g.rslot % 2) (s.tick + 1) == some 0 && baseReady s.dev 0 g && yieldOver s.dev g (s.tick + 1) &&
    minPc g == some 0#32 &&
    (match fetchPacket s.dev g 0#32 (s.tick + 1) with
     | .words xs _ _ => xs == ws
     | _ => false) && (stageD g ws).isNone && packetReady s.dev 0 g 0#32 (slotsOf ws) &&
    (match nextPacket s.dev 0 g (s.tick + 1) with
     | some (.packet _ xs [.instr i, .instr j, .instr k] fills ic) => xs == ws && i == .add hd false (.v 1) (.v 2) (.s 15) && j == .nop false && k == .nop false &&
       goes (exec i { beginTurn s with dev := takenBy s.dev 0 g ws [.instr i, .instr j, .instr k] fills ic, cur := startPacket (s.tick + 1) 0 g 0#32 0#32 })
         (fun s1 => goes (exec j { s1 with cur := { s1.cur with slot := 1 } }) (fun s2 => goes (exec k { s2 with cur := { s2.cur with slot := 2 } })))
     | _ => false)
theorem witness_step : stepMeets (run1 addW) = true := by decide +kernel

/-- StepRunsPacketsAndEvents: a turn that is an event, an event that is a word, and a write from outside; NoPacketBetweenSteps,
EveryRunGoesOn, WordsChangeOnlyThePacket and EventsChangeOnlyTheDevice: steps and words that answer a next state. -/
theorem witness_turns : nextTurn { State.reset with agenda := [.event .tokenCycle] } = .event .tokenCycle ∧ isWord .tokenCycle = false ∧
    nextTurn { State.reset with agenda := [.event (.nop false)] } = .event (.nop false) ∧ isWord (.nop false) = true ∧
    nextTurn { State.reset with agenda := [.outside .host 5 [1#8]] } = .outside .host 5 [1#8] ∧ NoPacket (run1 addW) ∧
    goes (step (run1 addW)) = true ∧ goes (exec (.nop false) (run1 addW)) = true ∧ goes (exec .supplyRemoved (run1 addW)) = true := by
  refine ⟨rfl, rfl, rfl, rfl, rfl, rfl, ?_, ?_, ?_⟩ <;> decide +kernel

/-- IntegerFormsOfMajor06 to TrapAndHandlerWords: what those of them that have hypotheses ask for: a destination, a slot, an active lane, a
type, a depth, a trap, a handler. -/
def called : State := { pk [] [] [] with cur := { (pk [] [] []).cur with g0 := { (pk [] [] []).cur.g0 with depth := 1 } } }
def handling (depth : Nat) : State :=
  let s := pk [] [] []
  let h : Option Handler := some { saved := List.replicate 16 7#32, depth := depth }
  { s with cur := { s.cur with g0 := { s.cur.g0 with handler := h }, g := { s.cur.g with handler := h } } }
theorem witness_words : (Operand.v 3).isS = false ∧ (pk [] [] []).cur.slot < (pk [] [] []).cur.latches.length ∧ active (pk [] [] []).cur 15 = true ∧
    RedTy.isFloat .n64 = false ∧ RedTy.isFloat .d = true ∧ called.cur.g0.depth ≠ 0 ∧ (pk [] [] []).cur.g0.depth = 0 ∧
    (pk [] [] []).cur.trap = none ∧ ({ (pk [] [] []).cur with trap := some default } : Packet).trap ≠ none ∧
    (∃ x, (handling 0).cur.g0.handler = some x ∧ (handling 0).cur.g.handler = some x ∧ x.depth = (handling 0).cur.g0.depth) ∧
    (∃ x, (handling 1).cur.g0.handler = some x ∧ x.depth ≠ (handling 1).cur.g0.depth) ∧ (pk [] [] []).cur.g0.handler = none := by
  refine ⟨rfl, by decide, by decide, rfl, rfl, by decide, rfl, rfl, by decide, ⟨_, rfl, rfl, rfl⟩, ⟨_, rfl, by decide⟩, rfl⟩

/-- LoadWordsHandOff, StoreWordsHandOff, ReadModifyWriteWordsHandOff, GroupOnceWords and AccumulatorAndBlockWords: on the packet of pk over the device of run1, the first address of its page, and of the first unmapped one. -/
def mp (s : List (Nat × DWord)) (k : List (Nat × Mask)) : State := { pk [] s k with dev := (run1 0).dev }
theorem witness_memory_words : (loadForm (mp [] []).cur (.ld mh (.v 1) (.v 2) 0#2 .n32)).isSome = true ∧
    (loadForm (mp [] [(1, 1#64)]).cur (.lds { mh with k := 1#3 } (.s 1) (.s 2) 0#2 true)).isSome = true ∧
    (storeForm (mp [] []).cur (.stRel mh (.v 1) (.v 2) 0#2 true)).isSome = true ∧ (rmwFields (.vbt mh (.v 4) (.v 2))).isSome = true ∧
    guardSet (mp [] []).cur 0#3 true ≠ 0#64 ∧ guardSet (mp [] []).cur 1#3 true = 0#64 ∧ (mp [] []).cur.act ≠ 0#64 ∧
    (onceForm (mp [] []) (.aczr mh (.s 1) (.s 2))).isSome = true ∧ (mp [] []).cur.g0.depth = 0 ∧
    (amForm (mp [] []).cur (.acld mh (.v 1) (.v 2))).isSome = true ∧ (blockForm (.tex mh (.v 36) (.s 2))).isSome = true ∧
    goes (exec (.stm mh (.v 2) (.v 4) 0#2) (mp [] [])) (fun t => t.cur.fatal == [] && t.cur.xfaults == []) = true ∧
    goes (exec (.atom mh (.v 2) (.v 4) .add false) (mp [] [])) (fun t => t.cur.fatal == []) = true := by decide +kernel

/-- A page without a translation, in the store's packet: the packet commits with its lanes in the side log (PacketsEnd). -/
def faulting : Packet := match exec (.st mh (.v 1) (.s 2) 0#2 .n32) (mp [(2, 0x20000000#64)] []) with
  | .next t => t.cur
  | _ => Packet.none
theorem witness_side_log :
    let d := (mp [] []).dev
    let d' := closePacket d faulting
    faulting.fatal = [] ∧ faulting.xfaults.length = 16 ∧ faulting.xfaults.any (fun x => x.acc == .read) = false ∧ logNeed faulting ≤ logFree d 0 ∧
    (faulting.ops.map (fun o => (o.slot, o.gid == faulting.gid, o.core, o.stream))) = [(0, true, 0, 0)] ∧ faulting.g.cnt.length = 4 ∧
    tget (tgetD d'.cores 0 default).slog 15 = some (d.fresh, 15) ∧ (tget d'.groups 0).map (fun g => g.cnt.getD 0 0) = some 1 := by decide +kernel

/-- Stage T of an access (03 R76, R83, 16 R452): each clause at a boundary address: 2^56, the last byte below the local window, an odd address, an unmapped page. -/
theorem witness_stage_t :
    let d := (run1 0).dev
    let r := fun (a : DWord) n => (laneXl d 0 0 0 a n .read false [a.toNat]).1
    r 0x0100000000000000#64 4 = .bad 0x20 ∧ r 0x00FFFF0000000000#64 4 = .bad 0x21 ∧ r 0x1FFFFFFE#64 4 = .bad 0x27 ∧
    (match r 0x20000000#64 4 with | .fault _ _ _ => true | _ => false) = true ∧ (match r 0x1FFFFFFC#64 4 with | .ok _ => true | _ => false) = true ∧
    (xlate d 0 (.team 0) 0x00FFFF0000000000 0).1 = .prot 0x21 := by decide +kernel

/-! ## Operations in flight -/

/-- The device of run1, with changes. -/
def D (f : Dev → Dev) : State := { State.reset with dev := f (run1 0).dev }
/-- The machine of run1 with its group changed. -/
def G (f : Group → Group) (h : Dev → Dev := id) : State := D (fun d => h { d with groups := d.groups.map (fun g => (g.1, f g.2)) })
def g0 (s : State) : Group := (tget s.dev.groups 0).getD Group.none
/-- Operation 7: a word of the group of run1, whole in lane 3. -/
def op7 (w : Instr) (accs : List Acc) (lanes : List LaneIn := []) : Op := { newOp (mp [] []) w 8#64 0#2 0#4 with accs := accs, lanes := lanes }
def withOp7 (o : Op) (d : Dev) : Dev := { d with ops := tput d.ops 7 o }
/-- The part of lane 3 at physical address 0x1008. -/
def part3 (len : Nat) (data : List (Nat × Byte)) (t : Target := .dev 0x1008 false) : Acc := newAcc 3 0x1008 len 0 (some t) none data
def ldOp : Op := op7 (.ld mh (.v 1) (.v 2) 0#2 .n32) [part3 4 []]
def stOp (t : Target) : Op := op7 (.st mh (.v 1) (.v 2) 0#2 .n32) [part3 0 [(0, 0x11#8), (3, 0x44#8)] t]
/-- Device memory with one word at 0x1008. -/
def word1008 (d : Dev) : Dev := { d with mem := writeBytes d.mem 0x1008 [0x78#8, 0x56#8, 0x34#8, 0x12#8] }

/-- LoadsComplete: the parts of a load from memory, with no copy of the line and with one, and at its home; and the word's datum by R231. -/
theorem witness_load :
    let s := D (fun d => withOp7 ldOp (word1008 d))
    let line := List.replicate 128 1#8
    let s1 := D (fun d => withOp7 ldOp { word1008 d with cores := tput d.cores 0 { (default : Core) with dc := [(0x1008 / 128, line)] } })
    let nc := op7 (.ldnc mh (.v 1) (.v 2) 0#2 .n32) [part3 4 []]
    tget s.dev.ops 7 = some ldOp ∧ (partOf ldOp 0).isSome = true ∧ loadOpen s.dev 7 ldOp (part3 4 []) = true ∧ (loadRead s.dev 7 ldOp (part3 4 [])).isSome = true ∧ slotBehind s.dev 7 ldOp = false ∧ unitRuns s.dev 0 (unitCore 0) = true ∧
    (tgetD s.dev.cores 0 default).noInstall = [] ∧ tget (tgetD s.dev.cores 0 default).dc (0x1008 / 128) = none ∧ 0x1008 % 128 + 4 ≤ 128 ∧
    tget (tgetD s1.dev.cores 0 default).dc (0x1008 / 128) = some line ∧ isHomeLoad ldOp.word = false ∧ isHomeLoad nc.word = true ∧
    goes (exec (.loadComplete 7 0) s) (fun t => (tget t.dev.groups 0).any (fun g => readV g 1 3 == 0x12345678#32) && (tget t.dev.ops 7).isNone) = true ∧
    goes (exec (.loadComplete 7 0) s1) (fun t => (tget t.dev.groups 0).any (fun g => readV g 1 3 == 0x01010101#32)) = true ∧
    memDest ldOp.word = some (.v 1, false) ∧ ldOp.gather = false ∧ ldOp.stream < 4 := by decide +kernel

/-- LoadsComplete: lds, whose one datum goes to an s register. -/
theorem witness_lds :
    let o := op7 (.lds mh (.s 4) (.s 1) 0#2 false) [part3 4 []]
    let s := D (fun d => withOp7 o (word1008 d))
    memDest o.word = some (.s 4, false) ∧ opLanes { o with accs := [{ part3 4 [] with got := [1], done := true }] } = [3] ∧ loadOpen s.dev 7 o (part3 4 []) = true ∧
    goes (exec (.loadComplete 7 0) s) (fun t => (tget t.dev.groups 0).any (fun g => readS g 4 == 0x12345678#64)) = true := by decide +kernel

/-- StepRunsPacketsAndEvents: an accepted store that reaches the host in a turn of its own. -/
theorem witness_landed :
    let s := { D (fun d => { d with accepted := [(8, [(0, 7#8)])] }) with agenda := [.landed] }
    nextTurn s = .landed ∧ s.dev.accepted = [(8, [(0, 7#8)])] ∧ goes (step s) (fun t => readByte t.dev.host 8 == 7#8 && t.dev.accepted.isEmpty) = true := by
  decide +kernel

/-- A device whose partition 0 has a host window of 1 MiB at 0 and scope 5, and device 9 of the domain beside it. -/
def linked (d : Dev) : Dev :=
  let d1 := regPut (regPut d offDomid 0 9 7) offDomid 10 1 1
  let d2 := regPut d1 (offPnet 0) 32 16 5
  { regPut (regPut d2 (offHwin 0) 16 48 0) (offHwin 0 + 8) 16 36 16 with peerOcts := [(72, { scope := 5, pieces := 0 })], peers := [(9, [])] }

/-- StoresApply: a store open at each kind of home: device memory, the host, this device by its own number, another device, a
scratchpad; and one that its home refuses. -/
theorem witness_store :
    let w := fun (t : Target) => D (fun d => withOp7 (stOp t) (linked d))
    let ok := fun (t : Target) => decide (tget (w t).dev.ops 7 = some (stOp t)) && storeOpen (w t).dev 7 (stOp t) (part3 0 [(0, 0x11#8), (3, 0x44#8)] t) && !(stOp t).gather
    (ok (.dev 0x1008 false) && ok (.host 0x1008) && ok (.remote 7 0x1008) && ok (.remote 9 0x1008) && ok (.spad 0 8) && ok (.spad 1 8)) = true ∧
    (hostAddr (w (.host 0x1008)).dev 0 0x1008).isSome = true ∧ selfDev (w (.remote 7 0)).dev 7 = true ∧ selfDev (w (.remote 9 0)).dev 9 = false ∧
    regBits (linked (run1 0).dev) (offPnet 0) 32 16 ≠ 0 ∧ inPart (linked (run1 0).dev) 0 0x1008 = true ∧
    peerOk (linked (run1 0).dev) 0 9 0x1008 = true ∧ (tget (run1 0).dev.teams 0).isSome = true ∧ ([0, 3] : List Nat).Nodup ∧
    refused (w (.remote 9 0x480000000)).dev (stOp (.remote 9 0x480000000)) (part3 0 [(0, 0x11#8), (3, 0x44#8)] (.remote 9 0x480000000)) = true ∧
    (packetOps (w (.remote 9 0x480000000)).dev 7 (stOp (.remote 9 0x480000000))).map (fun q => q.1) = [7] ∧
    portLost (w (.remote 9 0x480000000)).dev (.remote 9 0x480000000) = none ∧
    goes (exec (.storeApplied 7 0) (w (.remote 9 0x480000000))) (fun t => (tgetD t.dev.events 0 []).map (fun e => (e.kind, e.cause)) == [(3, 1)]) = true ∧
    goes (exec (.storeApplied 7 0) (w (.host 0x1008))) (fun t => t.dev.host == [] && t.dev.accepted.map (fun x => x.2) == [[(0, 0x11#8), (3, 0x44#8)]]) = true ∧
    goes (exec (.storeApplied 7 0) (w (.dev 0x1008 false))) (fun t => readBytes t.dev.mem 0x1008 4 == [0x11#8, 0#8, 0#8, 0x44#8]) = true ∧
    goes (exec (.storeApplied 7 0) (w (.remote 9 0x1008))) (fun t => readBytes (tgetD t.dev.peers 9 []) 0x1008 4 == [0x11#8, 0#8, 0#8, 0x44#8]) = true := by decide +kernel

/-- ReadModifyWritesApply: an atom add, a cas that differs, and the values of R236 by hand. -/
theorem witness_rmw :
    let x : LaneIn := { lane := 3, a := 0x0000000F00000001#64, d := 0x5#128, run := [] }
    let o := op7 (.atom mh (.v 1) (.v 2) .add false) [part3 4 []] [x]
    let c := op7 (.cas mh (.v 1) (.v 2) false) [part3 4 []] [x]
    let s := D (fun d => withOp7 o (word1008 d))
    let t := D (fun d => withOp7 c (word1008 d))
    tget s.dev.ops 7 = some o ∧ slotBehind s.dev 7 o = false ∧ rmwForm o.word = some (.atom .add false) ∧ rmwOpen s.dev 7 o (part3 4 []) = true ∧
    rmwOpen t.dev 7 c (part3 4 []) = true ∧ rmwNew (.cas false) (readBytes t.dev.mem 0x1008 4) x = none ∧
    (rmwNew (.atom .add false) (readBytes s.dev.mem 0x1008 4) x).map List.length = some 4 ∧ (part3 4 []).tgt2 = none ∧
    goes (exec (.rmwApplied 7 0) s) (fun t => readBytes t.dev.mem 0x1008 4 == [0x79#8, 0x56#8, 0x34#8, 0x12#8] &&
      (tget t.dev.groups 0).any (fun g => readV g 1 3 == 0x12345678#32)) = true := by decide +kernel

/-- ReadModifyWritesApply: operands and records of the lengths asked for; numbers, infinities and NaNs of each kind. -/
theorem witness_rmw_values : (List.replicate 8 0#8).length = wideBytes true ∧ (List.replicate 64 0#8).length = rmwLen .xaddS ∧ (List.replicate 288 0#8).length = rmwLen .xaddD ∧
    (match unpack .fp32 0x3F800000 with | .fin _ 1 _ => true | _ => false) = true ∧ (unpack .fp32 0x7F800000).isFin = false ∧ (unpack .fp32 0).isZero = true ∧
    (unpack .fp32 0x7FC00000).isNan = true ∧ (unpack .fp32 0x40000000).isNan = false ∧ xLt (unpack .fp32 0x3F800000) (unpack .fp32 0x40000000) = true := by decide +kernel

/-- AccumulatorCommands: each command open at its engine, with the offsets of its lanes aligned and inside the allotment. -/
def amDev (o : Op) : State := D (fun d => withOp7 o { d with
  grids := d.grids.map (fun g => (g.1, { g.2 with task := { g.2.task with amq := 1 } })) })
theorem witness_accumulator :
    let l : List LaneIn := [{ lane := 3, a := 64#64, d := 0x3F800000#128, run := [] }]
    let os := [op7 (.acld mh (.v 1) (.v 2)) [] l, op7 (.acst mh (.v 1) (.v 2)) [] l, op7 (.xaccE32 mh (.v 1) (.v 2)) [] l, op7 (.xaccE64 mh (.v 2) (.v 4)) [] [{ lane := 3, a := 0#64, d := 0x3FF0000000000000#128, run := [] }],
      { op7 (.aczr mh (.s 1) (.s 2)) [] [] with a := 64#64, d := 128#64 }]
    [Instr.xrndE32 mh .bf (.v 1) (.v 2), .xrndE64 mh .s (.v 1) (.v 2)].all (fun w =>
      let o := op7 w [] [{ lane := 63, a := BitVec.ofNat 64 (amLen w), d := 0, run := [] }]
      engineOpen (amDev o).dev 7 o && decide (2 * amLen w ≤ amSize (amDev o).dev 0)) = true ∧
    os.all (fun o => engineOpen (amDev o).dev 7 o && o.lanes.all (fun x => x.a.toNat % 2 ^ 32 % amLen o.word == 0 && decide (x.a.toNat % 2 ^ 32 + amLen o.word ≤ amSize (amDev o).dev 0))) = true ∧
    64 + 128 ≤ amSize (amDev default).dev 0 ∧
    goes (exec (.engineCommandComplete 7) (amDev (os.getD 1 default))) (fun t => (tget t.dev.teams 0).any (fun u => readNat u.am 64 4 == 0x3F800000)) = true := by decide +kernel

/-! ## Packets, traps, calls and groups -/

/-- PacketsEnd: a packet with two faults, of which the lower stage is least; one with a load whose page fails; and one with neither. -/
theorem witness_packets : worstFatal [⟨1, 0x20, 0, 0⟩, ⟨2, 0x10, 5, 2⟩] = some ⟨2, 0x10, 5, 2⟩ ∧
    ([({ slot := 0, lane := 3, va := 0x20000000, acc := .read, lvl := 0, entry := 0 } : XFault)].any (fun x => x.acc == .read)) = true ∧
    (mp [] []).cur.fatal = [] ∧ (mp [] []).cur.xfaults = [] ∧ (mp [] []).cur.ops = [] ∧ (tget (mp [] []).dev.groups (mp [] []).cur.gid).isSome = true := by decide +kernel

/-- TrapsEnterAndReturn: no vector; a handler and a trap word, and another cause; an entry whose frame is written; a return whose
frame is read. The lane PCs go to the vector's index, and v0 comes back from the frame (R430, R259). -/
def trap8 : TrapReq := { cause := 8, code := 700, mask := 0xFFFF#64, slot := 1, dest := 0 }
def inHandler : Option Handler := some { saved := List.replicate 2 9#32, depth := 0 }
theorem witness_traps :
    let v := fun (g : Group) => { g with tvec := 0x100000063#64, tframe := 0x2000#64, width := 2, lpc := List.replicate 2 0#32 }
    let h := fun (g : Group) => { v g with handler := inHandler }
    let ok := G v
    let back := G h (fun d => { d with mem := writeBytes d.mem (0x2000 + 72) [5#8] })
    (g0 (G id)).tvec.getLsbD 32 = false ∧ (g0 (G h)).tvec.getLsbD 32 = true ∧ (g0 (G h)).handler.isSome = true ∧ trap8.cause = 8#8 ∧
    ({ trap8 with cause := 9 } : TrapReq).cause ≠ 8#8 ∧ (g0 ok).handler = none ∧ (g0 ok).depth ≤ 256 ∧ trap8.slot < 4 ∧
    (match unitWriteWhole ok.dev (teamPart ok.dev 0) (.team 0) (.update 0) 0x2000 (trapFrame ok.dev 0 (g0 ok) trap8) 0 with | .ok _ => true | .error _ => false) = true ∧
    (tget (dueTrap ok.dev 0 trap8 false 0).groups 0).map (fun g => (g.lpc, g.tcause, g.tslot)) = some (List.replicate 2 0x63#32, 0x2BC0008#64, 1#64) ∧
    (match unitRead back.dev (teamPart back.dev 0) (.team 0) 0x2000 (64 + 36 * 2) 0 with | .ok _ => true | .error _ => false) = true ∧ (g0 back).width ≤ 64 ∧ 40 ≤ (g0 back).pool ∧
    (tget (returnTrap back.dev 0 0).groups 0).map (fun g => (readV g 0 0, g.lpc, g.handler)) = some (5#32, List.replicate 2 9#32, none) := by decide +kernel

/-- CallWindow: a call of 8 registers in a pool of 48, the largest that fits, and a return from it; a call that spills 8 registers, one
whose area has no room for them, a fifth call, one at depth 256, and a return that refills 8 registers. -/
theorem witness_calls :
    let c := G (fun g => { g with bound := { g.bound with slide := some (.call 8 1#32 0) } })
    let r := G (fun g => { g with bound := { g.bound with slide := some .ret }, depth := 1, wb := 8, links := [{ ret := 1, frame := 8, held := 0 }] })
    let a := fun (g : Group) (f : Nat) => { g with spill := 0x2000#64, bound := { g.bound with slide := some (.call f 1#32 0) } }
    let four := List.replicate 4 ({ ret := 7, frame := 0, held := 0 } : Link)
    let sp := G (fun g => a { g with wb := 8, wl := 0 } 1)
    let none_ := G (fun g => a { g with wb := 1000, wl := 992 } 1)
    let fifth := fun n => G (fun g => a { g with depth := n, links := four } 0)
    let fill := G (fun g => { a { g with wb := 8, wl := 8, depth := 1, links := [{ ret := 1, frame := 8, held := 0 }] } 0 with bound := { g.bound with slide := some .ret } })
    let put := fun (s : State) (x : Nat) (bs : List Byte) => match unitWriteWhole s.dev (teamPart s.dev 0) (.team 0) (.update 0) x bs 0 with
      | .ok d => (tget (doSlide s.dev 0 0).groups 0).isSome && d.groups == s.dev.groups
      | .error _ => false
    [sp, none_, fifth 4, fifth 256].all (fun s => decide ((g0 s).width ≤ 64 ∧ 48 ≤ (g0 s).pool ∧ (g0 s).wb + 40 ≤ (g0 s).wl + (g0 s).pool ∧ (g0 s).wl ≤ (g0 s).wb)) = true ∧
    0x1000 + (0 + 8) * 4 * (g0 sp).width ≤ 65536 ∧ 65536 < 0x1000 + (992 + 8) * 4 * (g0 none_).width ∧ (8 + 1 + 40 - 0 - (g0 sp).pool + 7) / 8 = 1 ∧
    put sp (0x2000 + 0x1000) (List.replicate (8 * 4 * 16) 0#8) = true ∧ put (fifth 4) 0x2000 (leBytes 7 16) = true ∧
    (tget (doSlide sp.dev 0 0).groups 0).map (fun g => (g.wl, g.wb)) = some (8, 9) ∧ (tget (doSlide none_.dev 0 0).groups 0).any (fun g => g.bound.dead) = true ∧
    (tget (doSlide (fifth 4).dev 0 0).groups 0).map (fun g => g.depth) = some 5 ∧ (tget (doSlide (fifth 256).dev 0 0).groups 0).any (fun g => g.bound.dead) = true ∧
    (g0 fill).bound.slide = some .ret ∧ (8 - (8 - 8) + 7) / 8 = 1 ∧
    (match unitRead fill.dev (teamPart fill.dev 0) (.team 0) (0x2000 + 0x1000) (8 * 4 * 16) 0 with | .ok _ => true | .error _ => false) = true ∧
    (tget (doSlide fill.dev 0 0).groups 0).map (fun g => (g.wl, g.wb)) = some (0, 0) ∧
    (g0 c).bound.slide = some (.call 8 1#32 0) ∧ (g0 c).depth < 4 ∧ (g0 c).links.length < 4 ∧ (g0 c).wb + 8 + 40 ≤ (g0 c).wl + (g0 c).pool ∧ (g0 c).width ≤ 64 ∧
    (g0 r).bound.slide = some .ret ∧ (g0 r).links = [{ ret := 1, frame := 8, held := 0 }] ∧ (g0 r).depth ≤ 4 ∧ (g0 r).wl + 8 ≤ (g0 r).wb ∧
    (tget (doSlide c.dev 0 0).groups 0).map (fun g => (g.wb, g.depth)) = some (8, 1) ∧
    (tget (doSlide r.dev 0 0).groups 0).map (fun g => (g.wb, g.depth, g.lpc)) = some (0, 0, List.replicate 16 1#32) := by decide +kernel

/-- GroupEvents: an implicit return, a timer trap, a parking, a re-creation from a record of its format and from another, and a
service record. -/
theorem witness_groups :
    let i := G (fun g => { g with lpc := List.replicate 16 0xFFFFFFFF#32, depth := 1 })
    let t := G (fun g => { g with tvec := 0x100000000#64, tframe := 0x2000#64, tmcmp := 0x8000000000000000#64, bound := { g.bound with timer := true } })
    let p := G (fun g => { g with place := .parking, bound := { g.bound with park := some 0 } })
    let rec_ := fun (x : Byte) => G (fun g => { g with place := .parked, bound := { g.bound with park := some 0, parkGen := some 9 } })
      (fun d => { d with teams := d.teams.map (fun u => (u.1, { u.2 with spad := [(0, x), (1, 16#8)] })) })
    let v := G (fun g => { g with bound := { g.bound with svc := [5#16] } })
    let base := fun (s : State) => (g0 s).bound.dead = false
    let carry : DWord := 0x03000F0000000F0F#64
    (g0 i).width ≤ 64 ∧ ((List.range 40).filter (fun n => carry.getLsbD n)).length = 8 ∧ ((List.range 16).filter (fun n => carry.getLsbD (40 + n))).length ≤ 4 ∧
    40 ≤ (g0 (rec_ 1#8)).pool ∧
    (base i ∧ onCore (g0 i) = true ∧ (g0 i).bound.slide = none ∧ (g0 i).bound.tret = false ∧ coreRuns i.dev 0 0 = true ∧ minPc (g0 i) = none ∧ 0 < (g0 i).depth) ∧
    (base t ∧ (g0 t).bound.timer = true ∧ onCore (g0 t) = true ∧ (g0 t).bound.slide = none ∧ (boundTrap (g0 t)).isNone = true ∧ xrndOpen t.dev 0 = false ∧
      implicitDue (g0 t) = false ∧ groupWaits t.dev 0 = false ∧ halted t.dev 0 = false ∧ (g0 t).tvec.getLsbD 32 = true ∧
      (match unitWriteWhole (modGroup t.dev 0 disarm) 0 (.team 0) (.update 0) (frameAddr (g0 t)) (trapFrame (modGroup t.dev 0 disarm) 0 (disarm (g0 t)) (timerReq (disarm (g0 t)))) t.tick with
        | .ok _ => true | .error _ => false) = true) ∧
    (base p ∧ countsZero (g0 p) = true ∧ coreRuns p.dev 0 0 = true ∧ (teamTask p.dev 0).isSome = true) ∧
    (base (rec_ 1#8) ∧ parkOver (rec_ 1#8).dev (g0 (rec_ 1#8)) = true ∧ slotFree (rec_ 1#8).dev (g0 (rec_ 1#8)) = true ∧
      recreateOn (rec_ 1#8).dev 0 = true ∧ (tget (rec_ 1#8).dev.teams 0).any (fun u => at_ (readBytes u.spad 0 672) 0 1 == 1 && bits (at_ (readBytes u.spad 0 672) 0 8) 8 7 == 16) = true ∧
      (tget (rec_ 2#8).dev.teams 0).any (fun u => at_ (readBytes u.spad 0 672) 0 1 == 1) = false ∧
      goes (exec (.groupRecreate 0) (rec_ 1#8)) (fun t => (g0 t).place == .resident) = true ∧
      goes (exec (.groupRecreate 0) (rec_ 2#8)) (fun t => (g0 t).bound.dead) = true) ∧
    (base v ∧ releaseOpen v.dev = true ∧ (g0 v).bound.svc = [5#16] ∧ (g0 v).bound.svcSlot = none ∧ countsZero (g0 v) = true ∧
      (regBits v.dev (offSvcptr 0) 16 8 + 1) % 256 ≠ regBits v.dev (offSvcptr 0) 0 8 ∧
      goes (exec (.svcRecordWrite 0) v) (fun t => readNat t.dev.bar2 0x100000 8 == 0x10005 && regBits t.dev (offSvcptr 0) 16 8 == 1) = true) := by decide +kernel

/-- HeldGroupsAndReports: a packet at an unmapped address, one past the grid's packets, and one with an illegal word; a group held for
a page that is mapped now; a logged store whose page is mapped now; walks of a page that is mapped; a delay that is over; a record
that a write of HHEAD retires. -/
def codeAt (va : Nat) : State := D (fun d => { d with grids := d.grids.map (fun g => (g.1, { g.2 with task := { g.2.task with code := va } })) })
def isFault : Fetched → Bool | .fault _ _ _ => true | _ => false
def isBad : Fetched → Bool | .bad _ => true | _ => false
def rep (va : Nat) (who : Waiter) (st : RepSt) : Report :=
  { part := 0, oct := 0, page := 0, va := va, acc := .read, lvl := 0, entry := 0, src := 0, unit := unitCore 0, who := [who], st := st, delay := 0 }
def reps (r : Report) : State := D (fun d => { d with reports := [(4, r)] })
theorem witness_held :
    let out := G (fun g => { g with lpc := List.replicate 16 1#32 })
    let ill := run1 0x4E000000
    let h := G (fun g => { g with bound := { g.bound with fault := true } })
    let o := op7 (.st mh (.v 1) (.v 2) 0#2 .n32) [{ newAcc 3 0x1008 0 0 none none [(0, 1#8)] with log := some (0, 0) }]
    let l := D (fun d => withOp7 o { d with cores := tput d.cores 0 { (default : Core) with slog := [(0, 7, 3)] } })
    let w := reps (rep 0x1000 (.group 0) .walk)
    let b := reps (rep 0x1000 (.group 0) (.backoff 0 256))
    let r := reps (rep 0x1000 (.group 0) (.record 0 0))
    let q := fun en tail => { (D id).dev with reg := (regPut (regPut (D id).dev (offFltq 0 + 8) 48 1 en) (offFltq 0 + 8) 16 11 tail).reg }
    let x := rep 0x1000 (.group 0) .walk
    ((recordOf (q 1 0) x.part x.oct x.page).isNone = true ∧ regBits (q 1 1023) (offFltq 0 + 8) 48 1 = 1 ∧ (1023 + 2048 - regBits (q 1 1023) (offFltq 0 + 8) 0 11) % 2048 ≠ 1024 ∧
      (reportPass (q 1 1023) x).2.st = .record 0 1023 ∧ (reportPass (q 0 0) x).2.st = .backoff 0 0 ∧ (reportPass (q 1 1024) { x with delay := 65536 }).2.st = .backoff 65536 65536 ∧
      recordOf { q 1 1 with reports := [(4, { x with st := .record 0 0 })] } x.part x.oct x.page = some 0) ∧
    [codeAt 0x20000000, out, ill].all (fun s => minPc (g0 s) == some ((g0 s).lpc.getD 0 0) && baseReady s.dev 0 (g0 s) && yieldOver s.dev (g0 s) s.tick) = true ∧
    isFault (fetchPacket (codeAt 0x20000000).dev (g0 (codeAt 0)) 0#32 0) = true ∧ isBad (fetchPacket out.dev (g0 out) 1#32 0) = true ∧
    (match fetchPacket ill.dev (g0 ill) 0#32 0 with | .words ws _ _ => stageD (g0 ill) ws == some (0, 1) | _ => false) = true ∧
    portChoice ill.dev (g0 ill).core ((g0 ill).rslot % 2) ill.tick = some 0 ∧ hostOpen ill.dev = true ∧
    packetReady ill.dev 0 (g0 ill) 0#32 (slotsOf (match fetchPacket ill.dev (g0 ill) 0#32 0 with | .words ws _ _ => ws | _ => [])) = true ∧
    goes (exec (.illegalEncoding 0) ill) (fun t => (g0 t).bound.dead) = true ∧
    reissueReady h.dev 0 (g0 h) = true ∧
    (tget (tgetD l.dev.cores 0 default).slog 0 = some (7, 3) ∧ tget l.dev.ops 7 = some o ∧ o.wait = false ∧ waiting l.dev (.logged 7 3) = false ∧
      logParts o 3 ≠ [] ∧ logBehind l.dev 0 7 3 o = false ∧ unitRuns l.dev 0 (unitCore 0) = true ∧
      (match (laneXl l.dev 0 0 l.tick 0x1008#64 1 .write false (logVas o (logParts o 3))).1 with | .ok _ => true | _ => false) = true) ∧
    (walkerRuns w.dev 0 = true ∧ (walkPick w.dev 0).isSome = true ∧ (match walk w.dev 0 0x1000 with | .bad _ _ => false | _ => true) = true) ∧
    (tget b.dev.reports 4).map (fun r => r.st) = some (.backoff 0 256) ∧ 0 ≤ b.dev.cyc ∧ unitRuns b.dev 0 (unitCore 0) = true ∧
    r.dev.pow.on = true ∧ retires (regBits r.dev (offFltq 0 + 8) 0 11) 1 0 = true ∧
    goes (exec (.fltqHheadWrite 0 1#11) r) (fun t => t.dev.reports == []) = true := by decide +kernel

/-- LeavingAndReturning: a team whose groups are gone; a group to be evicted, with a save area inside the partition's octants and with
one outside; one that returns; a marked team that is quiet; one that returns. -/
def quietTeam (st : TeamSt) (base : Nat) : State := G (fun g => { g with place := .parked, bound := { g.bound with park := some 0 } }) (fun d =>
  { regPut d (offCtxbase 0) 24 28 base with teams := d.teams.map (fun u => (u.1, { u.2 with st := st, bars := [(0, { (default : Bar) with recs := [0] })] })) })
theorem witness_leaving :
    let e := D (fun d => { d with groups := [] })
    let v := fun base => G (fun g => { g with place := .evicting, cnt := [3, 0, 0, 0] }) (fun d => regPut d (offCtxbase 0) 24 28 base)
    let r := G (fun g => { g with place := .evicted }) (fun d => { d with parts := d.parts.map (fun q => (q.1, { q.2 with left := [0] })) })
    let b := D (fun d => { d with groups := [], teams := d.teams.map (fun u => (u.1, { u.2 with st := .swapped })), parts := d.parts.map (fun q => (q.1, { q.2 with left := [0] })) })
    let t := fun (s : State) => (tget s.dev.teams 0).getD default
    teamEnds e.dev 0 (t e) = true ∧ ((g0 r).width ≤ 64 ∧ (g0 r).pool ≤ 256 ∧ (g0 r).depth ≤ 256 ∧ (g0 r).links = [] ∧ (g0 r).handler = none) ∧
    (let s := quietTeam .marked 0
     twf s.dev.mem = true ∧ twf (t s).spad = true ∧ twf (t s).am = true ∧ (taskOf s.dev (t s)).spq ≤ 128 ∧ (taskOf s.dev (t s)).amq ≤ 64 ∧
     goes (exec (.teamSwap 0) s) (fun x => at_ (readBytes x.dev.mem (teamImageAt s.dev (t s)) 8) 0 1 == 3) = true) ∧
    evictReady (v 0).dev 0 (g0 (v 0)) = true ∧ saveOk (v 0).dev 0 = true ∧ evictReady (v 0x480).dev 0 (g0 (v 0x480)) = true ∧ saveOk (v 0x480).dev 0 = false ∧
    (g0 r).place = .evicted ∧ firstLeft r.dev 0 0 0 = true ∧ slotFree r.dev (g0 r) = true ∧ (residents r.dev 0).any (fun x => x.rslot == 0) = false ∧ coreRuns r.dev 0 0 = true ∧
    [(0, true), (0x480, false)].all (fun x => let s := quietTeam .marked x.1
      (t s).st == .marked && teamQuiet s.dev 0 (t s) && phaseParked s.dev (t s) && swapFirst s.dev (t s) && coreRuns s.dev 0 0 && saveOk s.dev 0 == x.2) = true ∧
    (t b).st = .swapped ∧ firstLeft b.dev 0 0 0 = true ∧ teamRoom b.dev (t b) = true ∧ coreRuns b.dev 0 0 = true ∧ twf b.dev.mem = true ∧
    goes (exec (.groupEvict 0) (v 0)) (fun t => (g0 t).place == .evicted && tget (tgetD t.dev.cores 0 default).evict 0 == some [3, 0, 0, 0]) = true ∧
    goes (exec (.groupReturn 0) r) (fun t => (g0 t).place == .resident) = true := by decide +kernel

/-- A team whose ring 0 has the kinds, slots and pattern given, over scratchpad from 0 with slots of 16 bytes. -/
def cfg (prod cons c0 : Nat) (feos : Bool := true) : RingCfg :=
  { soff := 0, nslot := 2, ssz := 16, prod := prod, cons := cons, fbar := 0, fben := false, valid := true, feos := feos, pbase := 0x3000#64, tstr := 0, c0 := c0, c1 := 1, c2 := 1,
    c3 := 1, s1 := 0, s2 := 0, s3 := 0 }
def slot (st : SlotSt) (eos : Bool := false) : Slot := { st := st, eos := eos, err := false, rcom := none }
def R (r : Ring) (h : Dev → Dev := id) : State := D (fun d => h { d with teams := d.teams.map (fun t => (t.1, { t.2 with rings := [(0, r)] })) })
def tm (s : State) : Team := (tget s.dev.teams 0).getD default

/-- RingsAndBarriers: a racq whose slot is free, an rpop whose slot is committed with EOS, and a barrier one arrival short. -/
theorem witness_rings :
    let o := fun (w : Instr) => op7 w []
    let racq := o (.racq mh (.s 4) 0#6)
    let rpop := o (.rpop mh (.s 4) 0#6)
    let a := R (newRing (cfg 1 0 0)) (withOp7 racq)
    let b := R { newRing (cfg 1 0 0) with slots := [slot .free, slot .committed true], qix := 1 } (withOp7 rpop)
    let bar : Bar := { arr := 1, cnt := 0, ph := false, pend := 0, recs := [], fed := false, gen := 0 }
    [(a, racq), (b, rpop)].all (fun x => decide (tget x.1.dev.ops 7 = some x.2) && !x.2.wait && !slotBehind x.1.dev 7 x.2 && opReady x.1.dev x.2 && !x.2.gather &&
      (tget (tm x.1).rings 0).isSome && (g0 x.1).place == .resident) = true ∧
    (tget (tm a).rings 0).any (fun r => decide (r.rix < r.slots.length) && slotSt r r.rix == .free) = true ∧ outranked a.dev 7 racq isRacq = false ∧
    (tget (tm b).rings 0).any (fun r => decide (r.qix < r.slots.length) && slotSt r r.qix == .committed) = true ∧ outranked b.dev 7 rpop isRpop = false ∧
    goes (exec (.racqGrant 7) a) (fun t => readS (g0 t) 4 == 0x00FFFF0000000000#64 && ((tget (tm t).rings 0).map (fun r => r.rix)) == some 1) = true ∧
    goes (exec (.rpopGrant 7) b) (fun t => readS (g0 t) 4 == 0x00FFFF0000000011#64 && ((tget (tm t).rings 0).map (fun r => r.qix)) == some 0) = true ∧
    bar.cnt < bar.arr ∧ bar.cnt + 1 = bar.arr ∧ bar.pend = 0 ∧ bar.cnt ≠ bar.arr ∧ ({ bar with cnt := 1 } : Bar).cnt = ({ bar with cnt := 1 } : Bar).arr := by decide +kernel

/-- FeedersAndDrains: a feeder with 20 bytes of its pattern in slots of 16, the same at its end, and drains of a slot of data and of one with EOS. -/
def fits (s : State) : Bool := (ringOf s.dev 0 0).any (fun r => feedReady s.dev 0 0 (tm s) r)
theorem witness_feeders :
    let f := R (newRing (cfg 0 0 20)) (fun d => { d with mem := writeBytes d.mem 0x3000 [7#8, 8#8] })
    let e := R { newRing (cfg 0 0 20) with fed := 20 }
    let q := fun (eos : Bool) => R { newRing (cfg 1 1 20) with slots := [slot .committed eos, slot .free] } (fun d =>
      { d with teams := d.teams.map (fun t => (t.1, { t.2 with spad := [(0, 9#8)] })) })
    [f, e, q false, q true].all fits = true ∧ (fillSlot (newRing (cfg 0 0 20))).isSome = true ∧ patLen (cfg 0 0 20) = 20 ∧
    (match unitReadList 0 (.team 0) f.tick (patAddrs (cfg 0 0 20) 0 0 16) f.dev with | (bs, _, none) => bs.take 2 == [7#8, 8#8] | _ => false) = true ∧
    (match unitWriteList 0 (.team 0) (.remove 0) (q false).tick ((patAddrs (cfg 1 1 20) 0 0 16).zip (readBytes (tm (q false)).spad 0 16)) (q false).dev 0 with | (_, _, none) => true | _ => false) = true ∧
    ((ringOf (q true).dev 0 0).bind drainPick).map (fun x => (x.2.slots.getD x.1 default).eos) = some true ∧
    goes (exec (.feederSlotCommit 0 0) f) (fun t => ((ringOf t.dev 0 0).map (fun r => (slotSt r 0, r.fed))) == some (.committed, 16) && readByte (tm t).spad 1 == 8#8) = true ∧
    goes (exec (.feederSlotCommit 0 0) e) (fun t => (ringOf t.dev 0 0).any (fun r => (r.slots.getD 0 default).eos && r.feosDone)) = true ∧
    goes (exec (.drainSlot 0 0) (q false)) (fun t => readByte t.dev.mem 0x3000 == 9#8 && (ringOf t.dev 0 0).any (fun r => slotSt r 0 == .free)) = true ∧
    goes (exec (.drainSlot 0 0) (q true)) (fun t => readByte t.dev.mem 0x3000 == 0#8) = true := by decide +kernel

/-- NoticeEvents: an ntc whose block is not read, one read whose receiver is the team itself, one whose receiver is gone; queued notices of
0 and of 16 bytes; an acknowledgement. -/
theorem witness_notices :
    let blk : LaneIn := { lane := 0, a := 0, d := 0, run := [0, 0, 16, 0, 0, 0, 1, 0] }
    let o := { op7 (.ntc mh 3#6 (.s 1)) [] with d := 3 }
    let o1 := { o with prog := 1, lanes := [blk] }
    let n := newRing (cfg 2 0 0)
    let x : Notice := { saddr := 0, len := 16, pulled := 0, part := 0, tid := 0, bar := 3, op := 7, fdet := 0 }
    let a := R n (withOp7 o)
    let b := R n (withOp7 o1)
    let c := R n (fun d => { withOp7 o1 d with clusters := [] })
    let p := fun l => R { n with notices := [{ x with len := l }] }
    (ntcOpen a.dev 7).isSome = true ∧ o.prog = 0 ∧ (ntcOpen b.dev 7).isSome = true ∧ o1.prog ≠ 0 ∧ ntcBit o1 (blockOf o1) 0 = some 0 ∧
    (match receiver b.dev (tm b) 0 (blkMemb (blockOf o1)) with | .team i _ => i == 0 | _ => false) = true ∧ (blkRing (blockOf o1) = 0) ∧ n.cfg.prod = 2 ∧ n.notices.length < 16 ∧
    (match receiver c.dev (tm c) 0 (blkMemb (blockOf o1)) with | .gone => true | _ => false) = true ∧
    [p 0, p 16].all fits = true ∧ ((ringOf (p 16).dev 0 0).bind fillSlot).isSome = true ∧
    goes (exec (.noticeDeliver 7 0) b) (fun t => (ringOf t.dev 0 0).any (fun r => r.notices.length == 1)) = true ∧
    goes (exec (.noticeLost 7 0) c) (fun t => regBits t.dev (offNtclost 0) 48 16 == 1) = true ∧
    goes (exec (.noticePull 0 0) (p 0)) (fun t => (ringOf t.dev 0 0).any (fun r => r.notices.isEmpty) && t.dev.acks.length == 1) = true ∧
    tget ({ (run1 0).dev with acks := [(5, (0, 0, 3, 16))] } : Dev).acks 5 = some (0, 0, 3, 16) := by decide +kernel

/-- CachesAndOtherDevices: a dirty superblock; requests of another device in the scope of its octant and in another. -/
theorem witness_other_devices :
    let s := D linked
    let r : RemoteReq := { dev := 9, scope := 5, act := .write [1#8], pa := 0x1008 }
    evictable ({ (run1 0).dev with llc := [(2, { valid := 1, dirty := 1 })] } : Dev) 2 = true ∧ regBits s.dev offDomid 10 1 = 1 ∧
    (List.range 18).all (fun k => linkDown s.dev (unitPort k) || linkBusy s.dev (unitPort k)) = false ∧ remoteHeld s.dev r = false ∧ lateTile s.dev (.dev 0x1008 false) = none ∧
    goes (exec (.remoteAccess { r with act := .rmw (.atom .add false) 5 0, pa := 0x1010 }) s) (fun t => readByte t.dev.mem 0x1010 == 5#8) = true ∧
    remoteAllowed s.dev r = true ∧ remoteAllowed s.dev { r with scope := 6 } = false ∧ RmwForm.xaddS ≠ .vbt ∧
    goes (exec (.remoteAccess r) s) (fun t => readByte t.dev.mem 0x1008 == 1#8) = true ∧
    goes (exec (.remoteAccess { r with scope := 6 }) s) (fun t => readByte t.dev.mem 0x1008 == 0#8) = true := by decide +kernel

/-- EngineCommands, MatrixPasses and Collectives: a dsc that waits, a matrix command before and after its start, a collective engine that is enabled, digests, and a wait past
WDP. -/
theorem witness_engines :
    let o := { op7 (.dsc mh (.v 35) (.s 1)) [] with applied := true }
    let m := op7 (.mxd mh (.s 1)) []
    let c : MxCmd := { op := 7, started := false, rprog := 0, blk := [], tok := true, ra := { slots := [], have_ := 0 }, rb := { slots := [], have_ := 0 }, wait := false }
    let a := D (withOp7 o)
    let b := fun st => D (fun d => withOp7 m { d with cores := tput d.cores 0 { (default : Core) with mq := [{ c with started := st }] } })
    let own : Digest := { tag := 1, op := 0, dt := 0, nrank := 1, rank := 0, len := 4, rlist := [7 * 8 + 9 * 256], scope := 5 }
    let x : Cx := { st := .waiting 0, slot := 0, cmd := [], own := some own, input := [1, 2, 3, 4], digests := [], got := [], sent := 0, wrote := 0, tails := [], dead := false }
    let k := fun (f : Cx → Cx) => D (fun d => { regPut (regPut (linked d) (offCxbase 0) 0 1 1) offWdcfg 0 32 1 with cyc := 5, cx := [(0, f x)] })
    let mv := fun (w : Instr) => amDev { op7 w [] [] with a := 0x1000#64, d := BitVec.ofNat 64 (64 * 2 ^ 32 + (16384 - 64)) }
    [Instr.xmovSt mh (.v 1) (.v 2), .xmovLd mh (.v 1) (.v 2)].all (fun w => (tget (mv w).dev.ops 7).any (fun q => engineOpen (mv w).dev 7 q && q.prog == 0) &&
      decide (16384 ≤ amSize (mv w).dev 0) && goes (exec (.engineCommandComplete 7) (mv w)) (fun t => (tget t.dev.ops 7).isNone && halted t.dev 0 == false)) = true ∧
    (unitWrite (mv (.xmovSt mh (.v 1) (.v 2))).dev 0 (.team 0) (.remove 0) 0x1000 (List.replicate 64 0#8) 0).2.2.isNone = true ∧
    (unitReadList 0 (.team 0) 0 ((List.range 64).map (fun i => 0x1000 + i)) (mv (.xmovLd mh (.v 1) (.v 2))).dev).2.2.isNone = true ∧
    engineOpen a.dev 7 o = true ∧ o.applied = true ∧
    [false, true].all (fun st => (mxHead (b st).dev 0).any (fun y => mxRuns (b st).dev 0 y.1 y.2 && y.1.started == st && opReady (b st).dev y.2 && y.1.tok)) = true ∧
    halted (run1 0).dev 0 = false ∧ regBits (k id).dev (offCxbase 0) 0 1 = 1 ∧ cxRuns (k id).dev 0 = true ∧ (cxOf (k (fun x => { x with st := .idle })).dev 0).st = .idle ∧
    (octAsg (k id).dev 0 = true ∧ halted (k id).dev (octPn (k id).dev 0) = false ∧ regBits (k id).dev offDomid 10 1 = 1 ∧ own.scope ≠ 0#16 ∧
      own.scope.toNat = regBits (k id).dev (offPnet 0) 32 16 ∧ rankDev (own.rlist.getD own.rank 0) ≠ regBits (k id).dev offDomid 0 9) ∧
    (cxOf (k id).dev 0).st = .waiting 0 ∧ (cxOf (k id).dev 0).own = some own ∧ cxMoves x own = true ∧
    cxRuns (k (fun x => { x with st := .written })).dev 0 = true ∧ cxMoves { x with own := some { own with nrank := 2 } } { own with nrank := 2 } = false ∧ regBits (k id).dev offWdcfg 0 32 ≠ 0 ∧
    0 + regBits (k id).dev offWdcfg 0 32 ≤ (k id).dev.cyc := by decide +kernel

/-- The device of run1 with task descriptors at 0x8000 (an ordinary one of 16 lanes) and 0x8400 (a material one of 64), and galley 0's
descriptor at 0x9000. -/
def withTasks (d : Dev) : Dev :=
  let m := writeNat (writeNat (writeNat d.mem 0x800C 1 4) 0x8010 1 4) 0x8014 24 4
  let m := writeNat (writeNat (writeNat (writeNat m 0x840C 1 4) 0x8410 1 4) 0x8414 26 4) 0x8420 16 4
  let m := writeNat (writeNat (writeNat m 0x9000 0x8400 8) 0x9008 0xA000 8) 0x9010 0xB000 8
  { regPut d (offGtbase 0) 6 50 (0x9000 / 64) with mem := writeNat m 0x9018 64 4 }
def record (desc : DWord) (st : HeadSt) : LaunchRec := { desc := desc, compl := 0, cval := 0, arg := List.replicate 40 0#8, node := none, st := st }
def P (f : Part → Part) (h : Dev → Dev := id) : State := D (fun d => h (withTasks { d with parts := d.parts.map (fun q => (q.1, f q.2)) }))
def Q (r : LaunchRec) (h : Dev → Dev := id) : State := P (fun q => { q with queues := [(3, [r])] }) (fun d => h (regPut d (offTdqcfg 0 3) 8 1 1))

/-- DispatcherAndGalleyEvents: a record between HEAD and TAIL; a head that reads and one that is refused; a replay of a graph of one node; a
retired node and a run that is at its end; a run stalled past WDP; a partition with a batch to launch and with none. -/
def grun : GraphRun := { hdr := 0xC000, nodes := 0xC100, nnode := 1, gen := 0, left := 1, compl := 0, cval := 0, started := [], stall := some 0, retired := [], waiting := [], dead := false }
def batch1 : Galley := { newGalley with ready := [], batches := [{ idxs := [0], tid := none, freed := false }] }
theorem witness_dispatcher :
    let a := D (fun d => regPut d (offQptr 0 3) 0 8 1)
    let ok := Q (record 0x8000 .unread)
    let no := Q (record 3 .unread)
    (assigned a.dev 0 = true ∧ halted a.dev 0 = false ∧ regBits a.dev (offQptr 0 3) 16 8 ≠ regBits a.dev (offQptr 0 3) 0 8 ∧ (queueOf a.dev 0 3).length < 256 ∧
      (tget a.dev.parts 0).isSome = true) ∧
    queueOf ok.dev 0 3 = [record 0x8000 .unread] ∧ waiting ok.dev (.head 0 3) = false ∧
    (match readHead ok.dev 0 (record 0x8000 .unread) ok.tick with | .ok _ => true | _ => false) = true ∧
    (match readHead no.dev 0 (record 3 .unread) no.tick with | .error (.refuse c _) => c == 4 | _ => false) = true ∧
    unitRuns ok.dev 0 (unitOct (servingOct ok.dev 0) 0) = true ∧
    firstLaunch (enqueueWaiting (completeGrids ok.dev 0 ok.tick) 0 ok.tick) 0 ok.tick = none := by decide +kernel
theorem witness_graphs :
    let g := Q (record 0xC001 (.replay 0xC000)) (fun d => { d with mem := writeNat (writeNat d.mem 0xC000 0xC100 8) 0xC008 1 4 })
    let r := fun (x : GraphRun) => P (fun q => { q with runs := [(2, x)] }) (fun d => { regPut d offWdcfg 0 32 1 with cyc := 5 })
    (queueOf g.dev 0 3 = [record 0xC001 (.replay 0xC000)] ∧ queueOn g.dev 0 3 = true ∧ graphBusy g.dev 0 0xC000 = false ∧
      firstLaunch g.dev 0 g.tick = none ∧ (turns g.dev 0).find? (fun h => (tryHead g.dev 0 g.tick h).isSome) = some (3, record 0xC001 (.replay 0xC000)) ∧
      replayReady g.dev 0 3 (record 0xC001 (.replay 0xC000)) = true ∧ (tryHead g.dev 0 g.tick (3, record 0xC001 (.replay 0xC000))).isSome = true ∧
      (match replay (putQueue g.dev 0 3 []) 0 0xC000 (record 0xC001 (.replay 0xC000)) g.tick with | (_, none) => true | _ => false) = true) ∧
    [{ grun with retired := [0] }, { grun with left := 0 }].all (fun x => decide ((tget (r x).dev.parts 0).bind (fun q => tget q.runs 2) = some x) && !x.dead &&
      !waiting (r x).dev (.graph 0 2)) = true ∧
    (let n := D (fun d => { d with mem := writeNat d.mem 0xC110 1 2 })
     (match readNode n.dev 0 0xC100 0 0 with | .ok (x, d1) => (match readSuccs d1 0 x 0 with | .ok ([], _) => true | _ => false) | .error _ => false) = true) ∧
    (regBits (r grun).dev offWdcfg 0 32 ≠ 0 ∧ 0 + regBits (r grun).dev offWdcfg 0 32 ≤ (r grun).dev.cyc ∧ runStalled (r grun).dev 0 2 grun = true) := by decide +kernel
/-- The device with galley 0 in a state. -/
def gal (x : Galley) : State := P (fun q => { q with galleys := [(0, x)] }) (fun d => { regPut d offWdcfg 0 32 1 with cyc := 5 })
theorem witness_galleys :
    let y : GalDesc := { addr := 0x9000, task := 0x8400, rbase := 0xA000, sbase := 0xB000, nrec := 64, flush := 1, argp := 0 }
    (galley (gal { newGalley with desc := some y, ready := [0] }).dev 0 0).bad = false ∧ waiting (gal { newGalley with desc := some y, ready := [0] }).dev (.galley 0 0) = false ∧
    (match galDesc (gal { newGalley with desc := some y, ready := [0] }).dev 0 0 0 with | .ok (z, _) => z == y | .error _ => false) = true ∧
    (galley (gal { newGalley with desc := some y, ready := [0] }).dev 0 0).lastCommit + y.flush ≤ 5 ∧
    (match firstLaunch (gal batch1).dev 0 0 with | some (.go _ _ _ _ _ _ _) => true | _ => false) = true ∧
    (match firstLaunch (P (fun q => { q with galleys := [(1, batch1)] })).dev 0 0 with | some (.fail _) => true | _ => false) = true ∧
    (galley (gal { newGalley with waitSince := some 0 }).dev 0 0).waitSince = some 0 := by decide +kernel
theorem witness_batch : (firstLaunch (enqueueWaiting (completeGrids (gal batch1).dev 0 0) 0 0) 0 0).isSome = true := by decide +kernel

/-- DrawEvents: a raster draw and one that waits for its slot; OPEN, CLOSE and RELEASE of a set of one tile, and a CLOSE of a set that is not open; a
draw whose work is done; a CLE with a closed tile. -/
def desc0 : DrawDesc :=
  { addr := 0, op := 0, cull := 0, missrec := false, prio := 0, ecls := 0, rgal := 0, tset := 0, itab := 0, ninst := 0, vw := 8, vh := 8, list := 0, nlist := 0, nsu := 1, subase := 0,
    gset := 0, stat := 0x7000, tbase := 0x10000, tw := 1, th := 1, spp := 1 }
def draw (op : Nat) : Draw :=
  { part := 0, d := { desc0 with op := op }, oct := 0, compl := 0, cval := 0, node := none, li := 0, tri := 0, blocks := [], n := 0, tris := 0, dropped := 0, culled := 0, nblocks := 0, recs := 0,
    slots := [], open_ := [], rast := [], took := false, keys := [], set := [], late := 0, teams := [], ident := 0, slot := 0, setup := [], slotWait := false,
    full := false, dead := false }
def tile (st : TileSt) : Tile :=
  { part := 0, idx := 0, slice := 0, pas := [0x10000], size := 16384, st := st, cnt := 0, late := 0, scan := 0, samples := [], todo := [], gal := none, resv := [],
    full := none, dead := false }
def W (w : Draw) (ts : Tab Tile := []) : State := D (fun d => { d with draws := [(2, w)], tiles := ts })
/-- CachesAndOtherDevices: a vbt of another device on a tile that no longer takes samples. -/
theorem witness_late_vbt :
    let v := D (fun d => { linked d with tiles := [(0x1000, { tile .closed with pas := [0x1000] })] })
    let r : RemoteReq := { dev := 9, scope := 5, act := .rmw .vbt 0 1, pa := 0x1010 }
    lateTile v.dev (.dev 0x1010 false) = some 0x1000 ∧
    goes (exec (.remoteAccess r) v) (fun t => (tget t.dev.tiles 0x1000).any (fun x => x.late == 1) && t.dev.mem == v.dev.mem) = true := by decide +kernel
theorem witness_draws :
    let tiles := fun (s : State) (w : Draw) => match setPas (if w.d.op = 3 then retireMaterial s.dev 0 s.tick else s.dev) 0 w.d s.tick with | .ok (t, _) => t | _ => []
    let keys := [0x10000]
    let r := draw 0
    let o := draw 1
    let c := draw 2
    let e := draw 3
    let k := { c with took := true, keys := keys }
    rasterOpen (W r).dev 2 r = true ∧ r.slotWait = false ∧ r.full = false ∧ rasterOpen (W { r with slotWait := true }).dev 2 { r with slotWait := true } = true ∧
    tiles (W o) o = [[0x10000]] ∧ drawOpenFor (W o).dev 2 1 o = true ∧ dirRoom (W o).dev keys = true ∧
    (W o).dev.tiles.any (fun t => (tiles (W o) o).any (fun pas => pas.any (fun a => tileMeets (stretch o.d) a t.2))) = false ∧
    drawOpenFor (W c).dev 2 2 c = true ∧ rasterAhead (W c).dev c = false ∧ allIn (W c [(0x10000, tile .opened)]).dev keys .opened = true ∧ allIn (W c).dev keys .opened = false ∧ tiles (W c) c = [[0x10000]] ∧ tiles (W e) e = [[0x10000]] ∧ allIn (W e).dev keys .shaded = false ∧
    drawOpenFor (W e).dev 2 3 e = true ∧ allIn (W e [(0x10000, tile .shaded)]).dev keys .shaded = true ∧
    (let q := { r with took := false, li := 0, d := { desc0 with nlist := 0 } }
     rasterOpen (W q).dev 2 q = true ∧ goes (exec (.drawRaster 2) (W q)) (fun t => (tget t.dev.draws 2).any (fun x => x.took)) = true) ∧
    (let q := { o with took := true, d := { desc0 with op := 1, stat := 0 } }
     drawDone (W q).dev q = true ∧ goes (exec (.drawRetire 2) (W q)) (fun t => t.dev.draws.isEmpty) = true) ∧
    (let x := { tile .closed with samples := List.replicate 4 { px := 0, py := 0, val := 0, cls := none } }
     cleTile (W k [(0x10000, x)]).dev k 0 = some (0x10000, x) ∧ cleOpen (W k [(0x10000, x)]).dev 2 0 k = true) ∧
    drawDone (W { o with took := true }).dev { o with took := true } = true ∧ waiting (W o).dev (.draw 2) = false ∧
    cleTile (W k [(0x10000, tile .closed)]).dev k 0 = some (0x10000, tile .closed) ∧ cleOpen (W k [(0x10000, tile .closed)]).dev 2 0 k = true ∧
    goes (exec (.drawOpen 2) (W o)) (fun t => (tget t.dev.tiles 0x10000).any (fun x => x.st == .opened)) = true ∧
    goes (exec (.drawClose 2) (W c [(0x10000, tile .opened)])) (fun t => (tget t.dev.tiles 0x10000).any (fun x => x.st == .closed)) = true ∧
    goes (exec (.drawRelease 2) (W e [(0x10000, tile .shaded)])) (fun t => t.dev.tiles.isEmpty) = true := by decide +kernel

/-- EventsAreAccepted: a halting event of partition 0 with its queue off, on with room, on and full, and once it is halted. -/
def ev (kind : Nat) : Event := { held := false, unit := unitCore 0, kind := kind, cause := 2, detail := 0, cyc := 0 }
def E (h : Dev → Dev) (kind : Nat := 3) : State := D (fun d => h { d with events := [(0, [ev kind])] })
def halt0 (d : Dev) : Dev := regPut d (offHaltst 0) 63 1 1
theorem witness_events :
    let on := fun (d : Dev) => regPut d (offEvq 0 + 8) 0 1 1
    let full := fun (d : Dev) => regPut (on d) (offEvq 0 + 8) 8 8 1
    [E id, E on, E full, E halt0, E id 0].all (fun s => (eventNext s.dev 0 0).isSome) = true ∧ halted (E halt0).dev 0 = true ∧
    regBits (E id).dev (offEvq 0 + 8) 0 1 = 0 ∧ regBits (E on).dev (offEvq 0 + 8) 0 1 = 1 ∧
    (regBits (E on).dev (offEvq 0 + 8) 16 8 + 1) % 256 ≠ regBits (E on).dev (offEvq 0 + 8) 8 8 ∧
    (regBits (E full).dev (offEvq 0 + 8) 16 8 + 1) % 256 = regBits (E full).dev (offEvq 0 + 8) 8 8 ∧
    goes (exec (.eventAccept 0 0) (E on)) (fun t => halted t.dev 0 && readNat t.dev.host 8 8 == 3 + 2 * 2 ^ 8 + unitCore 0 * 2 ^ 16) = true ∧
    goes (exec (.eventAccept 0 0) (E full)) (fun t => regBits t.dev (offEvq 0 + 8) 32 8 == 1) = true := by decide +kernel

/-- StopsAndWatchdogs: a unit of a halted partition that has not stopped, one that has, one that is late; an aborted packet; a unit without
progress and a credit not returned. -/
theorem witness_stops :
    let h := fun (f : Part → Part) (c : Nat) => D (fun d => { regPut (regPut (halt0 d) (offHaltst 0) 0 16 2) (offStopbase 0) 0 1 1 with cyc := c, parts := d.parts.map (fun q => (q.1, f q.2)) })
    let u := unitCore 0
    let w := D (fun d => { regPut d offWdcfg 0 32 100 with cyc := 65536, progress := [(u, 5)], links := { d.links with credit := [(32 * 3, 0)], aborts := [{ leaf := 3, part := 0, flits := 2 }] } })
    unitPart (h id 9).dev u = some 0 ∧ halted (h id 9).dev 0 = true ∧ (tget (h id 9).dev.parts 0).any (fun q => (tget q.stopped u).isNone) = true ∧ stopArea (h id 9).dev 0 = true ∧
    (tget (h (fun q => { q with stopped := [(u, 3)] }) 9).dev.parts 0).any (fun q => tget q.stopped u == some 3 && !q.written.contains u) = true ∧
    stopLate (h id 20000).dev 0 u = true ∧ w.dev.links.aborts[0]? = some { leaf := 3, part := 0, flits := 2 } ∧ tget w.dev.progress u = some 5 ∧
    regBits w.dev offWdcfg 0 32 ≠ 0 ∧ 5 + regBits w.dev offWdcfg 0 32 ≤ w.dev.cyc ∧ octOf w.dev 0 (unitOctant u) = true ∧ unitRuns w.dev 0 u = true ∧
    tget w.dev.links.credit (32 * 3 + 0) = some 0 ∧ 0 + 65536 ≤ w.dev.cyc ∧ unitsOf w.dev 0 ≠ [] ∧
    goes (exec (.stopRecordWrite u) (h (fun q => { q with stopped := [(u, 3)] }) 9)) (fun t => regBits t.dev (offHaltst 0) 0 16 == 1) = true := by decide +kernel

/-- ErrorEvents: an error in an assigned octant and one outside any; a test that is ready; a link lane that works, and one in retraining. -/
theorem witness_errors :
    let loc : DWord := 0x8000000000000000#64
    let t : SelfTest := { queue := 8, unit := 1048, struct_ := 0, corrected := true, loc := 0 }
    let r := D (fun d => { d with tests := [t], links := { d.links with retrain := [(1048, 3)] } })
    (run1 0).dev.pow.on = true ∧ storageAt (unitCore 0) loc = true ∧ errorQueue (run1 0).dev (unitCore 0) loc 0 < 8 ∧ 8 ≤ errorQueue (run1 0).dev (unitCore 191) loc 0 ∧
    (D (fun d => { d with tests := [{ t with late := true }] })).dev.tests[0]? = some { t with late := true } ∧
    testReady (D (fun d => { d with tests := [{ t with late := true }] })).dev { t with late := true } = true ∧ parityAt 0 8 = true ∧ parityAt 1067 10 = true ∧ parityAt 1 8 = false ∧
    r.dev.tests[0]? = some t ∧ testReady r.dev t = true ∧ 2 ≤ r.dev.pow.stage ∧ laneWorks r.dev 1066 0 = true ∧ (1066, 0) ∉ r.dev.links.retrain ∧ (1048, 3) ∈ r.dev.links.retrain := by
  decide +kernel

/-- AssignmentAndRelease: each row of STATUS, a release that may clear, and an octant whose clearing time is over. -/
theorem witness_assignment :
    let v := fun op pn os => BitVec.ofNat 32 (op * 4096 + pn * 256 + os)
    let early := D (fun d => { d with pow := { d.pow with stage := 1 } })
    let rel := P (fun q => { q with releasing := true })
    let clr := P (fun q => { q with releasing := true, clearing := some 0 }) (fun d => { regPut (regPut d offOctpart 7 1 0) offOctpart 6 1 1 with cyc := 50331648 })
    let st := fun (i : Instr) (s : State) => match exec i s with | .next t => regBits t.dev offOctcmd 16 8 | _ => 99
    st (.octcmdNone (v 0 0 0)) (D id) = 0 ∧ st (.octcmdNone (v 3 0 0)) (D id) = 3 ∧ st (.octcmdAssign (v 1 1 6)) early = 1 ∧ st (.octcmdAssign (v 1 1 0)) (D id) = 3 ∧
    st (.octcmdAssign (v 1 1 3)) (D id) = 1 ∧ st (.octcmdAssign (v 1 0 6)) (D id) = 2 ∧ st (.octcmdAssign (v 1 1 6)) (D id) = 0 ∧
    st (.octcmdRelease (v 2 1 0)) (D id) = 2 ∧ st (.octcmdRelease (v 2 0 0)) (D id) = 0 ∧
    goes (exec (.octcmdRelease (v 2 0 0)) (D id)) (fun t => !octAsg t.dev 0 && octClr t.dev 0 && halted t.dev 0) = true ∧
    (tget rel.dev.parts 0).any (fun q => clearReady rel.dev 0 q) = true ∧ clearingPart clr.dev 0 = some (0, 0) ∧ octClr clr.dev 0 = true ∧ clr.dev.links.octLost = [] ∧
    0 + 50331648 ≤ clr.dev.cyc ∧ goes (exec (.octantClearDone 0) clr) (fun t => !octClr t.dev 0 && readByte t.dev.mem 0x20000 == 0#8) = true := by decide +kernel

/-- ManagementWrites and ManagementReads: each register's writes at the edge of what they may do. -/
theorem witness_management :
    let off := D (fun d => { d with pow := { d.pow with on := false } })
    let busy := D (fun d => regPut d offTlbinv 63 1 1)
    let svc := G (fun g => { g with bound := { g.bound with svc := [5#16], svcSlot := some 2 } }) (fun d => { d with bar2 := writeNat d.bar2 (0x100000 + 64 * 2 + 48) 77 8 })
    let q := D (fun d => { d with pow := { d.pow with quote := some (0, []) } })
    let val := fun (i : Instr) (s : State) (r : Nat) => match exec i s with | .next t => regGet t.dev r | _ => 0
    (D id).dev.pow.on = true ∧ off.dev.pow.on = false ∧ val (.dstoreWrite 1 32#64) (D id) (offDstore 1) = 32#64 ∧ val (.dstoreWrite 1 33#64) (D id) (offDstore 1) = 0#64 ∧
    val (.dstoreWrite 0 32#64) (D id) (offDstore 0) = 0#64 ∧ regBits busy.dev offTlbinv 63 1 = 1 ∧ regBits (D id).dev offTlbinv 63 1 ≠ 1 ∧ busy.dev.inval = [] ∧
    val (.qptrTailWrite 0 3 5#8) (D id) (offQptr 0 3) = 5#64 ∧
    val (.qptrTailWrite 0 3 4#8) (D (fun d => regPut d (offQptr 0 3) 0 8 5)) (offQptr 0 3) = 5#64 ∧
    svcGroup svc.dev 0 2 = some (0, g0 svc) ∧ halted svc.dev 0 = false ∧ goes (exec (.svcrepWrite 0 2#8) svc) (fun t => readS (g0 t) 0 == 77#64 && (g0 t).bound.svc.isEmpty) = true ∧
    (let e := G (fun g => { g with place := .evicted, bound := { g.bound with svc := [5#16], svcSlot := some 2 } }) (fun d => { d with bar2 := writeNat d.bar2 (0x100000 + 64 * 2 + 48) 77 8 })
     svcGroup e.dev 0 2 = some (0, g0 e) ∧ goes (exec (.svcrepWrite 0 2#8) e) (fun t => readNat t.dev.mem (imageAt e.dev 0 (g0 e) + 128) 8 == 77) = true) ∧
    goes (exec .tlbinvDone busy) (fun t => regBits t.dev offTlbinv 63 1 == 0) = true ∧
    val (.domidWrite 0x407#64) (D id) offDomid = 0x407#64 ∧ val (.domidWrite 0x408#64) (D linked) offDomid = 0x407#64 ∧
    assigned (D id).dev 0 = true ∧ goes (exec (.hreqWrite 0) (D id)) (fun t => halted t.dev 0) = true ∧ regBits (D id).dev offAttcmd 4 1 ≠ 1 ∧ (0x8#64).getLsbD 3 = true ∧
    q.dev.pow.quote = some (0, []) ∧ rwMask offWdcfg = some 0xFFFFFFFF#64 ∧ val (.registerWrite offWdcfg 0x1234567800000005#64 true) (D id) offWdcfg = 5#64 ∧
    val (.registerWrite offWdcfg 7#64 false) (D id) offWdcfg = 7#64 ∧ val (.registerWrite (offPwrbud + 4) 0#64 false) (D id) offPwrbud = 0x38005A00#64 ∧
    halfHeld (offOctcmd + 4) = false ∧ halfHeld 0x0 = false ∧ halted (D halt0).dev 0 = true ∧ inPart (D halt0).dev 0 (regBits (D halt0).dev offDbgaddr 3 49 * 8) = true ∧
    goes (exec (.evqMissRead 0) (D (fun d => regPut d (offEvq 0 + 8) 32 8 9))) (fun t => t.dev.readOut == 0x900000000#64 && regBits t.dev (offEvq 0 + 8) 32 8 == 0) = true := by decide +kernel

/-- PowerEvents: the device without power and at each stage, and the sensors at the edges of R477. -/
theorem witness_power :
    let on := D (fun d => { d with pow := { d.pow with stage := 1 } })
    goes (exec (.powerTrip ⟨1, 110⟩) (D id)) (fun t => !t.dev.pow.on && t.dev.pow.trip == 2) = true ∧
    goes (exec (.powerTrip ⟨0, 2401⟩) (D id)) (fun t => t.dev.pow.on && tget t.dev.pow.since 0 == some 0) = true ∧
    goes (exec (.powerTrip ⟨0, 2401⟩) (D (fun d => { d with cyc := 12500, pow := { d.pow with since := [(0, 0)] } }))) (fun t => !t.dev.pow.on) = true ∧
    goes (exec (.powerTrip ⟨2, 50⟩) (D id)) (fun t => t.dev.pow.on) = true ∧
    goes (exec (.overcurrentOff 1791) (D (fun d => { regPut d offPwrst 0 2 3 with cyc := 1250000, pow := { d.pow with below := some 0 } }))) (fun t =>
      regBits t.dev offPwrst 0 2 == 0) = true ∧
    goes (exec (.overcurrentOff 1791) (D (fun d => regPut d offPwrst 0 2 3))) (fun t => regBits t.dev offPwrst 0 2 == 3 && t.dev.pow.below == some 0) = true ∧
    State.reset.dev.pow.on = false ∧ on.dev.pow.on = true ∧ on.dev.pow.stage = 1 ∧ 2000 < (2001#16).toNat ∧ (1791#16).toNat < 1792 ∧ regBits (D id).dev offPwrbud 8 8 = 0x5A ∧
    goes (exec (.overcurrentOn 2001#16) (D id)) (fun t => regGet t.dev offPwrst == 0x07D10003#64) = true ∧
    goes (exec (.thermalThrottleOn 0x5F#8) (D id)) (fun t => regGet t.dev offPwrst == 0x5F00000006#64) = true ∧
    goes (exec (.dieHotOff 0x59#8) (D id)) (fun t => regGet t.dev offPwrst == 0x5900000000#64) = true ∧ holdsSlot (g0 (D id)) = true ∧
    goes (exec .tokenCycle (D id)) (fun t => t.dev.cyc == 1 && (g0 t).gcyc == 1#64) = true := by decide +kernel

/-! ## The engines' scripts, commands and draws -/

/-- A memory of numbers, each at an address and of some bytes; every other byte is 0. -/
def memOf : List (Nat × Nat × Nat) → Nat → Byte
  | [], _ => 0#8
  | (a, n, v) :: rest, x => if a ≤ x ∧ x < a + n then (leBytes v n).getD (x - a) 0#8 else memOf rest x
/-- A script on a memory ends with a result; and fails by a reason. -/
def endsAs {α : Type} [DecidableEq α] (m : Nat → Byte) (s : Script α) (x : α) : Bool := match (scriptOn s m).1 with
  | .ok y => y == x
  | .error _ => false
def failsAs {α : Type} (m : Nat → Byte) (s : Script α) (reason : Nat) : Bool := match (scriptOn s m).1 with
  | .error r => r == some reason
  | .ok _ => false
def laneOf (run : List Word) : LaneIn := { lane := 3, a := 0#64, d := 0#128, run := run }

/-- MemoriesStayCanonical: a state whose memories are canonical, and a step of it that answers next. -/
theorem witness_canonical : Canonical (run1 addW).dev ∧ goes (step (run1 addW)) = true := by
  refine ⟨⟨by decide +kernel, by decide +kernel, by decide +kernel, fun v m h => ?_⟩, by decide +kernel⟩
  have e : (run1 addW).dev.peers = [] := by decide +kernel
  rw [e] at h
  cases h

/-- RayQueries: the ray from (1/4, 1/4, -1) along z meets the triangle (0,0,0), (1,0,0), (0,1,0) at t = 1, u = v = 1/4, from behind
(R288, R289: det = -1), and its box; from (1, 1, -1) it meets the box alone; a ray with a NaN, and one culled. -/
def tuMem : Nat → Byte := memOf [(0x10C0, 8, 2 ^ 58 + 2 ^ 57 + 0x2000), (0x100C, 4, 0x3F800000), (0x1010, 4, 0x3F800000), (0x2004, 4, 1), (0x2008, 4, 2), (0x2010, 8, 0x7001),
  (0x4010, 4, 0x3F800000), (0x4024, 4, 0x3F800000)]
def tu (flags : Nat) : TuHdr := { root := 0x1000, vbase := 0x4000, nvert := 3, flags := flags, reflist := 0, nref := 0 }
def ray (x : Word) (tmin : Word := 0#32) : LaneIn := laneOf [x, x, 0xBF800000#32, tmin, 0#32, 0#32, 0x3F800000#32, 0x41200000#32]
theorem witness_rays :
    let unitBox := [0, 0, 0, 0x3F800000, 0x3F800000, 0]
    let tri := [[0, 0, 0], [0x3F800000, 0, 0], [0, 0x3F800000, 0]]
    let z : Vec3 := ⟨0, 0, 1⟩
    boxTest ⟨1/4, 1/4, -1⟩ z unitBox (.q 0) (.q 10) = some (.q 1) ∧ boxTest ⟨2, 1/4, -1⟩ z unitBox (.q 0) (.q 10) = none ∧
    boxTest ⟨2, 1/4, -1⟩ z [0x7FC00000, 0, 0, 0, 0, 0] (.q 0) (.q 10) = some (.q 0) ∧
    triTest ⟨1/4, 1/4, -1⟩ z tri (.q 0) (.q 10) = some { t := 1, u := 1/4, v := 1/4, front := false } ∧
    triTest ⟨1, 1, -1⟩ z tri (.q 0) (.q 10) = none ∧ triTest ⟨1/4, 1/4, -1⟩ z [[0x7F800000, 0, 0], [0, 0, 0], [0, 0, 0]] (.q 0) (.q 10) = none ∧
    natOn tuMem 0x10C0 8 = 2 ^ 58 + 2 * 2 ^ 56 + 0x2000 ∧
    endsAs tuMem (traceLane (tu 0) 8 0 (ray 0x3E800000#32)) [(0, 0x3F800000), (1, 0x3E800000), (2, 0x3E800000), (3, 0x7002), (4, 0), (5, 0x10001), (6, 0), (7, 0)] = true ∧
    endsAs tuMem (traceLane (tu 2) 8 0 (ray 0x3E800000#32)) [(0, 0x7F800000), (1, 0), (2, 0), (3, 0), (4, 0), (5, 0x10001), (6, 0), (7, 0)] = true ∧
    endsAs tuMem (traceLane (tu 0) 8 0 (ray 0x3F800000#32)) [(0, 0x7F800000), (1, 0), (2, 0), (3, 0), (4, 0), (5, 0x10001), (6, 0), (7, 0)] = true ∧
    endsAs tuMem (traceLane (tu 0) 8 0 (ray 0x40000000#32)) [(0, 0x7F800000), (1, 0), (2, 0), (3, 0), (4, 0), (5, 1), (6, 0), (7, 0)] = true ∧
    endsAs tuMem (traceLane (tu 0) 8 0 (ray 0x3E800000#32 0x7FC00000#32)) [(0, 0x7F800000), (1, 0), (2, 0), (3, 0), (4, 0), (5, 0), (6, 0), (7, 0)] = true ∧
    (let w : Walk3 := { stack := (ERat.q 0, { count := 0, kind := 1, addr := 0x1000 }) :: List.replicate 512 (ERat.q 0, default), best := none, visits := 0, tests := 0 }
     ERat.lt (walkFar w (.q 10)) (.q 0) = false ∧ 512 < (nodeHits (bytesOn tuMem 0x1000 256) ⟨1/4, 1/4, -1⟩ z (.q 0) (walkFar w (.q 10))).length + 512 ∧
       failsAs tuMem (walkGo (tu 0) ⟨1/4, 1/4, -1⟩ z (.q 0) (.q 10) 4 w) 0x2B = true) ∧
    -- ovq: a box that touches the triangle's at x = 1; a sphere of radius 1 about (2, 0, 0); and refit's box of the triangle
    ovqMeets (laneOf [0x3F800000#32, 0#32, 0#32, 0x40000000#32, 0#32, 0#32, 0#32]) unitBox = true ∧ ovqMeets (laneOf [0x40000000#32, 0#32, 0#32, 0x3F800000#32, 0#32, 0#32, 1#32]) unitBox = true ∧
    ovqMeets (laneOf [0x40000000#32, 0#32, 0#32, 0x3F7FFFFF#32, 0#32, 0#32, 1#32]) unitBox = false ∧ boxPoints tri tri = some unitBox ∧
    endsAs tuMem (refitBox (tu 0) { count := 1, kind := 2, addr := 0x2000 }) (some unitBox) = true := by decide +kernel

/-- MarchesAndSamples: vmarch: a ray with a NaN; one cell with no majorant; a flight that has no draw left, that leaves its cell, that
collides and that is scaled. attr: KIND 0, an instance, an attribute count and a cluster out of range, a degenerate triangle, and the
centre of a viewport 2 by 2, half way between the corners 1 and 2 of the triangle (-1,-1), (1,-1), (-1,1) (R299). tex: one texel of 2 by 2; four quarters. -/
def medMem : Nat → Byte := memOf [(0x5000, 2, 0x3C00), (0x5100, 2, 0x3C00), (0x6000, 4, 0x80000000), (0x6004, 4, 0x40000000)]
def med (maj limit : Nat) (ratio : Bool) : Medium :=
  { maj := maj, den := 0x5100, nx := 1, ny := 1, nz := 1, f := 1, sigma := 0x3F800000, ratio := ratio, given := true, xf := List.replicate 12 0, key := 0x6000, limit := limit, ndraw := 2 }
def attrMem : Nat → Byte := memOf [(0x1000, 8, 0x2000), (0x1008, 4, 1), (0x100C, 4, 0x10000), (0x1020, 8, 0x2000), (0x1028, 4, 1), (0x102C, 4, 0x110000), (0x2000, 8, 0x3000), (0x2008, 8, 0x4000),
  (0x4001, 1, 1), (0x4002, 1, 2),
  (0x3000, 4, 0xBF800000), (0x3004, 4, 0xBF800000), (0x300C, 4, 0x3F800000), (0x3020, 4, 0x3F800000), (0x3024, 4, 0xBF800000), (0x302C, 4, 0x3F800000), (0x3030, 4, 0x3F800000),
  (0x3040, 4, 0xBF800000), (0x3044, 4, 0x3F800000), (0x304C, 4, 0x3F800000), (0x3050, 4, 0x40000000), (0x7004, 4, 0x41000000)]
def pixel (idLo idHi : Nat) : LaneIn := laneOf [BitVec.ofNat 32 idLo, BitVec.ofNat 32 idHi, 0x3F800000#32, 0x3F800000#32]
theorem witness_marches :
    let w : March := { t := 0, k := 0, tr := 0x3F800000 }
    let axes : List Axis := List.replicate 3 { o := 0, d := 0x3F800000, n := 1 }
    let fly := fun (limit : Nat) (ratio : Bool) (k te : Nat) => (scriptOn (flight (med 0x5000 limit ratio) axes [0, 0, 0] 0 0x3F800000 te { w with k := k }) medMem).1
    (axes.all (fun a => cellIdx a 0 == 0) && ltF 0 0x3F800000 && !ltF 0x3F800000 0x3F800000 && !ltF 0 0) = true ∧
    endsAs medMem (marchGo (med 0x5800 0 false) axes 0 0x3F800000 4 none w) (1, { w with t := 0x3F800000 }) = true ∧
    endsAs medMem (majorant (med 0x5000 0 false) [0, 0, 0]) 0x3F800000 = true ∧
    (match fly 0 false 1 0x40800000 with | .ok (.stop 2 x) => x == { w with k := 1 } | _ => false) = true ∧
    (match fly 1 false 0 0x40800000 with | .ok (.stop 2 x) => x == w | _ => false) = true ∧
    (match fly 0 false 0 0x3F000000 with | .ok (.leave x) => x == { w with t := 0x3F000000, k := 1 } | _ => false) = true ∧
    (match fly 0 false 0 0x40800000 with | .ok (.stop 0 x) => x.k == 2 && x.t == addF 0 (divF (negLog (mkFin 0x800000 1 (-24) false)) 0x3F800000) | _ => false) = true ∧
    (match fly 0 true 0 0x40800000 with | .ok (.stay x) => x.k == 1 && x.tr == 0 | _ => false) = true ∧
    endsAs medMem (marchLane (med 0x5000 0 false) 4 (laneOf (0x7FC00000#32 :: List.replicate 14 0#32)))
      [(3, 0), (8, 0), (9, 0), (10, 1), (11, 0), (12, 0x7FC00000), (13, 0x7FC00000), (14, 0x7FC00000)] = true := by decide +kernel
theorem witness_attr :
    let desc := leBytes 0x1000 8 ++ leBytes 2 4 ++ leBytes 0x40000000 4 ++ leBytes 0x40000000 4 ++ List.replicate 12 0#8
    let all := fun (v : Nat) => (List.range 22).map (fun i => (i, v))
    desc.length = 32 ∧ endsAs attrMem (attrLane desc (pixel 0 0)) (all 0) = true ∧ failsAs attrMem (attrLane desc (pixel 1 0x200)) 0x2E = true ∧
    failsAs attrMem (attrLane desc (pixel 1 0x100)) 0x2A = true ∧ failsAs attrMem (attrLane desc (pixel 0x1001 0)) 0x2E = true ∧
    endsAs attrMem (attrLane desc (pixel 0x11 0)) (all 0x7FC00000) = true ∧
    (match (scriptOn (attrLane desc (pixel 1 0)) attrMem).1 with
      | .ok r => (r.take 7).map (fun x => x.2) == [0x3F000000, 0x3F000000, 0x3F000000, 0, 0, 0xBF000000, 0x3FC00000] && (r.drop 7).all (fun x => x.2 == 0)
      | .error _ => false) = true ∧
    (let t : Tex := { base := 0x7000, wid := 2, hgt := 2, levels := 1, fmt := 2, filt := 0, clampTo := false }
     endsAs attrMem (texLane t (laneOf [0x3F400000#32, 0x3E800000#32, 0#32, 0#32])) [(0, 0x41000000), (1, 0), (2, 0), (3, 0x3F800000)] = true ∧
     endsAs attrMem (texLane t (laneOf [0xBE800000#32, 0x3E800000#32, 0#32, 0#32])) [(0, 0x41000000), (1, 0), (2, 0), (3, 0x3F800000)] = true ∧
     (texTerms { t with filt := 1 } (1/2) (1/2) (.zero false)).map (fun x => x.w) = [1/4, 1/4, 1/4, 1/4] ∧
     texWrap { t with clampTo := true } (-1) 2 = 0 ∧ texWrap { t with clampTo := true } 2 2 = 1 ∧ texWrap t (-1) 2 = 1) ∧
    (let y : GalDesc := { addr := 0x9000, task := 0, rbase := 0x7000, sbase := 0x7004, nrec := 64, flush := 1, argp := 0 }
     let g : Group := { soloGroup with width := 16, batch := [(3, 64)] }
     endsAs attrMem (slgLane g y { (laneOf []) with a := 3#64 }) ((List.range 16).map (fun k => (k, if k = 1 ∨ k = 8 then 0x41000000 else 0))) = true ∧
     endsAs attrMem (slgLane g y { (laneOf []) with a := 4#64 }) ((List.range 16).map (fun k => (k, 0))) = true) ∧
    (let g : GalSet := { itab := 0x1000, gtab := 0x7004, missg := 9, nmat := 1, ninst := 2 }
     endsAs attrMem (rbinGalley g 0) (0xFFFF, 9) = true ∧ endsAs attrMem (rbinGalley g 1) (0, 0) = true ∧ failsAs attrMem (rbinGalley g 0x20000000001) 0x2E = true ∧
     failsAs attrMem (rbinGalley g 0x1001) 0x2E = true) := by decide +kernel

/-- EngineCommands: descriptors out of their limits; an attr whose lane has KIND 0, an instance out of range, and a table on no page; an
ovq's list that fits and one that does not; a reserved record of an rbin; the turns of a dsc: a ready way, an owner, a follower, an
empty way, the oldest of eight, eight pending, a publish, a publish by another, a drop, and the reserved operation. -/
def eng (w : Instr) (bs : Option (List Byte)) (x : LaneIn) (f : Op → Op := id) (h : Dev → Dev := id) : State :=
  D (fun d => h (withOp7 (f { op7 w [] [x] with a := 0x1000#64, blk := bs }) d))
def posts (s : State) (reason lane : Nat) : Bool := goes (exec (.engineCommandComplete 7) s) (fun t =>
  (tgetD t.dev.events 0 []).map (fun e => (e.kind, e.cause, e.detail)) == [(3, causeOf reason, (tget s.dev.ops 7).elim 0#64 (fun o => fdet o.rslot reason lane o.slot o.pcx))])
def put1000 (xs : List (Nat × Nat × Nat)) (d : Dev) : Dev := { d with mem := xs.foldl (fun m x => writeNat m (0x1000 + x.1) x.2.2 x.2.1) d.mem }
theorem witness_commands :
    let id := fun (lo hi : Nat) => laneOf [BitVec.ofNat 32 lo, BitVec.ofNat 32 hi, 0#32, 0#32]
    let attr := Instr.attr mh (.v 2) (.s 1)
    let desc := fun (itab n : Nat) => some (leBytes itab 8 ++ leBytes n 4 ++ List.replicate 20 0#8)
    let opens := fun (s : State) => (tget s.dev.ops 7).any (fun o => engineOpen s.dev 7 o && !o.gather && (tget s.dev.teams o.tid).isSome && (tget s.dev.groups o.gid).any (fun g => g.place == .resident))
    let bad := [eng (.trace mh (.v 2) (.s 1)) none (laneOf []) (fun o => o) (put1000 [(20, 4, 8)]), eng (.vmarch mh (.v 2) (.s 1)) none (laneOf []), eng attr none (id 0 0) (fun o => o) (put1000 [(31, 1, 1)]),
      eng (.tex mh (.v 2) (.s 1)) none (laneOf []) (fun o => o) (put1000 [(8, 2, 16385)])]
    bad.all (fun s => opens s && posts s 0x2A 3) = true ∧
    posts (eng (.refit mh (.s 1)) none (laneOf []) (fun o => o) (put1000 [(24, 8, 4)])) 0x2A 0 = true ∧
    [eng attr (desc 0 0) (id 0 0), eng attr (desc 0 1) (id 1 0x100), eng attr (desc 0x20000000 1) (id 1 0)].all opens = true ∧
    goes (exec (.engineCommandComplete 7) (eng attr (desc 0 0) (id 0 0))) (fun t => t.dev.ops == [] && (List.range 22).all (fun k => readV (g0 t) (2 + k) 3 == 0#32)) = true ∧
    posts (eng attr (desc 0 1) (id 1 0x100)) 0x2E 3 = true ∧
    goes (exec (.engineCommandComplete 7) (eng attr (desc 0x20000000 1) (id 1 0))) (fun t => waiting t.dev (.lane 7 3) && (tget t.dev.ops 7).isSome) = true := by decide +kernel

theorem witness_lists :
    let ovq := fun (off : Word) xs => eng (.ovq mh (.v 2) (.s 1)) (some (List.replicate 64 0#8)) (laneOf (List.replicate 7 0#32 ++ [off])) (fun o => { o with outs := [(3, (0, 2) :: (1, 1) :: xs)] })
      (fun d => { d with grids := d.grids.map (fun g => (g.1, { g.2 with task := { g.2.task with spq := 1 } })) })
    goes (exec (.engineCommandComplete 7) (ovq 8#32 [(0, 0x2010)])) (fun t => t.dev.ops == [] && readV (g0 t) 2 3 == 2#32 && readV (g0 t) 3 3 == 1#32 &&
      (tget t.dev.teams 0).any (fun u => readNat u.spad 8 8 == 0x2010)) = true ∧
    8 + 8 ≤ spadSize (ovq 8#32 []).dev (tm (ovq 8#32 [])) ∧ spadSize (ovq 0x40000#32 []).dev (tm (ovq 0x40000#32 [])) < 0x40000 + 8 ∧
    posts (ovq 0x40000#32 [(0, 0x2010)]) 0x21 3 = true ∧
    (let y : GalDesc := { addr := 0x9000, task := 0x8400, rbase := 0xA000, sbase := 0xB000, nrec := 64, flush := 1, argp := 0 }
     let r := eng (.rbin mh (.v 2) (.s 1)) none (laneOf ((List.range 14).map (fun i => BitVec.ofNat 32 (i + 1)))) (fun o => { o with d := 5#64, outs := [(3, [(0, 1), (1, 0), (2, 7)])] })
       (fun d => { withTasks d with parts := d.parts.map (fun q => (q.1, { q.2 with galleys := [(0, { newGalley with desc := some y, rsv := 2 })] })) })
     (match galDesc r.dev 0 0 0 with | .ok (z, _) => z == y | .error _ => false) = true ∧
     goes (exec (.engineCommandComplete 7) r) (fun t => (tget t.dev.ops 7).any (fun o => o.fin.getLsbD 3) && [4, 5, 1, 2, 3, 6, 0x10007, 0x143].zipIdx.all (fun z => readNat t.dev.mem (0xA020 + 4 * z.2) 4 == z.1) &&
       (List.range 8).all (fun i => readNat t.dev.mem (0xB020 + 4 * i) 4 == 7 + i)) = true ∧
     goes (exec (.engineCommandComplete 7) (eng (.rbin mh (.v 2) (.s 1)) none (laneOf []) (fun o => { o with fin := 8#64 }))) (fun t => t.dev.ops == []) = true)
    := by decide +kernel
theorem witness_dsc :
    let o : Op := { op7 (.dsc mh (.v 35) (.s 1)) [] with a := 0x1000#64, gid := 5 }
    let x := fun (op : Word) => laneOf [1#32, 0#32, 0#32, 0#32, op]
    let w := fun st stamp => ({ st := st, key := dscKey o (x 0#32), stamp := stamp } : Way)
    let other := fun st stamp => ({ st := st, key := [], stamp := stamp } : Way)
    let empty : Way := { st := .empty, key := [], stamp := 0 }
    let d := fun ws => { (D id).dev with dsc := [(4, ({ part := 0, slice := 0, desc := 0x1000, set := 2, ways := ws ++ List.replicate (8 - ws.length) empty } : DscSet))] }
    let turn := fun ws op => dscTurn (d ws) o (x op) 2 0x10000
    let done := fun (r : DscTurn) (st way : Nat) (ways : Nat → Way → Bool) => match r with
      | .done a b e => a == st && b == way && (tget e.dsc 4).any (fun s => s.ways.length == 8 && s.ways.zipIdx.all (fun z => ways z.2 z.1))
      | _ => false
    done (turn [empty, w .ready 9] 0#32) 0 1 (fun i y => y == if i = 1 then w .ready 9 else empty) = true ∧ done (turn [w .pending 5] 0#32) 2 0 (fun i y => y == if i = 0 then w .pending 5 else empty) = true ∧
    (match turn [w .pending 6] 0#32 with | .follow 0 _ => true | _ => false) = true ∧ done (turn [other .ready 1, empty, empty] 0#32) 1 1 (fun i y => i != 1 || y == w .pending 5) = true ∧
    done (turn (other .pending 0 :: [6, 4, 4, 7, 8, 9, 9].map (other .ready)) 0#32) 1 2 (fun i y => i != 2 || y == w .pending 5) = true ∧
    (match turn (List.replicate 8 (other .pending 0)) 0#32 with | .retry => true | _ => false) = true ∧
    done (turn [empty, w .pending 5] 1#32) 0 1 (fun i y => i != 1 || y.st == .ready) = true ∧ [turn [w .pending 6] 1#32, turn [w .ready 5] 1#32, turn [] 1#32, turn [] 2#32, turn [w .pending 5] 2#32].all
      (fun r => match r with | .bad 0x60 => true | _ => false) = true ∧
    done (turn [w .ready 9] 2#32) 0 0 (fun _ y => y == empty) = true ∧ (match turn [] 3#32 with | .bad 0x61 => true | _ => false) = true ∧
    (match dscTurn (D id).dev o (x 0#32) 2 0x10000 with | .done 1 0 e => e.dsc.length == 1 | _ => false) = true := by decide +kernel

/-- MatrixPasses: a command of one output over K = 16 in FP32, 2 times 3: its start, its two passes; an output misaligned, a reserved bit,
K = 0, and an operand of a ring with no COMMITTED slot; elements of INT8 and E2M1, a scale, and chunks with a NaN and an infinity. -/
def mxBlkOf (ctrl k start out : Nat) (a : List Byte) : List Byte :=
  leBytes ctrl 8 ++ leBytes 1 2 ++ leBytes 1 2 ++ leBytes k 4 ++ a ++ (leBytes 0x1040 8 ++ leBytes 64 4 ++ leBytes 0 4) ++ leBytes (out + 4 * 2 ^ 32) 8 ++ leBytes start 8
def opndA : List Byte := leBytes 0x1000 8 ++ leBytes 64 4 ++ leBytes 0 4
def mxState (c : MxCmd) (bs : List Byte) (h : Dev → Dev := id) : State :=
  let s := amDev { op7 (.mxd mh (.s 1)) [] with a := 0x2000#64 }
  { s with dev := h { s.dev with cores := tput s.dev.cores 0 { (default : Core) with mq := [c] }
                                 mem := writeBytes (writeNat (writeNat s.dev.mem 0x1000 0x40000000 4) 0x1040 0x40400000 4) 0x2000 bs
                                 teams := s.dev.teams.map (fun t => (t.1, { t.2 with am := writeNat [] 0 0x3F800000 4 })) } }
theorem witness_matrix :
    let c : MxCmd := { op := 7, started := false, rprog := 0, blk := [], tok := true, ra := { slots := [], have_ := 0 }, rb := { slots := [], have_ := 0 }, wait := false }
    let good := mxBlkOf 0 16 0 0 opndA
    let first := fun (t : State) => (tgetD t.dev.cores 0 default).mq.head?
    let am0 := fun (t : State) => readNat (tm t).am 0 4
    let posts := fun (s : State) (reason : Nat) => goes (exec (.matrixCommandStart 0) s) (fun t => (tgetD t.dev.events 0 []).map (fun e => e.cause) == [causeOf reason] && (first t).any (fun y => y.wait) &&
      (tgetD t.dev.events 0 []).map (fun e => e.detail) == (s.dev.ops.map (fun o => fdet o.2.rslot reason 0 o.2.slot o.2.pcx)))
    let ready := fun (s : State) => (mxHead s.dev 0).any (fun y => mxRuns s.dev 0 y.1 y.2 && opReady s.dev y.2) && Memory.wf (tm s).am
    let p0 := { c with started := true, blk := good }
    let p8 := { p0 with rprog := 8, acc := [(outKey 0 0, 0x40C00000)] }
    let ring := mxBlkOf 0 16 0 0 (leBytes 0 8 ++ leBytes 64 4 ++ leBytes 1 4)
    let pr := mxState { p0 with blk := ring } ring (fun d => { d with teams := d.teams.map (fun t => (t.1, { t.2 with rings := [(0, newRing (cfg 1 2 0))] })) })
    [mxState c good, mxState c (mxBlkOf 0 16 0 2 opndA), mxState c (mxBlkOf 256 16 0 0 opndA), mxState c (mxBlkOf 0 0 0 0 opndA), mxState p0 good, mxState p8 good, pr].all ready = true ∧
    goes (exec (.matrixCommandStart 0) (mxState c good)) (fun t => first t == some p0 && t.dev.events.all (fun e => e.2.isEmpty)) = true ∧
    posts (mxState c (mxBlkOf 0 16 0 2 opndA)) 0x22 = true ∧ posts (mxState c (mxBlkOf 256 16 0 0 opndA)) 0x2A = true ∧
    goes (exec (.matrixCommandStart 0) (mxState c (mxBlkOf 0 0 0 0 opndA))) (fun t => (first t).isNone && t.dev.ops == [] && am0 t == 0) = true ∧
    goes (exec (.matrixCommandStart 0) (mxState c (mxBlkOf 0 16 16 0 opndA))) (fun t => (first t).isNone && t.dev.ops == [] && am0 t == 0x3F800000) = true ∧
    (let x := parseMx 0 good
     (match rowsFromMem 0 0 x x.a 0 8 0 [0] (mxState p0 good).dev with | .ok (r, _) => r == [unpack .fp32 0x40000000 :: List.replicate 7 (.zero false)] | .error _ => false) = true) ∧
    goes (exec (.matrixPass 0) (mxState p0 good)) (fun t => (first t).any (fun y => y.rprog == 8 && !y.tok && tget y.acc (outKey 0 0) == some 0x40C00000) && am0 t == 0x40C00000) = true ∧
    goes (exec (.matrixPass 0) (mxState p8 good)) (fun t => (first t).isNone && t.dev.ops == [] && am0 t == 0x40C00000) = true ∧
    (ringOf pr.dev 0 0).any (fun r => slotSt r r.qix != .committed) = true ∧ goes (exec (.matrixPass 0) pr) (fun t => am0 t == 0x3F800000 && (first t).any (fun y => y.rprog == 0)) = true ∧
    mxElem 7 [0x80#8] 0 = ofInt (-128) ∧ mxElem 6 [0x52#8] 4 = unpack .e2m1 5 ∧ (mxScaled (unpack .fp32 0x3F800000) 128).rat = 2 ∧ (mxScaled (unpack .fp32 0x3F800000) 255).isNan = true ∧
    mxUpdate 0 0 [(unpack .fp32 0x7F800000, .zero false)] = 0x7FC00000 ∧ mxUpdate 0 0 [(unpack .fp32 0xFF800000, unpack .fp32 0x3F800000)] = 0xFF800000 ∧
    mxUpdate 0 0x7F800000 [(unpack .fp32 0xFF800000, unpack .fp32 0x3F800000)] = 0x7FC00000 ∧ mxUpdate 7 0xFFFFFFFF [(ofInt (-128), ofInt (-1))] = 127 := by decide +kernel

/-- Collectives: a CX with TAIL = HEAD, with TAIL below HEAD, and with a slot: a good command, an NRANK of 0, an RLIST entry of another
device, a source and a destination outside the address space; digests of another tag, of the same tag that differ, and of another
scope; what a command of one rank writes, its COMPL and HEAD; a peer that has sent nothing; and R374's sums of three. -/
def cxState (tail head : Nat) (slot : List Byte) (rank0 : Nat) (f : Cx → Cx := id) : State := D (fun d =>
  let m := writeBytes (writeNat (writeNat (writeNat d.mem 0x6000 tail 8) 0x6008 head 8) 0x6300 rank0 4) 0x6040 slot
  let d1 := regPut (regPut (regPut (linked d) (offCxbase 0) 0 1 1) (offCxbase 0) 6 50 (0x6000 / 64)) offWdcfg 0 32 1
  { d1 with mem := writeBytes m 0x6100 [1#8, 2#8, 3#8, 4#8], cyc := 5, cx := [(0, f (cxOf d1 0))] })
def cxSlotOf (nrank src dst compl : Nat) : List Byte :=
  leBytes (1 + 4 * 5) 4 ++ leBytes 1 4 ++ leBytes nrank 4 ++ leBytes 0 4 ++ leBytes src 8 ++ leBytes dst 8 ++ leBytes 4 8 ++ leBytes 0x6300 8 ++ leBytes compl 8 ++ leBytes 0x55 8
theorem witness_cx :
    let own : Digest := { tag := 1, op := 1, dt := 5, nrank := 1, rank := 0, len := 4, rlist := [7], scope := 5 }
    let far := { own with nrank := 2, rank := 1, rlist := [7, 9] }
    let here := { own with nrank := 2, rlist := [7, 9] }
    let slot := cxSlotOf 1 0x6100 0x6200 0
    let good := cxState 1 0 slot 7
    let start := fun (s : State) (p : State → Bool) => regBits s.dev (offCxbase 0) 0 1 == 1 && cxRuns s.dev 0 && (cxOf s.dev 0).st == .idle && (cxOf s.dev 0).tails == [] &&
      (match cxRead s.dev 0 0x6000 16 s.tick with | .ok _ => true | .error _ => false) && goes (exec (.cxCommandStart 0) s) p
    let halts := fun (code : Nat) (t : State) => (cxOf t.dev 0).dead && (tgetD t.dev.events 0 []).map (fun e => (e.unit, e.cause, e.detail)) == [(962, 1, BitVec.ofNat 64 (code * 2 ^ 56 + 0x6040))]
    let x := fun (st : CxSt) (o : Digest) (compl : Nat) (y : Cx) => { y with st := st, slot := 0x6040, cmd := cxSlotOf 1 0x6100 0x6200 compl, own := some o, input := [1#8, 2#8, 3#8, 4#8], sent := 4 }
    let w := cxState 1 0 slot 7 (x (.waiting 0) own 0)
    let v := cxState 1 0 slot 7 (x .written own 0x6400)
    let p := cxState 1 0 slot 7 (x (.waiting 0) here 0)
    let heads := fun (t : State) => readNat t.dev.mem 0x6008 8 == 1 && (cxOf t.dev 0).st == .idle && (cxOf t.dev 0).own.isNone
    start (cxState 0 0 slot 7) (fun t => cxOf t.dev 0 == cxOf (cxState 0 0 slot 7).dev 0) = true ∧ start (cxState 0 1 slot 7) (fun t => (cxOf t.dev 0).dead) = true ∧
    start good (fun t => cxOf t.dev 0 == { cxOf good.dev 0 with st := .waiting 5, slot := 0x6040, cmd := slot, own := some own, input := [1#8, 2#8, 3#8, 4#8] }) = true ∧
    start (cxState 1 0 (cxSlotOf 0 0x6100 0x6200 0) 7) (halts 1) = true ∧ start (cxState 1 0 slot 8) (halts 1) = true ∧
    start (cxState 1 0 (cxSlotOf 1 (2 ^ 56) 0x6200 0) 7) (halts 4) = true ∧ start (cxState 1 0 (cxSlotOf 1 0x6100 (2 ^ 56) 0) 7) (halts 4) = true ∧
    (cxBlocked good.dev 0 0 (parseCx slot)).isNone = true ∧ (cxSendErr good.dev own).isNone = true ∧
    (portOpen w.dev = true ∧ octAsg w.dev 0 = true ∧ halted w.dev 0 = false ∧ rankDev (far.rlist.getD far.rank 0) ≠ regBits w.dev offDomid 0 9) ∧
    goes (exec (.cxDigestReceive 0 { far with tag := 2 }) w) (fun t => (cxOf t.dev 0).digests == [{ far with tag := 2 }] && !(cxOf t.dev 0).dead) = true ∧
    goes (exec (.cxDigestReceive 0 far) w) (halts 2) = true ∧ goes (exec (.cxDigestReceive 0 { far with scope := 6 }) w) (fun t => (cxOf t.dev 0).digests == []) = true ∧
    (cxRuns w.dev 0 = true ∧ (cxOf w.dev 0).st = .waiting 0 ∧ cxMoves (cxOf w.dev 0) own = true ∧ cxAvail (cxOf w.dev 0) own = 4) ∧
    goes (exec (.cxCommandComplete 0) w) (fun t => heads t && readNat t.dev.mem 0x6200 4 == 0x04030201) = true ∧
    goes (exec (.cxCommandComplete 0) v) (fun t => heads t && readNat t.dev.mem 0x6400 8 == 0x55) = true ∧
    cxMoves (cxOf p.dev 0) here = false ∧ goes (exec (.cxPeerTimeout 0) p) (fun t => (cxOf t.dev 0).dead && (tgetD t.dev.events 0 []).map (fun e => e.cause) == [5]) = true ∧
    cxReduce 2 [leBytes 0x4B800000 4, leBytes 0x3F800000 4, leBytes 0x3F800000 4] = leBytes 0x4B800000 4 := by decide +kernel
/-- Firmware images and quotes rest on SHA-256 (11 R375): its digest of "abc" as FIPS 180-4 gives it. -/
theorem test_sha256 : beNat (sha256 [0x61#8, 0x62#8, 0x63#8]) = 0xba7816bf8f01cfea414140de5dae2223b00361a396177a9cb410ff61f20015ad := by decide +kernel

/-- RasterAndClassify: R345's worked example, an edge that two triangles share, a vertex outside, a half rounded to even, classes and records. -/
theorem witness_raster :
    let h := 0x3F000000
    let t : Tri := [⟨512, 512, h⟩, ⟨2560, 512, h⟩, ⟨512, 2560, h⟩]
    let v := takeTri { draw 0 with tri := 7, d := { desc0 with vw := 64, vh := 64, nsu := 4 } } { inst := 3, clus := 5, ntri := 8 } (some t)
    let s := fun (px : Nat) c => ({ px := px, py := 0, val := px, cls := c } : QuadSample)
    let q := { tile .closed with idx := 3, scan := 1, samples := [s 0 (some 7), s 1 none, s 0 (some 9), s 1 (some 7)] }
    (List.range 3).map (triEdge t) = [(-524288, -524288, 5767167), (524288, 0, -786432), (0, 524288, -786432)] ∧ triPlane t = (0, 0, h) ∧
    v.ident = 0x0000030000005071 ∧ v.slot = 0 ∧ v.setup = setupRecord t ∧ v.blocks = [(0, 0), (8, 0), (0, 8)] ∧ v.tri = 0 ∧ v.li = 1 ∧ v.tris = 1 ∧ v.culled = 0 ∧
    (List.range 6).map (fun i => at_ (setupRecord t) (8 * i) 8) =
      [0xFFF80000FFF80000, 0x0000000000080000, 0x0008000000000000, 0x000000000057FFFF, 0xFFFFFFFFFFF40000, 0xFFFFFFFFFFF40000] ∧
    (takeTri { draw 0 with d := { desc0 with cull := 2 } } { inst := 0, clus := 0, ntri := 1 } (some t)).culled = 1 ∧ (takeTri (draw 0) { inst := 0, clus := 0, ntri := 1 } none).dropped = 1 ∧
    rneInt (1/2) = 0 ∧ rneInt (3/2) = 2 ∧ screenVert 2 2 (leBytes 0 16) = none ∧
    screenVert 2 2 (leBytes 0 12 ++ leBytes 0x3F800000 4) = some ⟨256, 256, 0⟩ ∧
    0 < triArea [⟨0, 0, 0⟩, ⟨2560, 512, h⟩, ⟨512, 2560, h⟩] ∧ 0 < triArea [⟨2560, 2560, 0⟩, ⟨512, 2560, h⟩, ⟨2560, 512, h⟩] ∧
    entryClasses q = [7, 9] ∧ (quadRecords { desc0 with spp := 2 } q 7).map (fun r => r.2) = [false, true, true, false] ∧
    at_ ((quadRecords { desc0 with spp := 2 } q 7).map (fun r => r.1))[2]! 24 4 = 7 + 2 ^ 17 ∧ samplePlace desc0 { q with scan := 255 } 3 = (32 * 0 + 31, 32 * 3 + 31, 1023 * 16) := by decide +kernel

/-- DrawEvents: a set that meets a tile; a set-up slot in use and one that is free; a block with no room and one recorded; a triangle of an
instance out of range; a draw that retires with its status block and CVAL; and the CLE: an instance out of range, a pad, a full galley,
a reservation, four records, and the last quad with records and without. -/
def cleState (t : Tile) (rsv : Nat) (nrec : Nat := 64) (missrec : Bool := true) (m : List (Nat × Nat × Nat) := []) : State :=
  let y : GalDesc := { addr := 0x9000, task := 0x8400, rbase := 0xA000, sbase := 0xB000, nrec := nrec, flush := 1, argp := 0 }
  let w := draw 2
  P (fun q => { q with galleys := [(0, { newGalley with desc := some y, rsv := rsv })] }) (fun d =>
    { d with mem := m.foldl (fun x e => writeNat x e.1 e.2.2 e.2.1) d.mem, draws := [(2, { w with took := true, keys := [0x10000], d := { w.d with gset := 0xC000, missrec := missrec } })],
             tiles := [(0x10000, t)] })
theorem witness_raster_draws :
    let r := draw 0
    let set := List.replicate 64 7#8
    let y : GalDesc := { addr := 0x9000, task := 0x8400, rbase := 0xA000, sbase := 0xB000, nrec := 64, flush := 1, argp := 0 }
    let at' := fun (w : Draw) rsv => P (fun q => { q with galleys := [(0, { newGalley with desc := some y, rsv := rsv })] }) (fun d => { d with draws := [(2, w)] })
    let d' := fun (t : State) => (tget t.dev.draws 2).getD default
    let su := { r with setup := set, d := { r.d with subase := 0x5000 } }
    let bl := { r with blocks := [(8, 0)], slot := 3, ident := 0x5071 }
    let tr := { r with d := { r.d with list := 0xD000, nlist := 1, ninst := 0 } }
    let done := { r with took := true, tris := 4, nblocks := 5, compl := 0x7100, cval := 9#64 }
    [at' su 0, at' { su with slots := [(0, 0)] } 1, at' bl 0, at' bl 64, at' tr 0].all (fun s => rasterOpen s.dev 2 (d' s)) = true ∧
    goes (exec (.drawOpen 2) (W (draw 1) [(5, { tile .closed with pas := [0x10000 + 16383] })])) (fun t => t.dev.draws == [] && (tgetD t.dev.events 0 []).map (fun e => e.detail) == [0x0600000000000000#64]) = true ∧
    goes (exec (.drawRaster 2) (at' su 0)) (fun t => readBytes t.dev.mem 0x5000 64 == set && (d' t).setup == []) = true ∧
    goes (exec (.drawRaster 2) (at' { su with slots := [(0, 0)] } 1)) (fun t => (d' t).slotWait) = true ∧
    goes (exec (.setupSlotResume 2) (at' { su with slotWait := true } 1)) (fun t => !(d' t).slotWait && (d' t).setup == []) = true ∧
    goes (exec (.drawRaster 2) (at' bl 64)) (fun t => (d' t).full) = true ∧
    goes (exec (.drawRaster 2) (at' bl 0)) (fun t => (d' t).open_ == [0] && (d' t).nblocks == 1 && readNat t.dev.mem 0xA000 8 == 0x5071 && readNat t.dev.mem 0xA014 4 == 8 && readNat t.dev.mem 0xA018 4 == 0xFFFE &&
      readNat t.dev.mem 0xA01C 4 == 3) = true ∧
    goes (exec (.drawRaster 2) (at' tr 0)) (fun t => (d' t).dropped == 1 && (d' t).li == 1) = true ∧
    goes (exec (.drawRetire 2) (at' { done with d := { done.d with stat := 0x7000 } } 0)) (fun t => t.dev.draws == [] && [4, 0, 0, 5, 0].zipIdx.all (fun z => readNat t.dev.mem (0x7000 + 8 * z.2) 8 == z.1) &&
      readNat t.dev.mem 0x7100 8 == 9) = true ∧
    goes (exec (.drawRetire 2) (at' { done with open_ := [3] } 0)) (fun t => (tget t.dev.draws 2).isSome) = true := by decide +kernel
theorem witness_cle :
    let t := tile .closed
    let s := fun c => ({ px := 0, py := 0, val := 0, cls := c } : QuadSample)
    let four := [s (some 7), s none, s (some 7), s none]
    let q := { t with samples := four, todo := [7], gal := some 0 }
    let tl := fun (x : State) => (tget x.dev.tiles 0x10000).getD t
    let goesTo := fun (a : State) (p : State → Bool) => (tget a.dev.draws 2).any (fun w => cleOpen a.dev 2 0 w) && goes (exec (.cleClassifyTile 2 0) a) p
    goesTo (cleState t 0 64 true [(0x10000, 8, 0x11)]) (fun x => (tl x).dead && (tgetD x.dev.events 0 []).map (fun e => e.unit) == [961]) = true ∧
    goesTo (cleState t 0 64 false) (fun x => (tl x).scan == 1 && (tl x).samples == []) = true ∧
    goesTo (cleState { t with samples := four, todo := [], cnt := 4, scan := 255 } 0) (fun x => (tl x).st == .classified) = true ∧
    goesTo (cleState { t with samples := four, todo := [], scan := 255 } 0) (fun x => (tl x).st == .shaded && (tget x.dev.draws 2).any (fun w => w.keys == [])) = true ∧
    goesTo (cleState q 5) (fun x => (tl x).cnt == 1 && readNat x.dev.mem (0xA000 + 32 * 5 + 24) 4 == 0x20007) = true ∧
    goesTo (cleState q 4) (fun x => (tl x).resv == [4]) = true ∧ goesTo (cleState q 4 4) (fun x => (tl x).full == some 0 && (tl x).resv == []) = true ∧
    goesTo (cleState { q with resv := [0, 1, 2, 3] } 4) (fun x => (tl x).cnt == 4 && (tl x).todo == [] && [7, 0x20007, 7, 0x20007].zipIdx.all (fun z => readNat x.dev.mem (0xA000 + 32 * z.2 + 24) 4 == z.1)) = true := by
  decide +kernel

end Sys2Proof.Tests
end

section
/-! PROOFS. The fields of a register, the registers of the management block, and the events at an arbiter: what each update leaves. -/

namespace Sys2Proof.Machine

/-! ## The fields of a word -/

theorem testBit_bits (x lo len i : Nat) : (bits x lo len).testBit i = (decide (i < len) && x.testBit (lo + i)) := by
  rw [bits, Nat.testBit_mod_two_pow, Nat.testBit_div_two_pow, Nat.add_comm]

theorem bit_eq_testBit (x i : Nat) : bit x i = x.testBit i := by
  rw [Nat.testBit_eq_decide_div_mod_eq]
  rfl

/-- A number with a field replaced is what lay above the field, the new field, and what lay below it. -/
theorem replace_field_eq (x lo len v : Nat) : x - bits x lo len * 2 ^ lo + v % 2 ^ len * 2 ^ lo =
    2 ^ lo * (2 ^ len * (x / 2 ^ (lo + len)) + v % 2 ^ len) + x % 2 ^ lo := by
  have hx : 2 ^ lo * (2 ^ len * (x / 2 ^ (lo + len)) + bits x lo len) + x % 2 ^ lo = x := by
    rw [bits, Nat.pow_add, ← Nat.div_div_eq_div_mul, Nat.div_add_mod, Nat.div_add_mod]
  rw [Nat.mul_add] at hx ⊢
  rw [Nat.mul_comm (bits ..), Nat.mul_comm (v % _)]
  omega

theorem testBit_setBits (x : DWord) {lo len : Nat} (v i : Nat) (h : lo + len ≤ 64) :
    (setBits x lo len v).toNat.testBit i = if lo ≤ i ∧ i < lo + len then v.testBit (i - lo) else x.toNat.testBit i := by
  have hlow : x.toNat % 2 ^ lo < 2 ^ lo := Nat.mod_lt _ (Nat.two_pow_pos lo)
  have hmid : v % 2 ^ len < 2 ^ len := Nat.mod_lt _ (Nat.two_pow_pos len)
  rw [setBits, replace_field_eq, BitVec.toNat_ofNat, Nat.testBit_mod_two_pow, Nat.testBit_two_pow_mul_add _ hlow,
    Nat.testBit_two_pow_mul_add _ hmid, Nat.testBit_mod_two_pow, Nat.testBit_mod_two_pow, Nat.testBit_div_two_pow]
  by_cases hbelow : i < lo
  · have hi : i < 64 := by omega
    have hout : ¬ (lo ≤ i ∧ i < lo + len) := by omega
    simp only [hbelow, hi, hout, if_true, if_false, decide_true, Bool.true_and]
  · by_cases hin : i < lo + len
    · have hi : i < 64 := by omega
      have hlen : i - lo < len := by omega
      have hfield : lo ≤ i ∧ i < lo + len := ⟨Nat.not_lt.mp hbelow, hin⟩
      simp only [hbelow, hi, hlen, hfield, and_self, if_true, if_false, decide_true, Bool.true_and]
    · have hlen : ¬ i - lo < len := by omega
      have hidx : i - lo - len + (lo + len) = i := by omega
      simp only [hbelow, hin, hlen, hidx, and_false, if_false]
      by_cases hi : i < 64
      · simp only [hi, decide_true, Bool.true_and]
      · simp only [hi, decide_false, Bool.false_and, BitVec.testBit_toNat, BitVec.getLsbD_of_ge x i (Nat.not_lt.mp hi)]

/-- A field that lies inside the one replaced reads from the new value. -/
theorem bits_setBits_inside (x : DWord) {lo len k n : Nat} (v : Nat) (h : lo + len ≤ 64) (hk : k + n ≤ len) :
    bits (setBits x lo len v).toNat (lo + k) n = bits v k n := by
  refine Nat.eq_of_testBit_eq fun i => ?_
  rw [testBit_bits, testBit_bits, testBit_setBits x v _ h]
  by_cases hi : i < n
  · rw [if_pos (by omega), show lo + k + i - lo = k + i by omega]
  · simp [hi]

/-- A field apart from the one replaced reads as before. -/
theorem bits_setBits_apart (x : DWord) {lo len lo' n : Nat} (v : Nat) (h : lo + len ≤ 64) (ha : lo' + n ≤ lo ∨ lo + len ≤ lo') :
    bits (setBits x lo len v).toNat lo' n = bits x.toNat lo' n := by
  refine Nat.eq_of_testBit_eq fun i => ?_
  rw [testBit_bits, testBit_bits, testBit_setBits x v _ h]
  by_cases hi : i < n
  · rw [if_neg (by omega)]
  · simp [hi]

/-! ## The registers of the management block -/

theorem regGet_regSet (d : Dev) (off o : Nat) (x : DWord) : regGet (regSet d off x) o = if o = off then x else regGet d o := by
  by_cases ho : o = off
  · rw [if_pos ho, ho, regGet, regSet, tgetD_tputD, if_pos rfl]
  · rw [if_neg ho, regGet, regGet, regSet, tgetD, tgetD, tputD]
    split
    · rw [tget_tdel_other _ ho]
    · rw [tget_tput_other _ _ ho]

theorem regSet_setsReg (d : Dev) (off : Nat) (x : DWord) : SetsReg d (regSet d off x) off x :=
  ⟨rfl, fun o => regGet_regSet d off o x⟩

theorem regPut_setsField (d : Dev) (off lo len v : Nat) : SetsField d (regPut d off lo len v) off lo len v :=
  regSet_setsReg ..

theorem SetsReg.trans {a b c : Dev} {off : Nat} {x y : DWord} (h : SetsReg a b off x) (k : SetsReg b c off y) : SetsReg a c off y := by
  obtain ⟨hb, hx⟩ := h
  obtain ⟨hc, hy⟩ := k
  refine ⟨by rw [hc, hb], fun o => ?_⟩
  rw [hy, hx]
  split <;> rfl

/-- A register that a write of one register leaves. -/
theorem SetsReg.other {d d' : Dev} {off o : Nat} {x : DWord} (h : SetsReg d d' off x) (ho : o ≠ off) : regGet d' o = regGet d o := by
  rw [h.2, if_neg ho]

theorem SetsReg.self {d d' : Dev} {off : Nat} {x : DWord} (h : SetsReg d d' off x) : regGet d' off = x := by
  rw [h.2, if_pos rfl]

theorem SetsReg.mem {d d' : Dev} {off : Nat} {x : DWord} (h : SetsReg d d' off x) : d'.mem = d.mem := by rw [h.1]
theorem SetsReg.groups {d d' : Dev} {off : Nat} {x : DWord} (h : SetsReg d d' off x) : d'.groups = d.groups := by rw [h.1]

theorem regBits_regPut_inside (d : Dev) (off : Nat) {lo len k n : Nat} (v : Nat) (h : lo + len ≤ 64) (hk : k + n ≤ len) :
    regBits (regPut d off lo len v) off (lo + k) n = bits v k n := by
  rw [regBits, regPut, regGet_regSet, if_pos rfl, bits_setBits_inside _ v h hk]

theorem regBits_regPut_apart (d : Dev) (off : Nat) {lo len lo' n : Nat} (v : Nat) (h : lo + len ≤ 64) (ha : lo' + n ≤ lo ∨ lo + len ≤ lo') :
    regBits (regPut d off lo len v) off lo' n = regBits d off lo' n := by
  rw [regBits, regPut, regGet_regSet, if_pos rfl, bits_setBits_apart _ v h ha, regBits]

/-! ## What OCTPART says of an octant (01 R30) -/

/-- Two devices whose OCTPART is the same say the same of every octant. -/
theorem octAsg_congr {d d' : Dev} (h : regGet d' offOctpart = regGet d offOctpart) (o : Nat) : octAsg d' o = octAsg d o := by
  rw [octAsg, octAsg, regBits, regBits, h]
theorem octClr_congr {d d' : Dev} (h : regGet d' offOctpart = regGet d offOctpart) (o : Nat) : octClr d' o = octClr d o := by
  rw [octClr, octClr, regBits, regBits, h]
theorem octPn_congr {d d' : Dev} (h : regGet d' offOctpart = regGet d offOctpart) (o : Nat) : octPn d' o = octPn d o := by
  rw [octPn, octPn, regBits, regBits, h]

/-! ## An event accepted (14 R406, R408, R414, R416) -/

/-- Only what the acceptance of an event changes differs: the numbers of its queue, the partition's record, the vectors, and what leaves
for the host; the registers below HALTST are as they were. -/
def EventOnly (d d' : Dev) : Prop :=
  d' = { d with seqs := d'.seqs, parts := d'.parts, msix := d'.msix, host := d'.host, accepted := d'.accepted, net := d'.net, reg := d'.reg } ∧
    ∀ off, off < offHaltst 0 → regGet d' off = regGet d off

theorem EventOnly.trans {a b c : Dev} (h : EventOnly a b) (k : EventOnly b c) : EventOnly a c := by
  obtain ⟨hb, hx⟩ := h
  obtain ⟨hc, hy⟩ := k
  exact ⟨by rw [hc, hb], fun off ho => (hy off ho).trans (hx off ho)⟩

theorem EventOnly.mem {d d' : Dev} (h : EventOnly d d') : d'.mem = d.mem := by rw [h.1]

/-- A step that is taken under a condition only. -/
theorem EventOnly.ite_step {a b c : Dev} {p : Prop} [Decidable p] (h : EventOnly a b) (k : EventOnly b c) :
    EventOnly a (if p then c else b) := by
  split
  · exact h.trans k
  · exact h

theorem EventOnly.refl (d : Dev) : EventOnly d d := ⟨rfl, fun _ _ => rfl⟩
theorem modPart_event (d : Dev) (p : Nat) (f : Part → Part) : EventOnly d (modPart d p f) := ⟨rfl, fun _ _ => rfl⟩
theorem raiseMsix_event (d : Dev) (v : Nat) : EventOnly d (raiseMsix d v) := ⟨rfl, fun _ _ => rfl⟩
theorem hostWrite_event (d : Dev) (a : Nat) (bs : List Byte) : EventOnly d (hostWrite d a bs) := by
  unfold hostWrite
  split <;> exact ⟨rfl, fun _ _ => rfl⟩
theorem netAdd_event (d : Dev) (leaf chan n : Nat) : EventOnly d (netAdd d leaf chan n) := by
  unfold netAdd
  split <;> exact ⟨rfl, fun _ _ => rfl⟩
theorem regSet_event (d : Dev) {off : Nat} (x : DWord) (h : offHaltst 0 ≤ off) : EventOnly d (regSet d off x) :=
  ⟨rfl, fun o ho => by rw [regGet_regSet, if_neg (by omega)]⟩
theorem regPut_event (d : Dev) {off : Nat} (lo len v : Nat) (h : offHaltst 0 ≤ off) : EventOnly d (regPut d off lo len v) :=
  regSet_event d _ h

theorem raiseLine_event (d : Dev) (p seq : Nat) (e : Event) : EventOnly d (raiseLine d p seq e) :=
  (modPart_event d p _).trans ((regSet_event _ _ (by simp [offHaltst])).trans (raiseMsix_event ..))

theorem writeEvent_event (d : Dev) (q seq kind : Nat) (e : Event) : EventOnly d (writeEvent d q seq kind e) := by
  have hreg : offHaltst 0 ≤ offEvq q + 8 := by simp only [offHaltst, offEvq]; omega
  unfold writeEvent
  dsimp only
  split
  · exact .refl d
  · split
    · exact regPut_event d _ _ _ hreg
    · exact ((hostWrite_event ..).trans ((netAdd_event ..).trans (regPut_event _ _ _ _ hreg))).ite_step (raiseMsix_event ..)

theorem acceptEvent_event (d : Dev) (q : Nat) (e : Event) : EventOnly d (acceptEvent d q e) := by
  have hseq : EventOnly d { d with seqs := tput d.seqs q (tgetD d.seqs q 0 + 1) } := ⟨rfl, fun _ _ => rfl⟩
  exact ((hseq.ite_step (raiseLine_event ..)).ite_step (modPart_event ..)).trans (writeEvent_event ..)

end Sys2Proof.Machine
end

section
/-! PROOFS. Assignment and release of a partition, and the clearing of its octants (01 R30 to R34, 11 R378). -/

namespace Sys2Proof.Machine

/-! ## Octants taken and given up -/

theorem maskOcts_eq_filter (v : Word) : maskOcts (bits v.toNat 0 8) = (List.range 8).filter (fun o => v.getLsbD o) := by
  refine List.filter_congr fun o ho => ?_
  have ho : o < 8 := List.mem_range.mp ho
  rw [bit_eq_testBit, testBit_bits]
  simp [ho, BitVec.testBit_toNat]

theorem maskOcts_lt {mask o : Nat} (h : o ∈ maskOcts mask) : o < 8 := by
  simp only [maskOcts, List.mem_filter, List.mem_range] at h
  exact h.1

theorem takeOcts_cons (d : Dev) (pn x : Nat) (os : List Nat) : takeOcts d pn (x :: os) = takeOcts (takeOcts d pn [x]) pn os := rfl

theorem takeOcts_frame (d : Dev) (pn : Nat) (os : List Nat) :
    (takeOcts d pn os).groups = d.groups ∧ ∀ off, off ≠ offOctpart → regGet (takeOcts d pn os) off = regGet d off := by
  induction os generalizing d with
  | nil => exact ⟨rfl, fun _ _ => rfl⟩
  | cons x os ih =>
    obtain ⟨hgroups, hreg⟩ := ih (takeOcts d pn [x])
    have hone : SetsReg d (takeOcts d pn [x]) offOctpart _ := (regPut_setsField ..).trans (regPut_setsField ..)
    exact ⟨hgroups.trans hone.groups, fun off ho => (hreg off ho).trans (hone.other ho)⟩

/-- One octant taken: it has ASG = 1, and the others keep theirs. -/
theorem octAsg_takeOct (d : Dev) {pn x o : Nat} (hx : x < 8) (ho : o < 8) : octAsg (takeOcts d pn [x]) o = (octAsg d o || x == o) := by
  have hpn : regBits (takeOcts d pn [x]) offOctpart (8 * o + 7) 1 = regBits (regPut d offOctpart (8 * x + 7) 1 1) offOctpart (8 * o + 7) 1 :=
    regBits_regPut_apart _ _ _ (by omega) (by omega)
  rw [octAsg, hpn]
  by_cases hxo : x = o
  · subst hxo
    have := regBits_regPut_inside d offOctpart (k := 0) (n := 1) 1 (show 8 * x + 7 + 1 ≤ 64 by omega) (by omega)
    simp [this, bits]
  · rw [regBits_regPut_apart _ _ _ (by omega) (by omega), octAsg]
    simp [hxo]

/-- One octant taken: it has PNUM = PN, and the others keep theirs. -/
theorem octPn_takeOct (d : Dev) {pn x o : Nat} (hpn : pn < 8) (hx : x < 8) :
    octPn (takeOcts d pn [x]) o = if x = o then pn else octPn d o := by
  split
  · next hxo =>
    subst hxo
    have := regBits_regPut_inside (regPut d offOctpart (8 * x + 7) 1 1) offOctpart (k := 0) (n := 3) pn (show 8 * x + 3 ≤ 64 by omega) (by omega)
    have hbits : bits pn 0 3 = pn := by simp [bits, Nat.mod_eq_of_lt hpn]
    exact this.trans hbits
  · have hput : octPn (takeOcts d pn [x]) o = octPn (regPut d offOctpart (8 * x + 7) 1 1) o :=
      regBits_regPut_apart _ _ _ (by omega) (by omega)
    rw [hput, octPn, regBits_regPut_apart _ _ _ (by omega) (by omega), octPn]

theorem octAsg_takeOcts (d : Dev) {pn o : Nat} (os : List Nat) (hos : ∀ x ∈ os, x < 8) (ho : o < 8) :
    octAsg (takeOcts d pn os) o = (octAsg d o || os.contains o) := by
  induction os generalizing d with
  | nil => simp [takeOcts]
  | cons x os ih =>
    rw [takeOcts_cons, ih _ (fun y hy => hos y (List.mem_cons_of_mem _ hy)), octAsg_takeOct d (hos x List.mem_cons_self) ho]
    rw [List.contains_cons, Bool.or_assoc, BEq.comm]

theorem octPn_takeOcts (d : Dev) {pn : Nat} (hpn : pn < 8) (o : Nat) (os : List Nat) (hos : ∀ x ∈ os, x < 8) :
    octPn (takeOcts d pn os) o = if o ∈ os then pn else octPn d o := by
  induction os generalizing d with
  | nil => simp [takeOcts]
  | cons x os ih =>
    rw [takeOcts_cons, ih _ (fun y hy => hos y (List.mem_cons_of_mem _ hy)), octPn_takeOct d hpn (hos x List.mem_cons_self)]
    by_cases hin : o ∈ os
    · simp [hin]
    · by_cases hxo : x = o
      · simp [hxo]
      · simp [hin, hxo, Ne.symm hxo]

theorem giveOcts_cons (d : Dev) (x : Nat) (os : List Nat) : giveOcts d (x :: os) = giveOcts (giveOcts d [x]) os := rfl

theorem giveOct_setsField (d : Dev) (x : Nat) : SetsField d (giveOcts d [x]) offOctpart (8 * x) 8 0x40 := regPut_setsField ..

theorem giveOcts_frame (d : Dev) (os : List Nat) :
    (giveOcts d os).mem = d.mem ∧ ∀ off, off ≠ offOctpart → regGet (giveOcts d os) off = regGet d off := by
  induction os generalizing d with
  | nil => exact ⟨rfl, fun _ _ => rfl⟩
  | cons x os ih =>
    obtain ⟨hmem, hreg⟩ := ih (giveOcts d [x])
    have hone := giveOct_setsField d x
    exact ⟨hmem.trans hone.mem, fun off ho => (hreg off ho).trans (hone.other ho)⟩

/-- The octant's byte of OCTPART is 0x40: ASG = 0, PNUM = 0, CLR = 1. -/
def GivenUp (d : Dev) (o : Nat) : Prop := octAsg d o = false ∧ octPn d o = 0 ∧ octClr d o = true

theorem givenUp_congr {d d' : Dev} (h : regGet d' offOctpart = regGet d offOctpart) {o : Nat} (hg : GivenUp d o) : GivenUp d' o := by
  rwa [GivenUp, octAsg_congr h, octPn_congr h, octClr_congr h]

theorem givenUp_giveOct (d : Dev) {x : Nat} (hx : x < 8) : GivenUp (giveOcts d [x]) x := by
  have hin := fun {k n : Nat} (hk : k + n ≤ 8) =>
    regBits_regPut_inside d offOctpart (k := k) (n := n) 0x40 (show 8 * x + 8 ≤ 64 by omega) hk
  have hasg : regBits (giveOcts d [x]) offOctpart (8 * x + 7) 1 = 0 := hin (by omega)
  have hpn : regBits (giveOcts d [x]) offOctpart (8 * x) 3 = 0 := hin (k := 0) (by omega)
  have hclr : regBits (giveOcts d [x]) offOctpart (8 * x + 6) 1 = 1 := hin (by omega)
  simp [GivenUp, octAsg, octPn, octClr, hasg, hpn, hclr]

/-- An octant stays given up when another is. -/
theorem givenUp_giveOct_other (d : Dev) {x o : Nat} (hx : x < 8) (hxo : x ≠ o) (hg : GivenUp d o) : GivenUp (giveOcts d [x]) o := by
  have hap := fun {k n : Nat} (hk : k + n ≤ 8) =>
    regBits_regPut_apart d offOctpart (lo' := 8 * o + k) (n := n) 0x40 (show 8 * x + 8 ≤ 64 by omega) (by omega)
  have hasg : regBits (giveOcts d [x]) offOctpart (8 * o + 7) 1 = _ := hap (by omega)
  have hpn : regBits (giveOcts d [x]) offOctpart (8 * o) 3 = _ := hap (k := 0) (by omega)
  have hclr : regBits (giveOcts d [x]) offOctpart (8 * o + 6) 1 = _ := hap (by omega)
  rwa [GivenUp, octAsg, octPn, octClr, hasg, hpn, hclr]

theorem givenUp_giveOcts (d : Dev) (os : List Nat) (hos : ∀ x ∈ os, x < 8) {o : Nat} (h : o ∈ os ∨ GivenUp d o) : GivenUp (giveOcts d os) o := by
  induction os generalizing d with
  | nil => exact h.resolve_left (by simp)
  | cons x os ih =>
    have hx : x < 8 := hos x List.mem_cons_self
    rw [giveOcts_cons]
    refine ih _ (fun y hy => hos y (List.mem_cons_of_mem _ hy)) ?_
    by_cases hxo : x = o
    · exact .inr (hxo ▸ givenUp_giveOct d hx)
    · rcases h with hmem | hg
      · exact .inl (List.mem_of_ne_of_mem (Ne.symm hxo) hmem)
      · exact .inr (givenUp_giveOct_other d hx hxo hg)

/-! ## The commands of OCTCMD (R31, R32) -/

/-- What OCTCMD reads after a command: its fields and STATUS. -/
def octcmdWord (v : Word) (st : Nat) : DWord :=
  BitVec.ofNat 64 (st * 2 ^ 16 + bits v.toNat 12 2 * 2 ^ 12 + bits v.toNat 8 3 * 2 ^ 8 + bits v.toNat 0 8)

/-- STATUS of the command v. -/
def statusOf (d : Dev) (v : Word) : Nat := octStatus d (bits v.toNat 12 2) (bits v.toNat 8 3) (bits v.toNat 0 8)

theorem execOctcmdNone_becomes {s : State} {v : Word} (hon : s.dev.pow.on = true) (hop : bits v.toNat 12 2 = 0 ∨ bits v.toNat 12 2 = 3) :
    Becomes s (.octcmdNone v) (writeOctcmd s.dev v.toNat) := by
  show execOctcmdNone v s = _
  rw [execOctcmdNone, if_pos (by simpa [hon] using hop)]
  rfl

theorem execOctcmdAssign_becomes {s : State} {v : Word} (hon : s.dev.pow.on = true) (hop : bits v.toNat 12 2 = 1) :
    Becomes s (.octcmdAssign v) (writeOctcmd s.dev v.toNat) := by
  show execOctcmdAssign v s = _
  rw [execOctcmdAssign, if_pos (by simp [hon, hop])]
  rfl

theorem execOctcmdRelease_becomes {s : State} {v : Word} (hon : s.dev.pow.on = true) (hop : bits v.toNat 12 2 = 2) :
    Becomes s (.octcmdRelease v) (writeOctcmd s.dev v.toNat) := by
  show execOctcmdRelease v s = _
  rw [execOctcmdRelease, if_pos (by simp [hon, hop])]
  rfl

/-- A refused command changes OCTCMD only. -/
theorem writeOctcmd_refused {d : Dev} {v : Word} {st : Nat} (hst : statusOf d v = st) (h : st ≠ 0) :
    SetsReg d (writeOctcmd d v.toNat) offOctcmd (octcmdWord v st) := by
  subst hst
  have hw : writeOctcmd d v.toNat = regSet d offOctcmd (octcmdWord v (statusOf d v)) := if_pos h
  rw [hw]
  exact regSet_setsReg ..

theorem writeOctcmd_none {d : Dev} {v : Word} (hop : bits v.toNat 12 2 = 0) (hst : statusOf d v = 0) :
    writeOctcmd d v.toNat = regSet d offOctcmd (octcmdWord v 0) := by
  have hst' : octStatus d 0 (bits v.toNat 8 3) (bits v.toNat 0 8) = 0 := by rwa [statusOf, hop] at hst
  simp [writeOctcmd, octcmdWord, hop, hst']

theorem writeOctcmd_assign {d : Dev} {v : Word} (hop : bits v.toNat 12 2 = 1) (hst : statusOf d v = 0) :
    writeOctcmd d v.toNat = assign (regSet d offOctcmd (octcmdWord v 0)) (bits v.toNat 8 3) (maskOcts (bits v.toNat 0 8)) := by
  have hst' : octStatus d 1 (bits v.toNat 8 3) (bits v.toNat 0 8) = 0 := by rwa [statusOf, hop] at hst
  simp [writeOctcmd, octcmdWord, hop, hst']

theorem writeOctcmd_release {d : Dev} {v : Word} (hop : bits v.toNat 12 2 = 2) (hst : statusOf d v = 0) :
    writeOctcmd d v.toNat = release (regSet d offOctcmd (octcmdWord v 0)) (bits v.toNat 8 3) := by
  have hst' : octStatus d 2 (bits v.toNat 8 3) (bits v.toNat 0 8) = 0 := by rwa [statusOf, hop] at hst
  simp [writeOctcmd, octcmdWord, hop, hst']

/-! The rows of STATUS (R32), each under the rows above it. -/

theorem octStatus_early (d : Dev) (op pn mask : Nat) (h : d.pow.stage < 2) : octStatus d op pn mask = 1 := by
  simp [octStatus, h]

section
variable {d : Dev} {pn mask : Nat} (h2 : 2 ≤ d.pow.stage)
include h2

theorem octStatus_nothing : octStatus d 0 pn mask = 0 := by simp [octStatus, Nat.not_lt.mpr h2]

theorem octStatus_reserved : octStatus d 3 pn mask = 3 := by simp [octStatus, Nat.not_lt.mpr h2]

theorem octStatus_assign_none (hos : maskOcts mask = []) : octStatus d 1 pn mask = 3 := by
  simp [octStatus, Nat.not_lt.mpr h2, hos]

theorem octStatus_assign_taken (h : ∃ o ∈ maskOcts mask, octAsg d o = true ∨ octClr d o = true) : octStatus d 1 pn mask = 1 := by
  have hne : maskOcts mask ≠ [] := fun he => by simp [he] at h
  simp [octStatus, Nat.not_lt.mpr h2, hne, h]

theorem octStatus_assign_free (hne : maskOcts mask ≠ []) (h : ∀ o ∈ maskOcts mask, octAsg d o = false ∧ octClr d o = false) :
    octStatus d 1 pn mask = if assigned d pn = true ∨ releasing d pn = true then 2 else 0 := by
  have hfree : (maskOcts mask).any (fun o => octAsg d o || octClr d o) = false := by simpa using h
  simp [octStatus, Nat.not_lt.mpr h2, hne, hfree]

theorem octStatus_release : octStatus d 2 pn mask = if assigned d pn = true then 0 else 2 := by
  by_cases ha : assigned d pn = true
  · simp [octStatus, Nat.not_lt.mpr h2, ha]
  · simp [octStatus, Nat.not_lt.mpr h2, ha]

end

/-! ## An assignment accepted (R32) -/

/-- The pointers of a partition's queues set to 0. -/
def clearQptrs (d : Dev) (pn : Nat) (is : List Nat) : Dev := is.foldl (fun d q => regSet d (offQptr pn q) 0) d

theorem clearQptrs_groups (d : Dev) (pn : Nat) (is : List Nat) : (clearQptrs d pn is).groups = d.groups := by
  induction is generalizing d with
  | nil => rfl
  | cons i is ih => exact ih _

theorem regGet_clearQptrs (d : Dev) (pn : Nat) (is : List Nat) (off : Nat) :
    regGet (clearQptrs d pn is) off = if ∃ i ∈ is, off = offQptr pn i then 0 else regGet d off := by
  induction is generalizing d with
  | nil => simp [clearQptrs]
  | cons i is ih =>
    have hrec : regGet (clearQptrs d pn (i :: is)) off = _ := ih (regSet d (offQptr pn i) 0)
    rw [hrec, regGet_regSet]
    by_cases hi : off = offQptr pn i
    · simp [hi]
    · simp [hi]

theorem zeroStores_memory (d : Dev) (os : List Nat) : os.foldl zeroStore d = { d with mem := (os.foldl zeroStore d).mem } := by
  induction os generalizing d with
  | nil => rfl
  | cons o os ih =>
    rw [List.foldl_cons, ih]
    rfl

/-- The octants taken, and the partition's pointers set to 0. -/
def assignRegs (d : Dev) (pn : Nat) (os : List Nat) : Dev :=
  clearQptrs (regSet (takeOcts d pn os) (offSvcptr pn) 0) pn (List.range 64)

theorem zeroStores_newPart (d : Dev) (pn : Nat) (os : List Nat) : ∃ m credit,
    { os.foldl zeroStore d with
      parts := tput (os.foldl zeroStore d).parts pn (newPart os (regBits (os.foldl zeroStore d) (offTdqcfg pn 0) 0 4 + 1) 0) } =
    { d with mem := m, parts := tput d.parts pn (newPart os credit 0) } := by
  rw [zeroStores_memory]
  exact ⟨_, _, rfl⟩

/-- Beside the registers that an assignment writes, only memory and the partition's record differ. -/
theorem assign_eq (d : Dev) (pn : Nat) (os : List Nat) : ∃ m credit,
    assign d pn os = { assignRegs d pn os with mem := m, parts := tput (assignRegs d pn os).parts pn (newPart os credit 0) } :=
  zeroStores_newPart (assignRegs d pn os) pn os

theorem regGet_assignRegs (d : Dev) (pn : Nat) (os : List Nat) (off : Nat) :
    regGet (assignRegs d pn os) off =
      if ∃ i ∈ List.range 64, off = offQptr pn i then 0 else if off = offSvcptr pn then 0 else regGet (takeOcts d pn os) off := by
  rw [assignRegs, regGet_clearQptrs, regGet_regSet]

theorem regGet_assign (d : Dev) (pn : Nat) (os : List Nat) (off : Nat) :
    regGet (assign d pn os) off =
      if ∃ i ∈ List.range 64, off = offQptr pn i then 0 else if off = offSvcptr pn then 0 else regGet (takeOcts d pn os) off := by
  obtain ⟨m, credit, ha⟩ := assign_eq d pn os
  have hreg : (assign d pn os).reg = (assignRegs d pn os).reg := by rw [ha]
  rw [← regGet_assignRegs, regGet, regGet, hreg]

/-- A register below the queue pointers reads as the octants taken leave it. -/
theorem regGet_assign_low (d : Dev) (pn : Nat) (os : List Nat) {off : Nat} (h : off < offQptr 0 0) :
    regGet (assign d pn os) off = regGet (takeOcts d pn os) off := by
  simp only [offQptr] at h
  rw [regGet_assign, if_neg, if_neg]
  · simp only [offSvcptr]; omega
  · rintro ⟨i, -, hi⟩
    simp only [offQptr] at hi
    omega

theorem regGet_assign_qptr (d : Dev) (pn : Nat) (os : List Nat) {i : Nat} (hi : i < 64) : regGet (assign d pn os) (offQptr pn i) = 0#64 := by
  rw [regGet_assign, if_pos ⟨i, List.mem_range.mpr hi, rfl⟩]
  rfl

theorem regGet_assign_svcptr (d : Dev) (pn : Nat) (os : List Nat) : regGet (assign d pn os) (offSvcptr pn) = 0#64 := by
  rw [regGet_assign, if_pos rfl, ite_self]
  rfl

theorem assign_part (d : Dev) (pn : Nat) (os : List Nat) :
    ∃ q, tget (assign d pn os).parts pn = some q ∧ q.octs = os ∧ q.queues = [] ∧ q.ptr = 0 := by
  obtain ⟨m, credit, ha⟩ := assign_eq d pn os
  refine ⟨newPart os credit 0, ?_, rfl, rfl, rfl⟩
  rw [ha, tget_tput_same]

theorem assign_groups (d : Dev) (pn : Nat) (os : List Nat) : (assign d pn os).groups = d.groups := by
  obtain ⟨m, credit, ha⟩ := assign_eq d pn os
  have hregs : (assignRegs d pn os).groups = (takeOcts d pn os).groups := clearQptrs_groups ..
  rw [ha, ← (takeOcts_frame d pn os).1, ← hregs]

theorem assign_octcmd (d : Dev) (pn : Nat) (os : List Nat) : regGet (assign d pn os) offOctcmd = regGet d offOctcmd := by
  rw [regGet_assign_low d pn os (by simp [offOctcmd, offQptr])]
  exact (takeOcts_frame d pn os).2 _ (by simp [offOctcmd, offOctpart])

theorem octAsg_assign (d : Dev) {pn o : Nat} {os : List Nat} (hos : ∀ x ∈ os, x < 8) (ho : o < 8) :
    octAsg (assign d pn os) o = (octAsg d o || os.contains o) := by
  rw [octAsg_congr (regGet_assign_low d pn os (by simp [offOctpart, offQptr])), octAsg_takeOcts d os hos ho]

theorem octPn_assign (d : Dev) {pn o : Nat} {os : List Nat} (hpn : pn < 8) (hos : ∀ x ∈ os, x < 8) (ho : o ∈ os) :
    octPn (assign d pn os) o = pn := by
  rw [octPn_congr (regGet_assign_low d pn os (by simp [offOctpart, offQptr])), octPn_takeOcts d hpn o os hos, if_pos ho]

/-! ## A release accepted (R33) -/

theorem release_event (d : Dev) (p : Nat) : EventOnly (giveOcts d (asgOcts d p)) (release d p) := by
  have hhalt := fun x : Dev => acceptEvent_event x p { held := false, unit := unitMgmt, kind := 3, cause := 0x0C, detail := 0, cyc := x.cyc }
  exact (modPart_event ..).ite_step (hhalt _)

theorem mem_asgOcts {d : Dev} {p o : Nat} : o ∈ asgOcts d p ↔ o < 8 ∧ octAsg d o = true ∧ octPn d o = p := by
  simp [asgOcts]

theorem givenUp_release (d : Dev) {p o : Nat} (ho : o < 8) (ha : octAsg d o = true) (hp : octPn d o = p) : GivenUp (release d p) o := by
  have hreg : regGet (release d p) offOctpart = _ := (release_event d p).2 _ (by simp [offOctpart, offHaltst])
  exact givenUp_congr hreg (givenUp_giveOcts d _ (fun x hx => (mem_asgOcts.mp hx).1) (.inl (mem_asgOcts.mpr ⟨ho, ha, hp⟩)))

theorem release_octcmd (d : Dev) (p : Nat) : regGet (release d p) offOctcmd = regGet d offOctcmd :=
  ((release_event d p).2 _ (by simp [offOctcmd, offHaltst])).trans ((giveOcts_frame ..).2 _ (by simp [offOctcmd, offOctpart]))

theorem release_mem (d : Dev) (p : Nat) : (release d p).mem = d.mem := (release_event d p).mem.trans (giveOcts_frame ..).1

/-! ## The clearing of an octant (R33, R34) -/

theorem readByte_zeroRange (m : Memory) (lo hi x : Nat) : readByte (zeroRange m lo hi) x = if lo ≤ x ∧ x < hi then 0#8 else readByte m x := by
  unfold readByte tgetD
  induction m with
  | nil => simp [zeroRange, tget]
  | cons c m ih =>
    obtain ⟨k, b⟩ := c
    by_cases hk : lo ≤ k ∧ k < hi
    · have hz : zeroRange ((k, b) :: m) lo hi = zeroRange m lo hi := by simp [zeroRange, hk]
      rw [hz, ih]
      by_cases hx : lo ≤ x ∧ x < hi
      · rw [if_pos hx, if_pos hx]
      · have hkx : k ≠ x := fun e => hx (e ▸ hk)
        simp [hx, tget, hkx]
    · have hz : zeroRange ((k, b) :: m) lo hi = (k, b) :: zeroRange m lo hi := by
        unfold zeroRange
        rw [List.filter_cons_of_pos (by simp; omega)]
      rw [hz, tget, tget]
      by_cases hkx : k = x
      · subst hkx
        simp [hk]
      · simp only [if_neg hkx, ih]

theorem endRelease_frame (d : Dev) (p : Nat) : (endRelease d p).mem = d.mem ∧ regGet (endRelease d p) offOctpart = regGet d offOctpart := by
  unfold endRelease
  split
  · refine ⟨rfl, ?_⟩
    show regGet (regSet d (offHaltst p) 0) offOctpart = _
    rw [regGet_regSet, if_neg (by simp only [offOctpart, offHaltst]; omega)]
  · exact ⟨rfl, rfl⟩

theorem octClr_regPut_clear (d : Dev) {o : Nat} (ho : o < 8) : octClr (regPut d offOctpart (8 * o + 6) 1 0) o = false := by
  have := regBits_regPut_inside d offOctpart (k := 0) (n := 1) 0 (show 8 * o + 6 + 1 ≤ 64 by omega) (by omega)
  simp [octClr, this, bits]

theorem readByte_zeroOct (d : Dev) (o x : Nat) : readByte (zeroOct d o).mem x =
    if (0x480000000 * o ≤ x ∧ x < 0x480000000 * (o + 1)) ∨ (0x4000000000 + 0x4000000 * o ≤ x ∧ x < 0x4000000000 + 0x4000000 * (o + 1))
      then 0#8 else readByte d.mem x := by
  show readByte (zeroRange (zeroRange d.mem (dramBase o) (dramBase o + 0x480000000)) (storeBase o) (storeBase o + 0x4000000)) x = _
  simp only [readByte_zeroRange, dramBase, storeBase, Nat.mul_add, Nat.mul_one, Nat.add_assoc]
  by_cases hdram : 0x480000000 * o ≤ x ∧ x < 0x480000000 * o + 0x480000000
  · simp [hdram]
  · simp [hdram]

theorem execReleaseClear_becomes {s : State} {p : Nat} {q : Part} (hq : tget s.dev.parts p = some q) (hr : clearReady s.dev p q = true) :
    Becomes s (.releaseClear p)
      (applyLater (modPart (clearPart (acceptAll s.dev p) p) p (fun q => clearedPart q s.dev.cyc)) p) := by
  show execReleaseClear p s = _
  simp only [execReleaseClear, hq, hr, if_true]
  rfl

theorem execOctantClearDone_becomes {s : State} {o p c : Nat} (hp : clearingPart s.dev o = some (p, c)) (hclr : octClr s.dev o = true)
    (hlost : o ∉ s.dev.links.octLost) (ho : o < 8) (hc : c + clearCycles ≤ s.dev.cyc) :
    Becomes s (.octantClearDone o) (endRelease (regPut (zeroOct s.dev o) offOctpart (8 * o + 6) 1 0) p) := by
  show execOctantClearDone o s = _
  simp only [execOctantClearDone, hp]
  rw [if_pos (by simp [hclr, hlost, ho, hc])]
  rfl

/-! ## What each command answers -/

theorem octcmdWord_eq (v : Word) (st : Nat) : octcmdWord v st =
    BitVec.ofNat 64 (st * 2 ^ 16 + v.toNat / 2 ^ 12 % 4 * 2 ^ 12 + v.toNat / 2 ^ 8 % 8 * 2 ^ 8 + v.toNat % 256) := by
  simp [octcmdWord, bits]

/-- A command that leaves the octants as they are: OCTCMD takes its STATUS, and nothing else differs. -/
def OnlyReads (v : Word) (d d' : Dev) (st : Nat) : Prop := d' = { d with reg := d'.reg } ∧ regGet d' offOctcmd = octcmdWord v st

theorem SetsReg.onlyReads {d d' : Dev} {v : Word} {st : Nat} (h : SetsReg d d' offOctcmd (octcmdWord v st)) : OnlyReads v d d' st :=
  ⟨h.1, h.self⟩

/-- OP = 0 and OP = 3: STATUS is answered, and nothing else differs. -/
theorem writeOctcmd_idle (d : Dev) {v : Word} (hop : bits v.toNat 12 2 = 0 ∨ bits v.toNat 12 2 = 3) :
    OnlyReads v d (writeOctcmd d v.toNat) (if d.pow.stage < 2 then 1 else if bits v.toNat 12 2 = 3 then 3 else 0) := by
  by_cases h2 : d.pow.stage < 2
  · rw [if_pos h2]
    exact (writeOctcmd_refused (octStatus_early d _ _ _ h2) (by decide)).onlyReads
  · have h2' : 2 ≤ d.pow.stage := Nat.not_lt.mp h2
    rw [if_neg h2]
    rcases hop with hop | hop
    · have hst : statusOf d v = 0 := by rw [statusOf, hop, octStatus_nothing h2']
      rw [writeOctcmd_none hop hst, if_neg (by omega)]
      exact (regSet_setsReg ..).onlyReads
    · have hst : statusOf d v = 3 := by rw [statusOf, hop, octStatus_reserved h2']
      rw [if_pos hop]
      exact (writeOctcmd_refused hst (by decide)).onlyReads

/-- An assignment accepted, read at each register and record that it writes. -/
theorem writeOctcmd_assigns (d : Dev) {v : Word} (hop : bits v.toNat 12 2 = 1) (hst : statusOf d v = 0) :
    let d' := writeOctcmd d v.toNat
    let pn := bits v.toNat 8 3
    let os := maskOcts (bits v.toNat 0 8)
    regGet d' offOctcmd = octcmdWord v 0 ∧ (∀ o, o < 8 → octAsg d' o = (octAsg d o || os.contains o)) ∧ (∀ o ∈ os, octPn d' o = pn) ∧
      (∃ q, tget d'.parts pn = some q ∧ q.octs = os ∧ q.queues = [] ∧ q.ptr = 0) ∧
      (∀ i, i < 64 → regGet d' (offQptr pn i) = 0#64) ∧ regGet d' (offSvcptr pn) = 0#64 ∧ d'.groups = d.groups := by
  intro d' pn os
  have hd' : d' = assign (regSet d offOctcmd (octcmdWord v 0)) pn os := writeOctcmd_assign hop hst
  have hcmd := regSet_setsReg d offOctcmd (octcmdWord v 0)
  have hpart := hcmd.other (o := offOctpart) (by decide)
  have hlt : ∀ x ∈ os, x < 8 := fun x hx => maskOcts_lt hx
  have hpn : pn < 8 := Nat.mod_lt _ (by decide)
  rw [hd']
  refine ⟨?_, fun o ho => ?_, fun o ho => octPn_assign _ hpn hlt ho, assign_part .., fun i hi => regGet_assign_qptr _ pn os hi,
    regGet_assign_svcptr .., ?_⟩
  · rw [assign_octcmd, hcmd.self]
  · rw [octAsg_assign _ hlt ho, octAsg_congr hpart]
  · rw [assign_groups, hcmd.groups]

/-- A release accepted: the partition's octants are given up, and memory is not changed. -/
theorem writeOctcmd_releases (d : Dev) {v : Word} (hop : bits v.toNat 12 2 = 2) (hst : statusOf d v = 0) :
    let d' := writeOctcmd d v.toNat
    regGet d' offOctcmd = octcmdWord v 0 ∧ (∀ o, o < 8 → octAsg d o = true → octPn d o = bits v.toNat 8 3 → GivenUp d' o) ∧ d'.mem = d.mem := by
  intro d'
  have hd' : d' = release (regSet d offOctcmd (octcmdWord v 0)) (bits v.toNat 8 3) := writeOctcmd_release hop hst
  have hcmd := regSet_setsReg d offOctcmd (octcmdWord v 0)
  have hpart := hcmd.other (o := offOctpart) (by decide)
  rw [hd']
  refine ⟨?_, fun o ho ha hp => givenUp_release _ ho ?_ ?_, ?_⟩
  · rw [release_octcmd, hcmd.self]
  · rwa [octAsg_congr hpart]
  · rwa [octPn_congr hpart]
  · rw [release_mem, hcmd.mem]

/-- Settles O56: each row of STATUS, what an assignment and a release leave, and the octant's memory after its clearing. -/
theorem assignmentAndRelease : Obligations.AssignmentAndRelease := by
  unfold Obligations.AssignmentAndRelease
  intro s v hon d op pn os reads
  have hreads : ∀ {x : Dev} {st : Nat}, regGet x offOctcmd = octcmdWord v st → reads x st := fun h => h.trans (octcmdWord_eq v _)
  have honly : ∀ {d' : Dev} {st : Nat}, OnlyReads v d d' st → d' = { d with reg := d'.reg } ∧ reads d' st :=
    fun ⟨hframe, hst⟩ => ⟨hframe, hreads hst⟩
  have hrefused : ∀ {st : Nat}, statusOf d v = st → st ≠ 0 →
      writeOctcmd d v.toNat = { d with reg := (writeOctcmd d v.toNat).reg } ∧ reads (writeOctcmd d v.toNat) st :=
    fun hst hne => honly (writeOctcmd_refused hst hne).onlyReads
  have hos : maskOcts (bits v.toNat 0 8) = os := maskOcts_eq_filter v
  refine ⟨fun hop => ⟨_, execOctcmdNone_becomes hon hop, honly (writeOctcmd_idle d hop)⟩,
    fun hop => ⟨_, execOctcmdAssign_becomes hon hop, ?_⟩, fun hop => ⟨_, execOctcmdRelease_becomes hon hop, ?_⟩,
    fun p q hq hr => execReleaseClear_becomes hq hr, fun o p c hp hclr hlost ho hc => ⟨_, execOctantClearDone_becomes hp hclr hlost ho hc, ?_, ?_⟩⟩
  · have hst : statusOf d v = octStatus d 1 pn (bits v.toNat 0 8) := congrArg (fun n => octStatus d n pn (bits v.toNat 0 8)) hop
    refine ⟨fun h2 => hrefused (octStatus_early d _ _ _ h2) (by decide), fun h2 hnil => ?_, fun h2 _ htaken => ?_, fun h2 hne hfree hbusy => ?_,
      fun h2 hne hfree hna hnr => ?_⟩
    · exact hrefused (hst.trans (octStatus_assign_none h2 (hos.trans hnil))) (by decide)
    · exact hrefused (hst.trans (octStatus_assign_taken h2 (hos ▸ htaken))) (by decide)
    · exact hrefused (hst.trans ((octStatus_assign_free h2 (hos ▸ hne) (hos ▸ hfree)).trans (if_pos hbusy))) (by decide)
    · have hst0 : statusOf d v = 0 := hst.trans ((octStatus_assign_free h2 (hos ▸ hne) (hos ▸ hfree)).trans (if_neg (by simp [hna, hnr])))
      have hdone := writeOctcmd_assigns d hop hst0
      rw [hos] at hdone
      exact ⟨hreads hdone.1, hdone.2⟩
  · have hst : statusOf d v = octStatus d 2 pn (bits v.toNat 0 8) := congrArg (fun n => octStatus d n pn (bits v.toNat 0 8)) hop
    refine ⟨fun h2 => hrefused (octStatus_early d _ _ _ h2) (by decide), fun h2 hna => ?_, fun h2 ha => ?_⟩
    · exact hrefused (hst.trans ((octStatus_release h2).trans (if_neg (by simp [hna])))) (by decide)
    · obtain ⟨hcmd, hrest⟩ := writeOctcmd_releases d hop (hst.trans ((octStatus_release h2).trans (if_pos ha)))
      exact ⟨hreads hcmd, hrest⟩
  · rw [octClr_congr (endRelease_frame ..).2, octClr_regPut_clear _ ho]
  · intro x
    rw [(endRelease_frame ..).1]
    exact readByte_zeroOct d o x

end Sys2Proof.Machine
end
